-- ==== Sys2Proof/Word.lean ====
section
/-! DEFINITION. The widths the spec gives to words (R4, R44, R86, R87) and their plainest names. -/

namespace Sys2Proof

/-- One byte of memory (R4: little-endian, byte addressed). -/
abbrev Byte := BitVec 8

/-- A 32-bit register element (R68, R86). -/
abbrev Word32 := BitVec 32

/-- A 64-bit scalar, code word or register (R44, R68). -/
abbrev Word64 := BitVec 64

/-- A set of lanes of a wave: bit l is lane l (R120). -/
abbrev LaneMask := BitVec 32

/-- A 48-bit virtual byte address (R44). -/
abbrev VAddr := BitVec 48

/-- The reading a Pending token gives (R13). -/
def pendingWord : Word64 := BitVec.allOnes 64

end Sys2Proof
end

