-- ==== Sys2Proof/Syntax.lean ====
section
/-! DEFINITION. The abstract syntax: one constructor of Instr for each row of spec/opcode_table.json.
First the wave instructions (R71 to R74), then the sluice instructions (R77), then the events of the device and the
host (spec/95_what_each_step_holds.md). -/

namespace Sys2Proof

/-- An operand of the 8-bit operand space (R68). -/
inductive Operand where
  | v (n : Fin 192)
  | s (n : Fin 32)
  | win (n : Fin 16)
  | zero | laneid | quadid | waveid | groupid | gangid | role | hrank
  | q (n : Fin 4)
  | bnd (n : Fin 4)
  deriving DecidableEq, Repr

/-- The common guard prefix PRED, PNEG (R60, R61). -/
structure Guard where
  pred : Fin 8
  neg : Bool
  deriving DecidableEq, Repr

/-- Source B of a major that accepts F-I (R63). -/
inductive SrcB where
  | reg (o : Operand)
  | imm (i : Word32)
  deriving DecidableEq, Repr

/-- TYPE of the integer majors (R65). -/
inductive IntTy where
  | s32 | z32 | s64 | z64 | s16x2 | z16x2 | s8x4 | z8x4
  deriving DecidableEq, Repr

/-- TYPE of the float majors (R65). -/
inductive FloatTy where
  | f32 | f16x2 | bf16x2
  deriving DecidableEq, Repr

/-- TYPE of SHFL, RDLANE and QXCH (R127). -/
inductive LaneTy where
  | w32s | w32z | w64s | w64z
  deriving DecidableEq, Repr

/-- TYPE of REDUCE and SCAN (R127). -/
inductive RedTy where
  | s32 | z32 | s64 | z64 | f32 | f16x2 | bf16x2
  deriving DecidableEq, Repr

/-- RND codes (R67, R94). -/
inductive Rnd where
  | dyn | rne | rtz | rup | rdn | rna | rsto | rodd
  deriving DecidableEq, Repr

/-- SCOPE codes 0 to 4 (R67). -/
inductive Scope where
  | wave | group | cluster | device | system
  deriving DecidableEq, Repr

/-- ORDER codes (R67). -/
inductive MemOrder where
  | relaxed | acquire | release | acqRel
  deriving DecidableEq, Repr

/-- WIDTH of loads (R67). -/
inductive LoadWidth where
  | z8 | z16 | b32 | b64 | b128 | s8 | s16
  deriving DecidableEq, Repr

/-- WIDTH of stores (R67). -/
inductive StoreWidth where
  | w8 | w16 | w32 | w64 | w128
  deriving DecidableEq, Repr

/-- WIDTH 2 or 3 of atomics and BNDMIN (R189, R207). -/
inductive AtomWidth where
  | b32 | b64
  deriving DecidableEq, Repr

/-- The element formats of R66. -/
inductive Fmt where
  | i4 | u4 | i8 | u8 | i16 | u16 | i32 | u32 | i64 | u64
  | f32 | f16 | bf16 | bs16 | bs8 | ternary | plane1 | plane2
  deriving DecidableEq, Repr

/-- Integer comparisons (R139). -/
inductive ICond where
  | eq | ne | lt | le | gt | ge
  deriving DecidableEq, Repr

/-- Float comparisons (R140). -/
inductive FCond where
  | eq | ne | lt | le | gt | ge | uno | ord
  deriving DecidableEq, Repr

/-- VOTE forms (R148). -/
inductive VoteForm where
  | some | every | gather | agree | count | lead
  deriving DecidableEq, Repr

/-- SHFL forms (R149). -/
inductive ShflForm where
  | from | back | ahead | mirror | rot
  deriving DecidableEq, Repr

/-- Operations of REDUCE and SCAN (R151). -/
inductive RedOp where
  | add | min | max | and | or | xor
  deriving DecidableEq, Repr

/-- QXCH forms; bc takes the quad position from B (R152). -/
inductive QxchForm where
  | h | v | d | bc (pos : Fin 4)
  deriving DecidableEq, Repr

/-- PLOP operations (R153). -/
inductive PlopOp where
  | and | or | xor | andn | not | mov
  deriving DecidableEq, Repr

/-- Operations of ATOM and RED (R189). -/
inductive AtomOp where
  | add | min | max | smin | smax | and | or | xor | exch | cas
  deriving DecidableEq, Repr

/-- Placement hints of LD and ST (R186). -/
inductive Hint where
  | none | stream | l2 | keep
  deriving DecidableEq, Repr

/-- Limit of RECRUIT (R381). -/
inductive RecruitLimit where
  | wave | core | cluster
  deriving DecidableEq, Repr

/-- Which channels a MAC-family operation uses (R240). -/
inductive Half where
  | full | a | b
  deriving DecidableEq, Repr

/-- Integer ALU form D, A, B. -/
structure AluI where
  g : Guard
  ty : IntTy
  d : Operand
  a : Operand
  b : SrcB
  deriving DecidableEq, Repr

/-- Integer ALU form D, A. -/
structure AluI1 where
  g : Guard
  ty : IntTy
  d : Operand
  a : Operand
  deriving DecidableEq, Repr

/-- Integer ALU form D, A, B, C. -/
structure AluI3 where
  g : Guard
  ty : IntTy
  d : Operand
  a : Operand
  b : Operand
  c : Operand
  deriving DecidableEq, Repr

/-- Float ALU form D, A, B with its rounding. -/
structure AluF where
  g : Guard
  ty : FloatTy
  rnd : Rnd
  d : Operand
  a : Operand
  b : SrcB
  deriving DecidableEq, Repr

/-- Float ALU form D, A, B, C. -/
structure AluF3 where
  g : Guard
  ty : FloatTy
  rnd : Rnd
  d : Operand
  a : Operand
  b : Operand
  c : Operand
  deriving DecidableEq, Repr

/-- Float function form D, A (f32 only, R146). -/
structure AluF1 where
  g : Guard
  rnd : Rnd
  d : Operand
  a : Operand
  deriving DecidableEq, Repr

/-- CVT and CVT.sat: D, A and the two format codes of MOD (R147). -/
structure CvtForm where
  g : Guard
  rnd : Rnd
  d : Operand
  a : Operand
  dst : Fmt
  src : Fmt
  deriving DecidableEq, Repr

/-- LDK: D and the signed word offset (R59). -/
structure LdkForm where
  g : Guard
  d : Operand
  off : Word32
  deriving DecidableEq, Repr

/-- Lane form D, A, B, C of SHFL (R149). -/
structure ShflFields where
  g : Guard
  ty : LaneTy
  d : Operand
  a : Operand
  b : Operand
  c : Operand
  deriving DecidableEq, Repr

/-- Address fields of an F-M access: base, index, signed offset (R179). -/
structure Addr where
  a : Operand
  b : Operand
  off : BitVec 16
  deriving DecidableEq, Repr

/-- A load (LD, LDS). -/
structure LoadForm where
  g : Guard
  d : Operand
  m : Addr
  width : LoadWidth
  order : MemOrder
  scope : Scope
  deriving DecidableEq, Repr

/-- A store (ST, STS). -/
structure StoreForm where
  g : Guard
  d : Operand
  m : Addr
  width : StoreWidth
  order : MemOrder
  scope : Scope
  deriving DecidableEq, Repr

/-- An atomic (ATOM, RED). -/
structure AtomForm where
  g : Guard
  op : AtomOp
  d : Operand
  m : Addr
  width : AtomWidth
  order : MemOrder
  scope : Scope
  deriving DecidableEq, Repr

/-- A futures access (R199); d is zero in FRESET. -/
structure FutForm where
  g : Guard
  d : Operand
  m : Addr
  order : MemOrder
  scope : Scope
  deriving DecidableEq, Repr

/-- CCTL: length D, base A, token B (R236). -/
structure CctlForm where
  g : Guard
  d : Fin 32
  a : Fin 32
  b : Fin 32
  scope : Scope
  deriving DecidableEq, Repr

/-- A barrier count: a scalar, or the immediate when A is zero (R168). -/
inductive Count where
  | reg (n : Fin 32)
  | imm (n : BitVec 16)
  deriving DecidableEq, Repr

/-- REP fields (R164). -/
structure RepForm where
  count : Option (Fin 32)
  icount : BitVec 12
  sd : Fin 16
  sa : Fin 16
  sb : Fin 16
  sc : Fin 16
  deriving DecidableEq, Repr

/-- MMAC, MMACT and MMACU fields (R266, R268). -/
structure MacForm where
  g : Guard
  acc : Fin 8
  xa : Fin 32
  xb : Fin 32
  xc : Fin 32
  ksteps : Fin 64
  as : BitVec 8
  bs : BitVec 8
  half : Half
  ta : Bool
  tb : Bool
  deriving DecidableEq, Repr

/-- The scale, rounding, saturation and format fields of a drain (R297). -/
structure DrainFmt where
  scale : BitVec 8
  rnd : Rnd
  sat : Bool
  fmt : Fmt
  deriving DecidableEq, Repr

/-- A tick operand: a scalar, or zero for none (R74). -/
abbrev TickArg := Option (Fin 32)

/-- The command queues that hold guarded or ticked commands (R36, R40). -/
inductive QueueRef where
  | sluice (core : Nat)
  | matrix (group : Nat)
  | launch (core : Nat)
  | deque (core : Nat)
  | flume (core : Nat)
  deriving DecidableEq, Repr

/-- The engines that take range locks (R31). -/
inductive EngineRef where
  | sluice (core : Nat)
  | matrix (core : Nat)
  | deco (cluster : Nat)
  | flume (tower : Nat)
  deriving DecidableEq, Repr

/-- Where a soft error strikes (R128, R93); `verify` strikes one of the two issues of a float instruction (R130). -/
inductive SoftTarget where
  | vreg (wave reg lane : Nat) (flip : Word32)
  | sreg (wave reg : Nat) (flip : Word64)
  | pred (wave p : Nat) (flip : Word32)
  | residue (group tile elem chan : Nat) (value : BitVec 9)
  | verify (wave : Nat) (lanes : LaneMask)
  deriving DecidableEq, Repr

/-- A collective's header as the ranks exchange it (R461); bad marks it invalid. -/
structure CollHeader where
  op : Nat
  dtype : Nat
  rop : Nat
  root : Nat
  fctl : Nat
  count : Nat
  chunk : Nat
  mset : List Byte
  bad : Bool
  deriving DecidableEq, Repr

/-- A remote access that another device asks of this one (R449). -/
inductive RemoteReq where
  | read (pa : Nat) (n : Nat)
  | write (pa : Nat) (data : List Byte)
  | atomic (pa : Nat) (op : AtomOp) (width : AtomWidth) (red : Bool) (lanes : List (Word64 × Word64))
  deriving DecidableEq, Repr

/-- A host access through the device-memory window (R494), or a new firmware image through the image window (R493, R497). -/
inductive HostAccess where
  | read (pa : Nat) (n : Nat)
  | write (pa : Nat) (data : List Byte)
  | image (data : List Byte)
  deriving DecidableEq, Repr

/-- Where the dispatcher puts the groups of a gang: for each group its core and the slots of its waves (R358). -/
abbrev Placement := List (Nat × List Nat)

/-- What returns for an outstanding load: the lanes whose data lands, and what another device answers by lane (R51, R449). -/
structure LoadReturn where
  lanes : BitVec 32
  ext : List (Nat × BitVec 128)
  deriving DecidableEq, Repr

/-- A request to suspend a gang: by system software, or by the dispatcher (R365). -/
structure SuspendAsk where
  gang : Nat
  software : Bool
  deriving DecidableEq, Repr

/-- How a woken wave comes back: its slot, and a block of its phase record that the read finds uncorrectable (R375, R424). -/
structure JoinReturn where
  slot : Nat
  damaged : Option Nat
  deriving DecidableEq, Repr

/-- One step of the device, one constructor for each row of the opcode table. -/
inductive Instr where
  -- wave instructions, rows 82 to 230
  | iadd (f : AluI) | isub (f : AluI) | iadds (f : AluI) | isubs (f : AluI)
  | imul (f : AluI) | imulh (f : AluI) | imad (f : AluI3)
  | imin (f : AluI) | imax (f : AluI) | iabs (f : AluI1) | ineg (f : AluI1)
  | and (f : AluI) | or (f : AluI) | xor (f : AluI) | andn (f : AluI) | not (f : AluI1)
  | shl (f : AluI) | shr (f : AluI) | sar (f : AluI) | rot (f : AluI)
  | bfx (f : AluI3) | bfi (f : AluI3)
  | clz (f : AluI1) | popc (f : AluI1) | brev (f : AluI1)
  | permb (f : AluI)
  | icmp (cc : ICond) (g : Guard) (ty : IntTy) (pd : Fin 8) (a : Operand) (b : SrcB)
  | fcmp (cc : FCond) (g : Guard) (ty : FloatTy) (rnd : Rnd) (pd : Fin 8) (a : Operand) (b : SrcB)
  | sel (g : Guard) (ty : IntTy) (d a b : Operand) (p : Fin 8) (neg : Bool)
  | mov (g : Guard) (ty : IntTy) (d : Operand) (b : SrcB)
  | modmul (f : AluI3) | modadd (f : AluI3) | modsub (f : AluI3) | modrcp (f : AluI)
  | fadd (f : AluF) | fsub (f : AluF) | fmul (f : AluF) | ffma (f : AluF3)
  | fmin (f : AluF) | fmax (f : AluF) | fdot2 (f : AluF3)
  | frcp (f : AluF1) | frsq (f : AluF1) | fexp2 (f : AluF1) | flog2 (f : AluF1)
  | fsin (f : AluF1) | fcos (f : AluF1)
  | cvt (f : CvtForm) | cvtSat (f : CvtForm)
  | ldk (f : LdkForm) | ldkS (f : LdkForm)
  | give (g : Guard) (n : BitVec 8)
  | claim (g : Guard) (pd : Fin 8) (n : BitVec 8)
  | vote (g : Guard) (form : VoteForm) (d : Operand) (pd : Fin 8) (p : Fin 8) (neg : Bool)
  | shfl (k : ShflForm) (f : ShflFields)
  | rdlane (g : Guard) (ty : LaneTy) (d a b : Operand)
  | reduce (g : Guard) (op : RedOp) (ty : RedTy) (d a : Operand)
  | scan (g : Guard) (op : RedOp) (excl : Bool) (ty : RedTy) (d a : Operand)
  | qxch (g : Guard) (k : QxchForm) (ty : LaneTy) (d a : Operand)
  | plop (g : Guard) (op : PlopOp) (pd pa pb : Fin 8)
  | bra (tgt : BitVec 20)
  | bany (g : Guard) (tgt : BitVec 20)
  | ball (g : Guard) (tgt : BitVec 20)
  | bnone (g : Guard) (tgt : BitVec 20)
  | bdiv (g : Guard) (tgt conf : BitVec 20)
  | conf
  | call (tgt : BitVec 20)
  | ret
  | jtb (a : Operand) (table dflt : BitVec 20)
  | rep (f : RepForm)
  | exit (g : Guard)
  | nop
  | yield
  | nap (cycles : Word32)
  | bar
  | gbar
  | cbar (g : Guard) (n : Count) (cb : Fin 16)
  | cbwt (g : Guard) (cb : Fin 16)
  | cbarArm (g : Guard) (n : Count) (cb : Fin 16)
  | ld (hint : Hint) (f : LoadForm)
  | st (hint : Hint) (f : StoreForm)
  | lds (f : LoadForm)
  | sts (f : StoreForm)
  | pref (g : Guard) (l2 : Bool) (m : Addr)
  | atom (f : AtomForm)
  | red (f : AtomForm)
  | fence (g : Guard) (order : MemOrder) (scope : Scope)
  | txb (g : Guard)
  | txe (g : Guard) (d : Fin 192)
  | txa (g : Guard) (code : BitVec 8)
  | fwait (f : FutForm) | ffill (f : FutForm) | fpeek (f : FutForm) | freset (f : FutForm)
  | qpush (g : Guard) (q : Fin 4) (d : Operand)
  | qlen (g : Guard) (q : Fin 4) (d : Fin 32)
  | bndmin (g : Guard) (n : Fin 4) (width : AtomWidth) (d : Operand)
  | bndwt (g : Guard) (n : Fin 4) (d : Fin 32)
  | cctlWb (f : CctlForm) | cctlInv (f : CctlForm) | cctlWbinv (f : CctlForm)
  | icinv (g : Guard) (scope : Scope) (tok : Fin 32)
  | setmod (xa : Fin 32)
  | setmodDefault
  | setfmt (af bf df : Fmt)
  | mzero (g : Guard) (acc : Fin 8)
  | mmac (f : MacForm) | mmact (f : MacForm) | mmacu (f : MacForm)
  | mpair (partner : Fin 4) (follow : Bool)
  | msolo
  | mbatch (sd : Fin 32)
  | mwait (b : Fin 16)
  | msig (b : Fin 16) (cb : Fin 16) (n : BitVec 16)
  | mspill (g : Guard) (acc : Fin 8) (xa : Fin 32)
  | mfill (g : Guard) (acc : Fin 8) (xa : Fin 32)
  | mdrain (g : Guard) (acc : Fin 8) (xa : Fin 32) (f : DrainFmt) (ds : BitVec 8)
  | mdrainv (g : Guard) (acc : Fin 8) (f : DrainFmt) (row : Fin 64) (pair : Fin 96)
  | mdigit (g : Guard) (acc : Fin 8) (xa : Fin 32) (digit : Fin 10)
  | mchk (g : Guard) (acc rt ct : Fin 8) (xa : Fin 32)
  | mstat (g : Guard) (clr : Bool) (sd : Fin 32)
  | slaunch (g : Guard) (d a b : Fin 32) (c : TickArg)
  | sstat (g : Guard) (d : Fin 32)
  | sstop (g : Guard) (d : Fin 32)
  | launch (g : Guard) (a : Fin 32) (c : TickArg)
  | joinw (a : Fin 32)
  | spawn (g : Guard) (a : Operand) (b : Fin 32)
  | take (g : Guard) (d : Fin 32)
  | prio (n : Fin 8)
  | recruit (g : Guard) (lim : RecruitLimit) (d : Fin 32) (a b : Operand) (c : Fin 32) (win : Operand)
  | tclaim (g : Guard) (d a : Fin 32)
  | tdoneHelper
  | tdoneRecruiter (a : Fin 32)
  | tjoin (d a : Fin 32)
  | tfree (g : Guard) (a : Fin 32)
  | coll (g : Guard) (d a : Fin 32) (c : TickArg)
  | cwait (a : Fin 32)
  | cstat (g : Guard) (d a : Fin 32)
  | cabort (g : Guard) (d a : Fin 32)
  | trap (g : Guard) (n : Fin 16)
  | brk (g : Guard)
  | efence
  | tret
  | tmask (on : Bool)
  | srd (g : Guard) (d : Operand) (n : BitVec 16)
  | swr (g : Guard) (a : Operand) (n : BitVec 16)
  | tlbinvAll (g : Guard) (d : Fin 32)
  | tlbinvAsid (g : Guard) (d b : Fin 32)
  | tlbinvPage (g : Guard) (d a b : Fin 32)
  -- sluice instructions, rows 231 to 262
  | sLi (d : Fin 16) (i : BitVec 14)
  | sAdd (d a b : Fin 16)
  | sAddi (d a : Fin 16) (i : BitVec 14)
  | sSub (d a b : Fin 16)
  | sMul (d a b : Fin 16)
  | sAnd (d a b : Fin 16)
  | sOr (d a b : Fin 16)
  | sShl (d a b : Fin 16)
  | sShr (d a b : Fin 16)
  | sMin (d a b : Fin 16)
  | sMax (d a b : Fin 16)
  | sBeq (a b : Fin 16) (i : BitVec 14)
  | sBne (a b : Fin 16) (i : BitVec 14)
  | sBlt (a b : Fin 16) (i : BitVec 14)
  | sBge (a b : Fin 16) (i : BitVec 14)
  | sJmp (i : BitVec 14)
  | sLoop (a : Fin 16) (n : BitVec 14)
  | sEndl
  | sHalt
  | sLdx (d a : Fin 16) (i : BitVec 14)
  | sTdesc (d : Fin 8) (a : Fin 16)
  | sTstep (d : Fin 8) (a : Fin 16) (k : Fin 4)
  | sTaddr (d : Fin 16) (a : Fin 8)
  | sMove (d a : Fin 8) (b : Fin 16)
  | sGather (d a : Fin 8) (b : Fin 16)
  | sConv (d a : Fin 8) (src dst : Fmt)
  | sDeco (d : Fin 8) (a : Fin 16)
  | sTopk (d a : Fin 8) (b : Fin 16) (k : BitVec 14)
  | sArrive (a : Fin 16) (cb : Fin 16)
  | sWaitb (cb : Fin 16)
  | sSignal (a : Fin 16)
  | sTickw (a : Fin 16)
  -- device and host events, rows 0 to 81
  | clauseIssue (core quarter : Nat)
  | loadDataReturn (wave op : Nat) (data : LoadReturn)
  | guardResolve (q : QueueRef)
  | startTickReached (q : QueueRef)
  | engineLockStallResume (e : EngineRef)
  | napExpire (wave split : Nat)
  | spinMarkTimeout (group : Nat)
  | bndminApply (cluster : Nat)
  | homeSliceAtomic (wave op lane : Nat)
  | futuresRequest (wave op lane : Nat)
  | bankFillDone (core bank : Nat)
  | matrixEntryStart (core : Nat)
  | matrixEntryComplete (group op : Nat)
  | setmodTakeEffect (group : Nat)
  | batchRetire (group : Nat)
  | sluiceProgramStart (core : Nat)
  | sluiceImageLoaded (core : Nat)
  | sluiceStopEffect (core : Nat)
  | decoBlockSelect (cluster : Nat)
  | decoBlockComplete (cluster : Nat)
  | amloadStart (value : Word64)
  | rcarm (value : Word64)
  | hqNop (tower : Nat)
  | hqSubmit (tower : Nat)
  | hqDecr (tower : Nat)
  | hqFence (tower : Nat)
  | frontEndIdle (tower : Nat)
  | dbell (mask : Word64)
  | launchAccept (core : Nat)
  | gangPlace (node : Nat) (place : Placement)
  | transformRun (node : Nat)
  | sluiceNodeStart (node core : Nat)
  | nodeComplete (node : Nat)
  | waveEvict (wave : Nat)
  | waveRestore (wave slot : Nat) (damaged : Option Nat)
  | gangSuspend (ask : SuspendAsk)
  | gangResume (gang : Nat) (place : Placement) (damaged : Option Nat)
  | joinCounterZero (pa : Nat)
  | joinResume (wave core : Nat) (back : JoinReturn)
  | chunkCommit (wave lane : Nat)
  | helperRelease (wave : Nat)
  | preemptOverdue (wave : Nat)
  | pageWalk (core asid : Nat) (va : VAddr) (uncorrectable : Option Nat)
  | collDequeue (core : Nat)
  | flumeHeaderExchange (comm : Nat) (headers : List (Nat × CollHeader))
  | flumeChunkGrant (tower : Nat)
  | flumeChunkDone (tower : Nat) (slotB : Bool)
  | flumeChunkReceive (comm rank off : Nat) (data : List Byte) (crcOk : Bool)
  | flumeReceiveDrain (comm : Nat)
  | flumeCreditGrant (comm rank : Nat)
  | flumeAbortMessage (comm rank : Nat)
  | flumePeerTimeout (comm : Nat)
  | remoteAccessRequest (req : RemoteReq)
  | remoteAccessTimeout (wave op : Nat)
  | portFail (port : Fin 12)
  | portctl (value : Word64)
  | portTrainDone (port : Fin 12) (up : Bool) (lanes : Nat)
  | evtail (value : Word64)
  | diedrop (tower : Fin 4) (value : Word64)
  | dieDropComplete (tower : Fin 4) (unreadable : List (Nat × Nat × Nat))
  | towerDrop (tower : Fin 4)
  | towerForceDrop (tower : Fin 4)
  | noplace (tower : Fin 4) (value : Bool)
  | homeSweepStep (slice : Nat)
  | tickset (value : Word64)
  | thermalWarn (celsius : BitVec 8)
  | thermalFreeze (celsius : BitVec 8)
  | pwrcap (value : Word64)
  | attctl (value : Word64)
  | wayen (tower : Fin 4) (value : Word64)
  | wayGateDone (tower : Fin 4) (way : Fin 16)
  | bankgate (core : Nat) (value : Word64)
  | bankGated (core : Nat) (bank : Fin 8)
  | hostMemoryAccess (a : HostAccess)
  | registerWrite (unit reg : Nat) (value : Word64)
  -- further events, rows 263 to 279
  | tickwExpire (core : Nat)
  | illegalSluiceInstruction (core : Nat)
  | cctlComplete (wave op : Nat)
  | icinvComplete (wave op : Nat)
  | tlbinvComplete (wave op : Nat)
  | storePerformed (wave op : Nat)
  | dirtyLineWriteBack (cluster : Nat)
  | translationRemovedForCapacity (core : Nat) (shared : Bool) (idx : Nat)
  | softError (t : SoftTarget)
  | sluiceTransferComplete (core : Nat)
  | remoteWriteAcknowledged (wave op : Nat)
  | flumeAbortAcknowledged (comm rank : Nat)
  | flumeResendRequest (comm rank off : Nat)
  | flumeRankDstWritten (comm rank : Nat)
  | thermalWarnEnd (celsius : BitVec 8)
  | gridEndedBySystemSoftware (node : Nat)
  | amloadComplete
  | freezePin
  | freezeWrite
  | freezeEnd
  | scanRead
  | attestationSigned
  | deviceReset
  | freezePinRelease
  deriving DecidableEq, Repr

end Sys2Proof
end

