-- ==== Sys2Proof/WellFormed.lean ====
section
/-! DEFINITION. Which instructions are well formed whatever wave holds them: operand classes, register alignment,
element types, field limits. What depends on the wave (its allotment, helper code) is checked at clause issue. -/

namespace Sys2Proof

/-- The four operand byte fields of a word (R62). -/
inductive Field where
  | d | a | b | c
  deriving DecidableEq, Repr

/-- What an instruction does with a register operand. `addr` and `data` are the checked uses of R129. -/
inductive UseKind where
  | dst | src | addr | data
  | dataDst        -- checked data source and destination (ATOM)
  | srcDst         -- read as a base and written (BFI)
  | token          -- an engine token
  deriving DecidableEq, Repr

/-- One operand an instruction names: its field, the consecutive vector registers or scalars it names, the alignment
of a vector name (R69), and its use. -/
structure OpUse where
  fld : Field
  o : Operand
  kind : UseKind
  regs : Nat := 1
  align : Nat := 1
  scalars : Nat := 1
  deriving DecidableEq, Repr

def UseKind.reads : UseKind → Bool
  | .dst | .token => false
  | .src | .addr | .data | .dataDst | .srcDst => true

def UseKind.writes : UseKind → Bool
  | .dst | .dataDst | .srcDst | .token => true
  | .src | .addr | .data => false

/-- The operand differs between lanes (R68, R70). -/
def Operand.perLane : Operand → Bool
  | .v _ | .laneid | .quadid | .hrank => true
  | .s _ | .win _ | .zero | .waveid | .groupid | .gangid | .role | .q _ | .bnd _ => false

def Operand.isV : Operand → Bool
  | .v _ => true
  | _ => false

def Operand.isS : Operand → Bool
  | .s _ => true
  | _ => false

def Operand.isQ : Operand → Bool
  | .q _ => true
  | _ => false

def Operand.isWin : Operand → Bool
  | .win _ => true
  | _ => false

/-- A vector register, a scalar or `zero`. -/
def Operand.vsz : Operand → Bool
  | .v _ | .s _ | .zero => true
  | _ => false

/-- A vector register or a scalar. -/
def Operand.vs : Operand → Bool
  | .v _ | .s _ => true
  | _ => false

def IntTy.w64 : IntTy → Bool
  | .s64 | .z64 => true
  | _ => false

def LaneTy.w64 : LaneTy → Bool
  | .w64s | .w64z => true
  | _ => false

def RedTy.w64 : RedTy → Bool
  | .s64 | .z64 => true
  | _ => false

def RedTy.isFloat : RedTy → Bool
  | .f32 | .f16x2 | .bf16x2 => true
  | _ => false

/-- TYPE codes 0 to 3 of the integer majors. -/
def IntTy.single : IntTy → Bool
  | .s32 | .z32 | .s64 | .z64 => true
  | _ => false

/-- TYPE codes 0 and 1 of the integer majors. -/
def IntTy.word : IntTy → Bool
  | .s32 | .z32 => true
  | _ => false

def IntTy.signed : IntTy → Bool
  | .s32 | .s64 | .s16x2 | .s8x4 => true
  | _ => false

def Fmt.w64 : Fmt → Bool
  | .i64 | .u64 => true
  | _ => false

/-- The codes 0x00 to 0x0C that CVT accepts (R66). -/
def Fmt.cvt : Fmt → Bool
  | .bs16 | .bs8 | .ternary | .plane1 | .plane2 => false
  | _ => true

def Rnd.isDyn : Rnd → Bool
  | .dyn => true
  | _ => false

/-! ### The operands each instruction names -/

/-- A use of width 32 or 64 bits. -/
def use (f : Field) (k : UseKind) (w64 : Bool) (o : Operand) : OpUse :=
  if w64 then { fld := f, o := o, kind := k, regs := 2, align := 2 } else { fld := f, o := o, kind := k }

def SrcB.use (w64 : Bool) : SrcB → List OpUse
  | .reg o => [Sys2Proof.use .b .src w64 o]
  | .imm _ => []

def AluI.uses (f : AluI) : List OpUse :=
  [use .d .dst f.ty.w64 f.d, use .a .src f.ty.w64 f.a] ++ f.b.use f.ty.w64

def AluI1.uses (f : AluI1) : List OpUse := [use .d .dst f.ty.w64 f.d, use .a .src f.ty.w64 f.a]

def AluI3.uses (f : AluI3) : List OpUse :=
  [use .d .dst f.ty.w64 f.d, use .a .src f.ty.w64 f.a, use .b .src f.ty.w64 f.b, use .c .src f.ty.w64 f.c]

def AluF.uses (f : AluF) : List OpUse := [use .d .dst false f.d, use .a .src false f.a] ++ f.b.use false

def AluF3.uses (f : AluF3) : List OpUse :=
  [use .d .dst false f.d, use .a .src false f.a, use .b .src false f.b, use .c .src false f.c]

def AluF1.uses (f : AluF1) : List OpUse := [use .d .dst false f.d, use .a .src false f.a]

def CvtForm.uses (f : CvtForm) : List OpUse := [use .d .dst f.dst.w64 f.d, use .a .src f.src.w64 f.a]

/-- Base and index of an address (R179): a vector base is a 64-bit pair, a vector index 32 bits. -/
def Addr.uses (m : Addr) : List OpUse := [use .a .addr true m.a, use .b .addr false m.b]

/-- Registers named by a load or store operand of this width (R185). -/
def dataUse (k : UseKind) (o : Operand) : Nat → OpUse
  | 16 => { fld := .d, o := o, kind := k, regs := 4, align := 4 }
  | 8 => { fld := .d, o := o, kind := k, regs := 2, align := 2 }
  | _ => { fld := .d, o := o, kind := k }

def LoadWidth.bytes : LoadWidth → Nat
  | .z8 | .s8 => 1
  | .z16 | .s16 => 2
  | .b32 => 4
  | .b64 => 8
  | .b128 => 16

def StoreWidth.bytes : StoreWidth → Nat
  | .w8 => 1
  | .w16 => 2
  | .w32 => 4
  | .w64 => 8
  | .w128 => 16

def AtomWidth.bytes : AtomWidth → Nat
  | .b32 => 4
  | .b64 => 8

def AtomOp.isCas : AtomOp → Bool
  | .cas => true
  | _ => false

def LoadForm.uses (f : LoadForm) : List OpUse := dataUse .dst f.d f.width.bytes :: f.m.uses

def StoreForm.uses (f : StoreForm) : List OpUse := dataUse .data f.d f.width.bytes :: f.m.uses

/-- The D operand of an atomic (R189): one value, or for .cas comparand and new value. -/
def AtomForm.dUse (f : AtomForm) (k : UseKind) : OpUse :=
  match f.op.isCas, f.width with
  | false, .b32 => { fld := .d, o := f.d, kind := k }
  | false, .b64 => { fld := .d, o := f.d, kind := k, regs := 2, align := 2 }
  | true, .b32 => { fld := .d, o := f.d, kind := k, regs := 2, scalars := 2 }
  | true, .b64 => { fld := .d, o := f.d, kind := k, regs := 4, align := 2, scalars := 2 }

def sUse (f : Field) (k : UseKind) (n : Fin 32) : OpUse := { fld := f, o := .s n, kind := k }

def tickUse : TickArg → List OpUse
  | some n => [sUse .c .src n]
  | none => []

def Count.uses : Count → List OpUse
  | .reg n => [sUse .a .src n]
  | .imm _ => []

def MacForm.uses (f : MacForm) (unfold : Bool) : List OpUse :=
  [sUse .a .addr f.xa, sUse .b .addr f.xb] ++ if unfold then [sUse .c .addr f.xc] else []

/-- The operands an instruction names as registers, in field order. -/
def Instr.uses : Instr → List OpUse
  | .iadd f | .isub f | .iadds f | .isubs f | .imul f | .imulh f | .imin f | .imax f | .and f | .or f | .xor f
  | .andn f | .shl f | .shr f | .sar f | .rot f | .permb f | .modrcp f => f.uses
  | .imad f | .modmul f | .modadd f | .modsub f => f.uses
  | .iabs f | .ineg f | .not f | .clz f | .popc f | .brev f => f.uses
  | .bfx f => [use .d .dst f.ty.w64 f.d, use .a .src f.ty.w64 f.a, use .b .src false f.b, use .c .src false f.c]
  | .bfi f => [use .d .srcDst f.ty.w64 f.d, use .a .src f.ty.w64 f.a, use .b .src false f.b, use .c .src false f.c]
  | .icmp _ _ ty _ a b => use .a .src ty.w64 a :: b.use ty.w64
  | .fcmp _ _ _ _ _ a b => use .a .src false a :: b.use false
  | .sel _ ty d a b _ _ => [use .d .dst ty.w64 d, use .a .src ty.w64 a, use .b .src ty.w64 b]
  | .mov _ ty d (.reg a) => [use .d .dst ty.w64 d, use .a .src ty.w64 a]
  | .mov _ ty d (.imm _) => [use .d .dst ty.w64 d]
  | .fadd f | .fsub f | .fmul f | .fmin f | .fmax f => f.uses
  | .ffma f | .fdot2 f => f.uses
  | .frcp f | .frsq f | .fexp2 f | .flog2 f | .fsin f | .fcos f => f.uses
  | .cvt f | .cvtSat f => f.uses
  | .ldk f | .ldkS f => [use .d .dst false f.d]
  | .give .. | .claim .. => []
  | .vote _ form d _ _ _ =>
    match form with
    | .gather | .count | .lead => [use .d .dst false d]
    | .some | .every | .agree => []
  | .shfl k f =>
    [use .d .dst f.ty.w64 f.d, use .a .src f.ty.w64 f.a, use .b .src false f.b] ++
      match k with
      | .back | .ahead => [use .c .src f.ty.w64 f.c]
      | .from | .mirror | .rot => []
  | .rdlane _ ty d a b => [use .d .dst false d, use .a .src ty.w64 a, use .b .src false b]
  | .reduce _ _ ty d a => [use .d .dst false d, use .a .src ty.w64 a]
  | .scan _ _ _ ty d a => [use .d .dst ty.w64 d, use .a .src ty.w64 a]
  | .qxch _ _ ty d a => [use .d .dst ty.w64 d, use .a .src ty.w64 a]
  | .plop .. => []
  | .bra .. | .bany .. | .ball .. | .bnone .. | .bdiv .. | .conf | .call .. | .ret => []
  | .jtb a _ _ => [use .a .src false a]
  | .rep f => match f.count with
    | some n => [sUse .a .src n]
    | none => []
  | .exit .. | .nop | .yield | .nap .. | .bar | .gbar | .cbwt .. => []
  | .cbar _ n _ | .cbarArm _ n _ => n.uses
  | .ld _ f | .lds f => f.uses
  | .st _ f | .sts f => f.uses
  | .pref _ _ m => m.uses
  | .atom f => f.dUse .dataDst :: f.m.uses
  | .red f => f.dUse .data :: f.m.uses
  | .fence .. | .txb .. | .txa .. => []
  | .txe _ d => [use .d .dst false (.v d)]
  | .fwait f => use .d .dst true f.d :: f.m.uses
  | .ffill f => use .d .data true f.d :: f.m.uses
  | .fpeek f => { fld := .d, o := f.d, kind := .dst, regs := 3, align := 2, scalars := 2 } :: f.m.uses
  | .freset f => f.m.uses
  | .qpush _ _ d => [use .d .data false d]
  | .qlen _ _ d => [sUse .d .dst d]
  | .bndmin _ _ w d => [use .d .data (w = .b64) d]
  | .bndwt _ _ d => [sUse .d .src d]
  | .cctlWb f | .cctlInv f | .cctlWbinv f => [sUse .d .src f.d, sUse .a .addr f.a, sUse .b .token f.b]
  | .icinv _ _ t => [sUse .b .token t]
  | .setmod xa => [sUse .a .addr xa]
  | .setmodDefault | .setfmt .. | .mzero .. => []
  | .mmac f | .mmact f => f.uses false
  | .mmacu f => f.uses true
  | .mpair .. | .msolo | .mwait .. | .msig .. => []
  | .mbatch sd => [sUse .a .dst sd]
  | .mspill _ _ xa | .mfill _ _ xa => [sUse .a .addr xa]
  | .mdrain _ _ xa _ _ => [sUse .a .addr xa]
  | .mdrainv .. => []
  | .mdigit _ _ xa _ => [sUse .a .addr xa]
  | .mchk _ _ _ _ xa => [sUse .a .addr xa]
  | .mstat _ _ sd => [sUse .a .dst sd]
  | .slaunch _ d a b c =>
    [sUse .d .token d, sUse .a .addr a, { fld := .b, o := .s b, kind := .src, scalars := 4 }] ++ tickUse c
  | .sstat _ d | .sstop _ d => [sUse .d .dst d]
  | .launch _ a c => sUse .a .addr a :: tickUse c
  | .joinw a => [sUse .a .addr a]
  | .spawn _ a b => [use .a .addr true a, sUse .b .addr b]
  | .take _ d => [{ fld := .d, o := .s d, kind := .dst, scalars := 8 }]
  | .prio _ => []
  | .recruit _ _ d a b c w =>
    [sUse .d .dst d, use .a .src false a, use .b .src false b, sUse .c .addr c,
      { fld := .c, o := w, kind := .src, regs := 16, scalars := 16 }]
  | .tclaim _ d a => [sUse .d .dst d, sUse .a .src a]
  | .tdoneHelper => []
  | .tdoneRecruiter a => [sUse .a .src a]
  | .tjoin d a => [sUse .d .dst d, sUse .a .src a]
  | .tfree _ a => [sUse .a .src a]
  | .coll _ d a c => [sUse .d .token d, sUse .a .addr a] ++ tickUse c
  | .cwait a => [sUse .a .src a]
  | .cstat _ d a | .cabort _ d a => [sUse .d .dst d, sUse .a .src a]
  | .trap .. | .brk _ | .efence | .tret | .tmask _ => []
  | .srd _ d _ => [use .d .dst false d]
  | .swr _ a _ => [use .a .src false a]
  | .tlbinvAll _ d => [sUse .d .token d]
  | .tlbinvAsid _ d b => [sUse .d .token d, sUse .b .src b]
  | .tlbinvPage _ d a b => [sUse .d .token d, sUse .a .addr a, sUse .b .src b]
  | _ => []

/-! ### Checks -/

/-- An operand a use may name (R68, R69): destinations are registers, pairs are even and in range, queues are 32-bit
ordinary sources. -/
def OpUse.wf (u : OpUse) : Bool :=
  match u.o with
  | .v n => n.val % u.align = 0 && n.val + u.regs ≤ 192
  | .s n => n.val + u.scalars ≤ 32
  | .q _ => (u.kind = .src || u.kind = .data) && u.regs = 1
  | _ => !u.kind.writes

/-- Base and index operands (R179). -/
def Addr.wf (m : Addr) : Bool :=
  (match m.a with
    | .s _ | .v _ | .win _ => true
    | _ => false) &&
  (match m.b with
    | .s _ | .v _ | .zero | .win _ => true
    | _ => false)

def Addr.perLane (m : Addr) : Bool := m.a.perLane || m.b.perLane

/-- The immediate form fixes TYPE to s32 (R63). -/
def AluI.immOk (f : AluI) : Bool :=
  match f.b with
  | .reg _ => true
  | .imm _ => f.ty = .s32

def AluF.immOk (f : AluF) : Bool :=
  match f.b with
  | .reg _ => true
  | .imm _ => f.ty = .f32 && f.rnd = .dyn

def Guard.ok (g : Guard) : Bool := !(g.pred = 7 && g.neg)

/-- The guard of an instruction, if its form has one. -/
def Instr.guard? : Instr → Option Guard
  | .iadd f | .isub f | .iadds f | .isubs f | .imul f | .imulh f | .imin f | .imax f | .and f | .or f | .xor f
  | .andn f | .shl f | .shr f | .sar f | .rot f | .permb f | .modrcp f => some f.g
  | .imad f | .modmul f | .modadd f | .modsub f | .bfx f | .bfi f => some f.g
  | .iabs f | .ineg f | .not f | .clz f | .popc f | .brev f => some f.g
  | .icmp _ g .. | .fcmp _ g .. | .sel g .. | .mov g .. => some g
  | .fadd f | .fsub f | .fmul f | .fmin f | .fmax f => some f.g
  | .ffma f | .fdot2 f => some f.g
  | .frcp f | .frsq f | .fexp2 f | .flog2 f | .fsin f | .fcos f => some f.g
  | .cvt f | .cvtSat f => some f.g
  | .ldk f | .ldkS f => some f.g
  | .give g .. | .claim g .. | .vote g .. | .rdlane g .. | .reduce g .. | .scan g .. | .qxch g .. | .plop g .. => some g
  | .shfl _ f => some f.g
  | .bany g .. | .ball g .. | .bnone g .. | .bdiv g .. | .exit g | .cbar g .. | .cbwt g .. | .cbarArm g .. => some g
  | .ld _ f | .lds f => some f.g
  | .st _ f | .sts f => some f.g
  | .pref g .. | .fence g .. | .txb g | .txe g .. | .txa g .. => some g
  | .atom f | .red f => some f.g
  | .fwait f | .ffill f | .fpeek f | .freset f => some f.g
  | .qpush g .. | .qlen g .. | .bndmin g .. | .bndwt g .. | .icinv g .. => some g
  | .cctlWb f | .cctlInv f | .cctlWbinv f => some f.g
  | .mzero g .. | .mspill g .. | .mfill g .. | .mdrain g .. | .mdrainv g .. | .mdigit g .. | .mchk g .. | .mstat g .. =>
    some g
  | .mmac f | .mmact f | .mmacu f => some f.g
  | .slaunch g .. | .sstat g .. | .sstop g .. | .launch g .. | .spawn g .. | .take g .. | .recruit g .. | .tclaim g ..
  | .tfree g .. | .coll g .. | .cstat g .. | .cabort g .. | .trap g .. | .brk g | .srd g .. | .swr g .. | .tlbinvAll g ..
  | .tlbinvAsid g .. | .tlbinvPage g .. => some g
  | _ => none

/-- The instruction's own guard, or always. -/
def Instr.guard (i : Instr) : Guard := i.guard?.getD ⟨7, false⟩

/-- Formats SETFMT accepts for A, and with ternary for B (R263 and the SETFMT table of 08). -/
def Fmt.macOperand : Fmt → Bool
  | .i4 | .u4 | .i8 | .u8 | .i16 | .u16 | .bs16 | .bs8 | .plane1 | .plane2 => true
  | _ => false

/-- Formats MDRAINV accepts (R298); ternary stands for FMT.DF. -/
def Fmt.drainv : Fmt → Bool
  | .i64 | .u64 | .bs16 | .bs8 | .plane1 | .plane2 => false
  | _ => true

/-- The rules of one instruction beside those of its operands. -/
def Instr.ownWf : Instr → Bool
  | .iadd f | .isub f | .iadds f | .isubs f | .imul f | .imulh f | .imin f | .imax f | .and f | .or f | .xor f
  | .andn f | .shl f | .shr f | .sar f | .rot f => f.immOk
  | .permb f | .modrcp f => f.immOk && f.ty.word
  | .iabs f => f.ty.signed
  | .bfx f | .bfi f => f.ty.single
  | .modmul f | .modadd f | .modsub f => f.ty.word
  | .icmp _ _ ty pd _ b => ty.single && pd ≠ 7 && (match b with | .imm _ => ty = .s32 | .reg _ => true)
  | .fcmp _ _ ty rnd pd _ b => ty = .f32 && pd ≠ 7 && (match b with | .imm _ => rnd = .dyn | .reg _ => true)
  | .sel _ ty .. => ty.single
  | .mov _ ty _ b => ty.single && (match b with | .imm _ => ty = .s32 | .reg _ => true)
  | .fadd f | .fsub f | .fmul f | .fmin f | .fmax f => f.immOk
  | .fdot2 f => f.ty ≠ .f32
  | .cvt f | .cvtSat f => f.src.cvt && f.dst.cvt
  | .ldk f | .ldkS f => f.d.vs
  | .give _ n => 1 ≤ n && n ≤ 23
  | .claim _ pd n => pd ≠ 7 && 1 ≤ n && n ≤ 23
  | .vote _ form d pd _ _ =>
    (match form with
      | .gather | .count | .lead => d.isS && pd = 0
      | .some | .every | .agree => d = .v 0 && pd ≠ 7)
  | .shfl k f => f.d.isV && f.a.isV && f.b.vsz &&
    (match k with
      | .back | .ahead => f.c.vsz
      | .from | .mirror | .rot => f.c = .v 0)
  | .rdlane _ _ d a b => d.isS && a.isV && (b.isS || b = .zero)
  | .reduce _ op ty d a => d.isS && a.isV && (!ty.isFloat || op = .add || op = .min || op = .max)
  | .scan _ op _ ty d a => d.isV && a.isV && (!ty.isFloat || op = .add || op = .min || op = .max)
  | .qxch _ _ _ d a => d.isV && a.isV
  | .plop _ op pd _ pb => pd ≠ 7 && (match op with | .not | .mov => pb = 0 | _ => true)
  | .bany g _ | .ball g _ | .bnone g _ => g.pred ≠ 7
  | .bdiv g _ _ => g.pred ≠ 7
  | .jtb a _ _ => !a.isQ && (match a with | .bnd _ | .hrank => false | _ => true)
  | .rep f => f.count.isNone || f.icount = 0
  | .nap n => n ≠ 0
  | .cbar _ (.imm n) _ => n ≠ 0
  | .ld _ f => f.d.vs && f.m.wf && f.order ≠ .release && f.order ≠ .acqRel &&
      !(f.d.isS && (f.m.perLane || f.width = .b128))
  | .lds f => f.d.vs && f.m.wf && f.order ≠ .release && f.order ≠ .acqRel &&
      !(f.d.isS && (f.m.perLane || f.width = .b128)) && f.scope ≠ .device && f.scope ≠ .system
  | .st _ f => (f.d.isV || f.width ≠ .w128) && f.m.wf && f.order ≠ .acquire && f.order ≠ .acqRel
  | .sts f => (f.d.isV || f.width ≠ .w128) && f.m.wf && f.order ≠ .acquire && f.order ≠ .acqRel &&
      f.scope ≠ .device && f.scope ≠ .system
  | .pref _ _ m => m.wf
  | .atom f => f.d.vs && f.m.wf && !(f.d.isS && f.m.perLane)
  | .red f => f.m.wf && f.order ≠ .acquire && f.order ≠ .acqRel && f.op ≠ .exch && f.op ≠ .cas
  | .fence _ order _ => order ≠ .relaxed
  | .fwait f | .fpeek f => f.d.vs && f.m.wf && (f.order = .relaxed || f.order = .acquire) && !(f.d.isS && f.m.perLane)
  | .ffill f => f.d.vs && f.m.wf && (f.order = .relaxed || f.order = .release)
  | .freset f => f.d = .v 0 && f.m.wf && (f.order = .relaxed || f.order = .release)
  | .qpush _ _ d => d.vs
  | .bndmin _ _ _ d => d.vs
  | .setfmt af bf df => af.macOperand && (bf.macOperand || bf = .ternary) && df ≠ .ternary
  | .mmact f => f.half ≠ .full && f.xc = 0
  | .mmac f => f.xc = 0
  | .mmacu f => !f.ta
  | .msig _ _ n => n ≠ 0
  | .mdrainv _ _ f _ _ => f.fmt.drainv
  | .mchk _ acc rt ct _ => acc ≠ rt && acc ≠ ct && rt ≠ ct
  | .launch g _ _ => g.pred ≠ 7
  | .take g _ => g.pred ≠ 7
  | .spawn _ a _ => a.vs
  | .recruit _ _ _ a b _ w => a.vsz && b.vsz && w.vs
  | .srd _ d _ => d.vs
  | .swr _ a _ => a.vsz
  | _ => true

/-- Instructions whose own description defines what a scalar destination takes from per-lane sources (R70). -/
def Instr.reduces : Instr → Bool
  | .rdlane .. | .reduce .. | .recruit .. => true
  | _ => false

/-- A scalar destination takes only uniform sources, unless the instruction reduces (R70). -/
def Instr.unitOk (i : Instr) : Bool :=
  i.reduces || !(i.uses.any fun u => u.kind.writes && u.o.isS) ||
    !(i.uses.any fun u => u.kind.reads && u.o.perLane)

/-- The instruction is well formed in every wave that has the registers it names (R61, R63 to R70, R75). -/
def Instr.wf (i : Instr) : Bool :=
  i.guard.ok && i.uses.all OpUse.wf && (i.uses.filter fun u => u.o.isQ).length ≤ 1 && i.unitOk && i.ownWf

end Sys2Proof
end

