-- ==== Sys2Proof/Decode.lean ====
section
/-! DEFINITION. The binary words: field layouts (R60, R62, R76), the encoder, and the decoder, total on any bits.
A word decodes to an instruction only if it is that instruction's exact encoding, so a nonzero unused field
(R64, R77) is never an instruction. -/

namespace Sys2Proof

/-! ### Field layouts -/

/-- The common prefix of an instruction word and its body [47:0] (R60). -/
structure Head where
  op : BitVec 7
  g : Guard
  sub : BitVec 4
  body : BitVec 48
  deriving DecidableEq, Repr

/-- Format F-R (R62). -/
structure BodyR where
  d : BitVec 8 := 0
  a : BitVec 8 := 0
  b : BitVec 8 := 0
  c : BitVec 8 := 0
  rnd : BitVec 3 := 0
  ty : BitVec 3 := 0
  mod : BitVec 10 := 0
  deriving DecidableEq, Repr

/-- Format F-I (R62). -/
structure BodyI where
  d : BitVec 8 := 0
  a : BitVec 8 := 0
  imm : BitVec 32 := 0
  deriving DecidableEq, Repr

/-- Format F-M (R62). -/
structure BodyM where
  d : BitVec 8 := 0
  a : BitVec 8 := 0
  b : BitVec 8 := 0
  scope : BitVec 3 := 0
  order : BitVec 2 := 0
  width : BitVec 3 := 0
  off : BitVec 16 := 0
  deriving DecidableEq, Repr

/-- Format F-B (R62). -/
structure BodyB where
  a : BitVec 8 := 0
  tgt : BitVec 20 := 0
  aux : BitVec 20 := 0
  deriving DecidableEq, Repr

/-- Format F-X (R62). -/
structure BodyX where
  acc : BitVec 3 := 0
  xa : BitVec 5 := 0
  xb : BitVec 5 := 0
  xc : BitVec 5 := 0
  imm : BitVec 30 := 0
  deriving DecidableEq, Repr

/-- The `n` bits of `w` from bit `lo` up. -/
def bitField (w lo n : Nat) : BitVec n := BitVec.ofNat n (w / 2 ^ lo)

/-- One bit of `w`. -/
def bitAt (w lo : Nat) : Bool := w / 2 ^ lo % 2 = 1

def finField (n : Nat) [NeZero n] (w lo : Nat) : Fin n := Fin.ofNat n (w / 2 ^ lo)

def bit (b : Bool) : Nat := if b then 1 else 0

def Head.pack (h : Head) : Word64 :=
  BitVec.ofNat 64 (h.op.toNat * 2 ^ 56 + h.g.pred.val * 2 ^ 53 + bit h.g.neg * 2 ^ 52 + h.sub.toNat * 2 ^ 48 +
    h.body.toNat)

def Head.unpack (w : Word64) : Head :=
  { op := bitField w.toNat 56 7, g := ⟨finField 8 w.toNat 53, bitAt w.toNat 52⟩, sub := bitField w.toNat 48 4,
    body := bitField w.toNat 0 48 }

def BodyR.pack (f : BodyR) : BitVec 48 :=
  BitVec.ofNat 48 (f.d.toNat * 2 ^ 40 + f.a.toNat * 2 ^ 32 + f.b.toNat * 2 ^ 24 + f.c.toNat * 2 ^ 16 +
    f.rnd.toNat * 2 ^ 13 + f.ty.toNat * 2 ^ 10 + f.mod.toNat)

def BodyR.unpack (w : BitVec 48) : BodyR :=
  { d := bitField w.toNat 40 8, a := bitField w.toNat 32 8, b := bitField w.toNat 24 8, c := bitField w.toNat 16 8,
    rnd := bitField w.toNat 13 3, ty := bitField w.toNat 10 3, mod := bitField w.toNat 0 10 }

def BodyI.pack (f : BodyI) : BitVec 48 :=
  BitVec.ofNat 48 (f.d.toNat * 2 ^ 40 + f.a.toNat * 2 ^ 32 + f.imm.toNat)

def BodyI.unpack (w : BitVec 48) : BodyI :=
  { d := bitField w.toNat 40 8, a := bitField w.toNat 32 8, imm := bitField w.toNat 0 32 }

def BodyM.pack (f : BodyM) : BitVec 48 :=
  BitVec.ofNat 48 (f.d.toNat * 2 ^ 40 + f.a.toNat * 2 ^ 32 + f.b.toNat * 2 ^ 24 + f.scope.toNat * 2 ^ 21 +
    f.order.toNat * 2 ^ 19 + f.width.toNat * 2 ^ 16 + f.off.toNat)

def BodyM.unpack (w : BitVec 48) : BodyM :=
  { d := bitField w.toNat 40 8, a := bitField w.toNat 32 8, b := bitField w.toNat 24 8, scope := bitField w.toNat 21 3,
    order := bitField w.toNat 19 2, width := bitField w.toNat 16 3, off := bitField w.toNat 0 16 }

def BodyB.pack (f : BodyB) : BitVec 48 :=
  BitVec.ofNat 48 (f.a.toNat * 2 ^ 40 + f.tgt.toNat * 2 ^ 20 + f.aux.toNat)

def BodyB.unpack (w : BitVec 48) : BodyB :=
  { a := bitField w.toNat 40 8, tgt := bitField w.toNat 20 20, aux := bitField w.toNat 0 20 }

def BodyX.pack (f : BodyX) : BitVec 48 :=
  BitVec.ofNat 48 (f.acc.toNat * 2 ^ 45 + f.xa.toNat * 2 ^ 40 + f.xb.toNat * 2 ^ 35 + f.xc.toNat * 2 ^ 30 + f.imm.toNat)

def BodyX.unpack (w : BitVec 48) : BodyX :=
  { acc := bitField w.toNat 45 3, xa := bitField w.toNat 40 5, xb := bitField w.toNat 35 5, xc := bitField w.toNat 30 5,
    imm := bitField w.toNat 0 30 }

/-! ### Codes -/

/-- The 8-bit code of an operand (R68). -/
def Operand.code : Operand → BitVec 8
  | .v n => BitVec.ofNat 8 n.val
  | .s n => BitVec.ofNat 8 (0xC0 + n.val)
  | .win n => BitVec.ofNat 8 (0xE0 + n.val)
  | .zero => 0xF0
  | .laneid => 0xF1
  | .quadid => 0xF2
  | .waveid => 0xF3
  | .groupid => 0xF4
  | .gangid => 0xF5
  | .role => 0xF6
  | .hrank => 0xF7
  | .q n => BitVec.ofNat 8 (0xF8 + n.val)
  | .bnd n => BitVec.ofNat 8 (0xFC + n.val)

/-- The operand an 8-bit code names (R68). -/
def Operand.ofCode (c : BitVec 8) : Operand :=
  let n := c.toNat
  if h : n < 192 then .v ⟨n, h⟩
  else if n < 0xE0 then .s (Fin.ofNat 32 (n - 0xC0))
  else if n < 0xF0 then .win (Fin.ofNat 16 (n - 0xE0))
  else if n = 0xF0 then .zero
  else if n = 0xF1 then .laneid
  else if n = 0xF2 then .quadid
  else if n = 0xF3 then .waveid
  else if n = 0xF4 then .groupid
  else if n = 0xF5 then .gangid
  else if n = 0xF6 then .role
  else if n = 0xF7 then .hrank
  else if n < 0xFC then .q (Fin.ofNat 4 (n - 0xF8))
  else .bnd (Fin.ofNat 4 (n - 0xFC))

/-- The code of a scalar register. -/
def sCode (n : Fin 32) : BitVec 8 := BitVec.ofNat 8 (0xC0 + n.val)

def sOf (c : BitVec 8) : Fin 32 := Fin.ofNat 32 (c.toNat - 0xC0)

/-- The byte of a predicate index with its negate bit in [3]. -/
def pnCode (p : Fin 8) (neg : Bool) : BitVec 8 := BitVec.ofNat 8 (p.val + 8 * bit neg)

def pOf (c : BitVec 8) : Fin 8 := Fin.ofNat 8 c.toNat

def pCode (p : Fin 8) : BitVec 8 := BitVec.ofNat 8 p.val

def negOf (c : BitVec 8) : Bool := bitAt c.toNat 3

def tickCode : TickArg → BitVec 8
  | some n => sCode n
  | none => 0xF0

def tickOf (c : BitVec 8) : TickArg := if c = 0xF0 then none else some (sOf c)

def IntTy.code : IntTy → BitVec 3
  | .s32 => 0 | .z32 => 1 | .s64 => 2 | .z64 => 3 | .s16x2 => 4 | .z16x2 => 5 | .s8x4 => 6 | .z8x4 => 7

def IntTy.ofCode (c : BitVec 3) : IntTy :=
  match c.toNat with
  | 0 => .s32 | 1 => .z32 | 2 => .s64 | 3 => .z64 | 4 => .s16x2 | 5 => .z16x2 | 6 => .s8x4 | _ => .z8x4

def FloatTy.code : FloatTy → BitVec 3
  | .f32 => 0 | .f16x2 => 1 | .bf16x2 => 2

def FloatTy.ofCode (c : BitVec 3) : Option FloatTy :=
  match c.toNat with
  | 0 => some .f32 | 1 => some .f16x2 | 2 => some .bf16x2 | _ => none

def LaneTy.code : LaneTy → BitVec 3
  | .w32s => 0 | .w32z => 1 | .w64s => 2 | .w64z => 3

def LaneTy.ofCode (c : BitVec 3) : Option LaneTy :=
  match c.toNat with
  | 0 => some .w32s | 1 => some .w32z | 2 => some .w64s | 3 => some .w64z | _ => none

def RedTy.code : RedTy → BitVec 3
  | .s32 => 0 | .z32 => 1 | .s64 => 2 | .z64 => 3 | .f32 => 4 | .f16x2 => 5 | .bf16x2 => 6

def RedTy.ofCode (c : BitVec 3) : Option RedTy :=
  match c.toNat with
  | 0 => some .s32 | 1 => some .z32 | 2 => some .s64 | 3 => some .z64 | 4 => some .f32 | 5 => some .f16x2
  | 6 => some .bf16x2 | _ => none

def Rnd.code : Rnd → BitVec 3
  | .dyn => 0 | .rne => 1 | .rtz => 2 | .rup => 3 | .rdn => 4 | .rna => 5 | .rsto => 6 | .rodd => 7

def Rnd.ofCode (c : BitVec 3) : Rnd :=
  match c.toNat with
  | 0 => .dyn | 1 => .rne | 2 => .rtz | 3 => .rup | 4 => .rdn | 5 => .rna | 6 => .rsto | _ => .rodd

def Scope.code : Scope → BitVec 3
  | .wave => 0 | .group => 1 | .cluster => 2 | .device => 3 | .system => 4

def Scope.ofCode (c : BitVec 3) : Option Scope :=
  match c.toNat with
  | 0 => some .wave | 1 => some .group | 2 => some .cluster | 3 => some .device | 4 => some .system | _ => none

def MemOrder.code : MemOrder → BitVec 2
  | .relaxed => 0 | .acquire => 1 | .release => 2 | .acqRel => 3

def MemOrder.ofCode (c : BitVec 2) : MemOrder :=
  match c.toNat with
  | 0 => .relaxed | 1 => .acquire | 2 => .release | _ => .acqRel

def LoadWidth.code : LoadWidth → BitVec 3
  | .z8 => 0 | .z16 => 1 | .b32 => 2 | .b64 => 3 | .b128 => 4 | .s8 => 5 | .s16 => 6

def LoadWidth.ofCode (c : BitVec 3) : Option LoadWidth :=
  match c.toNat with
  | 0 => some .z8 | 1 => some .z16 | 2 => some .b32 | 3 => some .b64 | 4 => some .b128 | 5 => some .s8
  | 6 => some .s16 | _ => none

def StoreWidth.code : StoreWidth → BitVec 3
  | .w8 => 0 | .w16 => 1 | .w32 => 2 | .w64 => 3 | .w128 => 4

def StoreWidth.ofCode (c : BitVec 3) : Option StoreWidth :=
  match c.toNat with
  | 0 => some .w8 | 1 => some .w16 | 2 => some .w32 | 3 => some .w64 | 4 => some .w128 | _ => none

def AtomWidth.code : AtomWidth → BitVec 3
  | .b32 => 2 | .b64 => 3

def AtomWidth.ofCode (c : BitVec 3) : Option AtomWidth :=
  match c.toNat with
  | 2 => some .b32 | 3 => some .b64 | _ => none

def Fmt.code : Fmt → BitVec 5
  | .i4 => 0 | .u4 => 1 | .i8 => 2 | .u8 => 3 | .i16 => 4 | .u16 => 5 | .i32 => 6 | .u32 => 7 | .i64 => 8 | .u64 => 9
  | .f32 => 10 | .f16 => 11 | .bf16 => 12 | .bs16 => 13 | .bs8 => 14 | .ternary => 15 | .plane1 => 16 | .plane2 => 17

def Fmt.ofCode (c : BitVec 5) : Option Fmt :=
  match c.toNat with
  | 0 => some .i4 | 1 => some .u4 | 2 => some .i8 | 3 => some .u8 | 4 => some .i16 | 5 => some .u16 | 6 => some .i32
  | 7 => some .u32 | 8 => some .i64 | 9 => some .u64 | 10 => some .f32 | 11 => some .f16 | 12 => some .bf16
  | 13 => some .bs16 | 14 => some .bs8 | 15 => some .ternary | 16 => some .plane1 | 17 => some .plane2 | _ => none

def ICond.code : ICond → BitVec 4
  | .eq => 0 | .ne => 1 | .lt => 2 | .le => 3 | .gt => 4 | .ge => 5

def ICond.ofCode (n : Nat) : Option ICond :=
  match n with
  | 0 => some .eq | 1 => some .ne | 2 => some .lt | 3 => some .le | 4 => some .gt | 5 => some .ge | _ => none

def FCond.code : FCond → BitVec 4
  | .eq => 0 | .ne => 1 | .lt => 2 | .le => 3 | .gt => 4 | .ge => 5 | .uno => 6 | .ord => 7

def FCond.ofCode (n : Nat) : Option FCond :=
  match n with
  | 0 => some .eq | 1 => some .ne | 2 => some .lt | 3 => some .le | 4 => some .gt | 5 => some .ge | 6 => some .uno
  | 7 => some .ord | _ => none

def VoteForm.code : VoteForm → BitVec 4
  | .some => 0 | .every => 1 | .gather => 2 | .agree => 3 | .count => 4 | .lead => 5

def VoteForm.ofCode (n : Nat) : Option VoteForm :=
  match n with
  | 0 => Option.some .some | 1 => Option.some .every | 2 => Option.some .gather | 3 => Option.some .agree | 4 => Option.some .count | 5 => Option.some .lead
  | _ => none

def ShflForm.code : ShflForm → BitVec 4
  | .from => 0 | .back => 1 | .ahead => 2 | .mirror => 3 | .rot => 4

def ShflForm.ofCode (n : Nat) : Option ShflForm :=
  match n with
  | 0 => some .from | 1 => some .back | 2 => some .ahead | 3 => some .mirror | 4 => some .rot | _ => none

def RedOp.code : RedOp → BitVec 4
  | .add => 0 | .min => 1 | .max => 2 | .and => 3 | .or => 4 | .xor => 5

def RedOp.ofCode (n : Nat) : Option RedOp :=
  match n with
  | 0 => some .add | 1 => some .min | 2 => some .max | 3 => some .and | 4 => some .or | 5 => some .xor | _ => none

def PlopOp.code : PlopOp → BitVec 4
  | .and => 0 | .or => 1 | .xor => 2 | .andn => 3 | .not => 4 | .mov => 5

def PlopOp.ofCode (n : Nat) : Option PlopOp :=
  match n with
  | 0 => some .and | 1 => some .or | 2 => some .xor | 3 => some .andn | 4 => some .not | 5 => some .mov | _ => none

def AtomOp.code : AtomOp → BitVec 4
  | .add => 0 | .min => 1 | .max => 2 | .and => 3 | .or => 4 | .xor => 5 | .exch => 6 | .cas => 7 | .smin => 9 | .smax => 10

def AtomOp.ofCode (n : Nat) : Option AtomOp :=
  match n with
  | 0 => some .add | 1 => some .min | 2 => some .max | 3 => some .and | 4 => some .or | 5 => some .xor | 6 => some .exch
  | 7 => some .cas | 9 => some .smin | 10 => some .smax | _ => none

def Hint.code : Hint → BitVec 4
  | .none => 0 | .stream => 1 | .l2 => 2 | .keep => 3

def Hint.ofCode (n : Nat) : Option Hint :=
  match n with
  | 0 => some .none | 1 => some .stream | 2 => some .l2 | 3 => some .keep | _ => Option.none

def RecruitLimit.code : RecruitLimit → BitVec 3
  | .wave => 0 | .core => 1 | .cluster => 2

def RecruitLimit.ofCode (c : BitVec 3) : Option RecruitLimit :=
  match c.toNat with
  | 0 => some .wave | 1 => some .core | 2 => some .cluster | _ => none

def Half.code : Half → Nat
  | .full => 0 | .a => 1 | .b => 2

def Half.ofCode (n : Nat) : Option Half :=
  match n with
  | 0 => some .full | 1 => some .a | 2 => some .b | _ => none

/-! ### Encoding -/

/-- The guard field of an instruction whose PRED must be 7. -/
def always : Guard := ⟨7, false⟩

def wR (op : BitVec 7) (g : Guard) (sub : BitVec 4) (f : BodyR) : Word64 := Head.pack ⟨op, g, sub, f.pack⟩
def wI (op : BitVec 7) (g : Guard) (sub : BitVec 4) (f : BodyI) : Word64 := Head.pack ⟨op, g, sub, f.pack⟩
def wM (op : BitVec 7) (g : Guard) (sub : BitVec 4) (f : BodyM) : Word64 := Head.pack ⟨op, g, sub, f.pack⟩
def wB (op : BitVec 7) (g : Guard) (sub : BitVec 4) (f : BodyB) : Word64 := Head.pack ⟨op, g, sub, f.pack⟩
def wX (op : BitVec 7) (g : Guard) (sub : BitVec 4) (f : BodyX) : Word64 := Head.pack ⟨op, g, sub, f.pack⟩

/-- F-R, or F-I with SUB[3] set (R63). -/
def AluI.word (op : BitVec 7) (sub : BitVec 4) (f : AluI) : Word64 :=
  match f.b with
  | .reg o => wR op f.g sub { d := f.d.code, a := f.a.code, b := o.code, ty := f.ty.code }
  | .imm i => wI op f.g (sub + 8) { d := f.d.code, a := f.a.code, imm := i }

def AluI1.word (op : BitVec 7) (sub : BitVec 4) (f : AluI1) : Word64 :=
  wR op f.g sub { d := f.d.code, a := f.a.code, ty := f.ty.code }

def AluI3.word (op : BitVec 7) (sub : BitVec 4) (f : AluI3) : Word64 :=
  wR op f.g sub { d := f.d.code, a := f.a.code, b := f.b.code, c := f.c.code, ty := f.ty.code }

def AluF.word (op : BitVec 7) (sub : BitVec 4) (f : AluF) : Word64 :=
  match f.b with
  | .reg o => wR op f.g sub { d := f.d.code, a := f.a.code, b := o.code, rnd := f.rnd.code, ty := f.ty.code }
  | .imm i => wI op f.g (sub + 8) { d := f.d.code, a := f.a.code, imm := i }

def AluF3.word (op : BitVec 7) (sub : BitVec 4) (f : AluF3) : Word64 :=
  wR op f.g sub { d := f.d.code, a := f.a.code, b := f.b.code, c := f.c.code, rnd := f.rnd.code, ty := f.ty.code }

def AluF1.word (op : BitVec 7) (sub : BitVec 4) (f : AluF1) : Word64 :=
  wR op f.g sub { d := f.d.code, a := f.a.code, rnd := f.rnd.code }

def CvtForm.word (sub : BitVec 4) (f : CvtForm) : Word64 :=
  wR 0x23 f.g sub
    { d := f.d.code, a := f.a.code, rnd := f.rnd.code,
      mod := BitVec.ofNat 10 (f.dst.code.toNat * 32 + f.src.code.toNat) }

def LoadForm.word (op : BitVec 7) (sub : BitVec 4) (f : LoadForm) : Word64 :=
  wM op f.g sub
    { d := f.d.code, a := f.m.a.code, b := f.m.b.code, scope := f.scope.code, order := f.order.code,
      width := f.width.code, off := f.m.off }

def StoreForm.word (op : BitVec 7) (sub : BitVec 4) (f : StoreForm) : Word64 :=
  wM op f.g sub
    { d := f.d.code, a := f.m.a.code, b := f.m.b.code, scope := f.scope.code, order := f.order.code,
      width := f.width.code, off := f.m.off }

def AtomForm.word (op : BitVec 7) (f : AtomForm) : Word64 :=
  wM op f.g f.op.code
    { d := f.d.code, a := f.m.a.code, b := f.m.b.code, scope := f.scope.code, order := f.order.code,
      width := f.width.code, off := f.m.off }

def FutForm.word (sub : BitVec 4) (f : FutForm) : Word64 :=
  wM 0x48 f.g sub
    { d := f.d.code, a := f.m.a.code, b := f.m.b.code, scope := f.scope.code, order := f.order.code,
      width := 3, off := f.m.off }

def CctlForm.word (sub : BitVec 4) (f : CctlForm) : Word64 :=
  wM 0x4B f.g sub { d := sCode f.d, a := sCode f.a, b := sCode f.b, scope := f.scope.code }

/-- A and IMM32[31:16] of CBAR and CBAR.arm (R168). -/
def Count.body (n : Count) (cb : Fin 16) : BodyI :=
  match n with
  | .reg r => { a := sCode r, imm := BitVec.ofNat 32 cb.val }
  | .imm c => { a := 0xF0, imm := BitVec.ofNat 32 (c.toNat * 65536 + cb.val) }

def RepForm.body (f : RepForm) : BodyI :=
  { a := (match f.count with | some n => sCode n | none => 0xF0),
    imm := BitVec.ofNat 32 (f.icount.toNat * 2 ^ 20 + f.sd.val * 2 ^ 16 + f.sa.val * 2 ^ 12 + f.sb.val * 2 ^ 8 +
      f.sc.val * 2 ^ 4) }

def xReg (n : Fin 32) : BitVec 5 := BitVec.ofNat 5 n.val

def accCode (n : Fin 8) : BitVec 3 := BitVec.ofNat 3 n.val

def MacForm.body (f : MacForm) : BodyX :=
  { acc := accCode f.acc, xa := xReg f.xa, xb := xReg f.xb, xc := xReg f.xc,
    imm := BitVec.ofNat 30 (f.ksteps.val * 2 ^ 24 + f.as.toNat * 2 ^ 16 + f.bs.toNat * 2 ^ 8 + f.half.code * 2 ^ 6 +
      bit f.ta * 2 ^ 5 + bit f.tb * 2 ^ 4) }

/-- XIMM[16:0] of a drain (R297). -/
def DrainFmt.bits (f : DrainFmt) : Nat :=
  f.scale.toNat + f.rnd.code.toNat * 2 ^ 8 + bit f.sat * 2 ^ 11 + f.fmt.code.toNat * 2 ^ 12

/-- The 64-bit word of a wave instruction (R71 to R74); none for the other rows. -/
def encodeWave : Instr → Option Word64
  | .iadd f => some (f.word 0x00 0)
  | .isub f => some (f.word 0x01 0)
  | .iadds f => some (f.word 0x02 0)
  | .isubs f => some (f.word 0x03 0)
  | .imul f => some (f.word 0x04 0)
  | .imulh f => some (f.word 0x05 0)
  | .imad f => some (f.word 0x06 0)
  | .imin f => some (f.word 0x07 0)
  | .imax f => some (f.word 0x08 0)
  | .iabs f => some (f.word 0x09 0)
  | .ineg f => some (f.word 0x09 1)
  | .and f => some (f.word 0x0A 0)
  | .or f => some (f.word 0x0B 0)
  | .xor f => some (f.word 0x0C 0)
  | .andn f => some (f.word 0x0D 0)
  | .not f => some (f.word 0x0D 1)
  | .shl f => some (f.word 0x0E 0)
  | .shr f => some (f.word 0x0F 0)
  | .sar f => some (f.word 0x10 0)
  | .rot f => some (f.word 0x11 0)
  | .bfx f => some (f.word 0x12 0)
  | .bfi f => some (f.word 0x13 0)
  | .clz f => some (f.word 0x14 0)
  | .popc f => some (f.word 0x14 1)
  | .brev f => some (f.word 0x14 2)
  | .permb f => some (f.word 0x15 0)
  | .icmp cc g ty pd a (.reg b) => some (wR 0x16 g cc.code { d := pCode pd, a := a.code, b := b.code, ty := ty.code })
  | .icmp cc g _ pd a (.imm i) => some (wI 0x16 g (cc.code + 8) { d := pCode pd, a := a.code, imm := i })
  | .fcmp cc g ty rnd pd a (.reg b) =>
    some (wR 0x17 g cc.code { d := pCode pd, a := a.code, b := b.code, rnd := rnd.code, ty := ty.code })
  | .fcmp cc g _ _ pd a (.imm i) => some (wI 0x17 g (cc.code + 8) { d := pCode pd, a := a.code, imm := i })
  | .sel g ty d a b p neg =>
    some (wR 0x18 g 0 { d := d.code, a := a.code, b := b.code, c := pnCode p neg, ty := ty.code })
  | .mov g ty d (.reg a) => some (wR 0x19 g 0 { d := d.code, a := a.code, ty := ty.code })
  | .mov g _ d (.imm i) => some (wI 0x19 g 8 { d := d.code, a := 0xF0, imm := i })
  | .modmul f => some (f.word 0x1A 0)
  | .modadd f => some (f.word 0x1B 0)
  | .modsub f => some (f.word 0x1B 1)
  | .modrcp f => some (f.word 0x1C 0)
  | .fadd f => some (f.word 0x1D 0)
  | .fsub f => some (f.word 0x1D 1)
  | .fmul f => some (f.word 0x1E 0)
  | .ffma f => some (f.word 0x1F 0)
  | .fmin f => some (f.word 0x20 0)
  | .fmax f => some (f.word 0x20 1)
  | .frcp f => some (f.word 0x21 0)
  | .frsq f => some (f.word 0x21 1)
  | .fexp2 f => some (f.word 0x21 2)
  | .flog2 f => some (f.word 0x21 3)
  | .fsin f => some (f.word 0x21 4)
  | .fcos f => some (f.word 0x21 5)
  | .fdot2 f => some (f.word 0x22 0)
  | .cvt f => some (f.word 0)
  | .cvtSat f => some (f.word 1)
  | .ldk f => some (wI 0x24 f.g 0 { d := f.d.code, a := 0xF0, imm := f.off })
  | .ldkS f => some (wI 0x24 f.g 1 { d := f.d.code, a := 0xF0, imm := f.off })
  | .give g n => some (wI 0x25 g 0 { a := 0xF0, imm := BitVec.ofNat 32 n.toNat })
  | .claim g pd n => some (wI 0x25 g 1 { d := pCode pd, a := 0xF0, imm := BitVec.ofNat 32 n.toNat })
  | .vote g form d pd p neg =>
    some (wR 0x30 g form.code { d := (match form with
      | .gather | .count | .lead => d.code
      | .some | .every | .agree => pCode pd), a := pnCode p neg })
  | .shfl k f =>
    some (wR 0x31 f.g k.code { d := f.d.code, a := f.a.code, b := f.b.code, c := f.c.code, ty := f.ty.code })
  | .rdlane g ty d a b => some (wR 0x32 g 0 { d := d.code, a := a.code, b := b.code, ty := ty.code })
  | .reduce g op ty d a => some (wR 0x33 g op.code { d := d.code, a := a.code, ty := ty.code })
  | .scan g op excl ty d a =>
    some (wR 0x34 g (op.code + (if excl then 8 else 0)) { d := d.code, a := a.code, ty := ty.code })
  | .qxch g .h ty d a => some (wR 0x35 g 0 { d := d.code, a := a.code, ty := ty.code })
  | .qxch g .v ty d a => some (wR 0x35 g 1 { d := d.code, a := a.code, ty := ty.code })
  | .qxch g .d ty d a => some (wR 0x35 g 2 { d := d.code, a := a.code, ty := ty.code })
  | .qxch g (.bc pos) ty d a =>
    some (wR 0x35 g 3 { d := d.code, a := a.code, b := BitVec.ofNat 8 pos.val, ty := ty.code })
  | .plop g op pd pa pb => some (wR 0x36 g op.code { d := pCode pd, a := pCode pa, b := pCode pb })
  | .bra t => some (wB 0x38 always 0 { tgt := t })
  | .bany g t => some (wB 0x38 g 1 { tgt := t })
  | .ball g t => some (wB 0x38 g 2 { tgt := t })
  | .bnone g t => some (wB 0x38 g 3 { tgt := t })
  | .bdiv g t c => some (wB 0x39 g 0 { tgt := t, aux := c })
  | .conf => some (wB 0x3A always 0 {})
  | .call t => some (wB 0x3B always 0 { tgt := t })
  | .ret => some (wB 0x3B always 1 {})
  | .jtb a t d => some (wB 0x3C always 0 { a := a.code, tgt := t, aux := d })
  | .rep f => some (wI 0x3D always 0 f.body)
  | .exit g => some (wI 0x3E g 0 {})
  | .nop => some (wI 0x3E always 1 {})
  | .yield => some (wI 0x3E always 2 {})
  | .nap n => some (wI 0x3E always 3 { imm := n })
  | .bar => some (wI 0x3F always 0 {})
  | .gbar => some (wI 0x3F always 1 {})
  | .cbar g n cb => some (wI 0x3F g 2 (n.body cb))
  | .cbwt g cb => some (wI 0x3F g 3 { imm := BitVec.ofNat 32 cb.val })
  | .cbarArm g n cb => some (wI 0x3F g 4 (n.body cb))
  | .ld hint f => some (f.word 0x40 hint.code)
  | .st hint f => some (f.word 0x41 hint.code)
  | .lds f => some (f.word 0x42 0)
  | .sts f => some (f.word 0x43 0)
  | .atom f => some (f.word 0x44)
  | .red f => some (f.word 0x45)
  | .fence g order scope => some (wM 0x46 g 0 { scope := scope.code, order := order.code })
  | .txb g => some (wM 0x47 g 0 {})
  | .txe g d => some (wM 0x47 g 1 { d := (Operand.v d).code })
  | .txa g code => some (wM 0x47 g 2 { off := BitVec.ofNat 16 code.toNat })
  | .fwait f => some (f.word 0)
  | .ffill f => some (f.word 1)
  | .fpeek f => some (f.word 2)
  | .freset f => some (f.word 3)
  | .qpush g q d => some (wM 0x49 g 0 { d := d.code, a := (Operand.q q).code, b := 0xF0 })
  | .qlen g q d => some (wM 0x49 g 1 { d := sCode d, a := (Operand.q q).code, b := 0xF0 })
  | .bndmin g n w d => some (wM 0x4A g 0 { d := d.code, a := (Operand.bnd n).code, b := 0xF0, width := w.code })
  | .bndwt g n d => some (wM 0x4A g 1 { d := sCode d, a := (Operand.bnd n).code, b := 0xF0, width := 3 })
  | .cctlWb f => some (f.word 0)
  | .cctlInv f => some (f.word 1)
  | .cctlWbinv f => some (f.word 2)
  | .icinv g scope t => some (wM 0x4C g 0 { b := sCode t, scope := scope.code })
  | .pref g l2 m =>
    some (wM 0x4D g (if l2 then 1 else 0) { a := m.a.code, b := m.b.code, off := m.off })
  | .setmod xa => some (wX 0x50 always 0 { xa := xReg xa })
  | .setmodDefault => some (wX 0x50 always 0 { imm := 1 })
  | .setfmt af bf df =>
    some (wX 0x51 always 0 { imm := BitVec.ofNat 30 (af.code.toNat + bf.code.toNat * 2 ^ 5 + df.code.toNat * 2 ^ 10) })
  | .mzero g acc => some (wX 0x52 g 0 { acc := accCode acc })
  | .mmac f => some (wX 0x53 f.g 0 f.body)
  | .mmact f => some (wX 0x54 f.g 0 f.body)
  | .mmacu f => some (wX 0x55 f.g 0 f.body)
  | .mpair p follow => some (wX 0x56 always 0 { imm := BitVec.ofNat 30 (p.val + 4 * bit follow) })
  | .msolo => some (wX 0x56 always 1 {})
  | .mbatch sd => some (wX 0x57 always 0 { xa := xReg sd })
  | .mwait b => some (wX 0x57 always 1 { imm := BitVec.ofNat 30 b.val })
  | .msig b cb n => some (wX 0x58 always 0 { imm := BitVec.ofNat 30 (b.val + cb.val * 2 ^ 4 + n.toNat * 2 ^ 8) })
  | .mspill g acc xa => some (wX 0x59 g 0 { acc := accCode acc, xa := xReg xa })
  | .mfill g acc xa => some (wX 0x59 g 1 { acc := accCode acc, xa := xReg xa })
  | .mdrain g acc xa f ds =>
    some (wX 0x5A g 0 { acc := accCode acc, xa := xReg xa, imm := BitVec.ofNat 30 (f.bits + ds.toNat * 2 ^ 17) })
  | .mdrainv g acc f row pair =>
    some (wX 0x5B g 0 { acc := accCode acc, imm := BitVec.ofNat 30 (f.bits + row.val * 2 ^ 17 + pair.val * 2 ^ 23) })
  | .mdigit g acc xa d => some (wX 0x5C g 0 { acc := accCode acc, xa := xReg xa, imm := BitVec.ofNat 30 d.val })
  | .mchk g acc rt ct xa =>
    some (wX 0x5D g 0 { acc := accCode acc, xa := xReg xa, imm := BitVec.ofNat 30 (rt.val + ct.val * 2 ^ 3) })
  | .mstat g clr sd => some (wX 0x5E g 0 { xa := xReg sd, imm := BitVec.ofNat 30 (bit clr) })
  | .slaunch g d a b c => some (wR 0x60 g 0 { d := sCode d, a := sCode a, b := sCode b, c := tickCode c })
  | .sstat g d => some (wR 0x60 g 1 { d := sCode d })
  | .sstop g d => some (wR 0x60 g 2 { d := sCode d })
  | .launch g a c => some (wR 0x61 g 0 { a := sCode a, c := tickCode c })
  | .joinw a => some (wR 0x62 always 0 { a := sCode a })
  | .spawn g a b => some (wR 0x63 g 0 { a := a.code, b := sCode b })
  | .take g d => some (wR 0x63 g 1 { d := sCode d })
  | .prio n => some (wI 0x64 always 0 { imm := BitVec.ofNat 32 n.val })
  | .recruit g lim d a b c w =>
    some (wR 0x65 g 0
      { d := sCode d, a := a.code, b := b.code, c := sCode c, ty := lim.code,
        mod := BitVec.ofNat 10 w.code.toNat })
  | .tclaim g d a => some (wR 0x66 g 0 { d := sCode d, a := sCode a })
  | .tdoneHelper => some (wR 0x66 always 1 { a := 0xF0 })
  | .tdoneRecruiter a => some (wR 0x66 always 1 { a := sCode a })
  | .tjoin d a => some (wR 0x66 always 2 { d := sCode d, a := sCode a })
  | .tfree g a => some (wR 0x66 g 3 { a := sCode a })
  | .coll g d a c => some (wR 0x67 g 0 { d := sCode d, a := sCode a, c := tickCode c })
  | .cwait a => some (wR 0x67 always 1 { a := sCode a })
  | .cstat g d a => some (wR 0x67 g 2 { d := sCode d, a := sCode a })
  | .cabort g d a => some (wR 0x67 g 3 { d := sCode d, a := sCode a })
  | .trap g n => some (wI 0x68 g 0 { imm := BitVec.ofNat 32 n.val })
  | .brk g => some (wI 0x68 g 1 {})
  | .efence => some (wI 0x69 always 0 {})
  | .tret => some (wI 0x6A always 0 {})
  | .tmask on => some (wI 0x6B always 0 { imm := BitVec.ofNat 32 (bit on) })
  | .srd g d n => some (wI 0x6C g 0 { d := d.code, imm := BitVec.ofNat 32 n.toNat })
  | .swr g a n => some (wI 0x6D g 0 { a := a.code, imm := BitVec.ofNat 32 n.toNat })
  | .tlbinvAll g d => some (wR 0x6E g 0 { d := sCode d })
  | .tlbinvAsid g d b => some (wR 0x6E g 1 { d := sCode d, b := sCode b })
  | .tlbinvPage g d a b => some (wR 0x6E g 2 { d := sCode d, a := sCode a, b := sCode b })
  | _ => none

/-! ### Decoding -/

def Head.aluI (h : Head) : AluI :=
  let r := BodyR.unpack h.body
  let i := BodyI.unpack h.body
  if h.sub.toNat < 8 then ⟨h.g, .ofCode r.ty, .ofCode r.d, .ofCode r.a, .reg (.ofCode r.b)⟩
  else ⟨h.g, .s32, .ofCode i.d, .ofCode i.a, .imm i.imm⟩

def Head.aluI1 (h : Head) : AluI1 :=
  let r := BodyR.unpack h.body
  ⟨h.g, .ofCode r.ty, .ofCode r.d, .ofCode r.a⟩

def Head.aluI3 (h : Head) : AluI3 :=
  let r := BodyR.unpack h.body
  ⟨h.g, .ofCode r.ty, .ofCode r.d, .ofCode r.a, .ofCode r.b, .ofCode r.c⟩

def Head.aluF (h : Head) : Option AluF :=
  let r := BodyR.unpack h.body
  let i := BodyI.unpack h.body
  if h.sub.toNat < 8 then
    (FloatTy.ofCode r.ty).map fun ty => ⟨h.g, ty, .ofCode r.rnd, .ofCode r.d, .ofCode r.a, .reg (.ofCode r.b)⟩
  else some ⟨h.g, .f32, .dyn, .ofCode i.d, .ofCode i.a, .imm i.imm⟩

def Head.aluF3 (h : Head) : Option AluF3 :=
  let r := BodyR.unpack h.body
  (FloatTy.ofCode r.ty).map fun ty => ⟨h.g, ty, .ofCode r.rnd, .ofCode r.d, .ofCode r.a, .ofCode r.b, .ofCode r.c⟩

def Head.aluF1 (h : Head) : AluF1 :=
  let r := BodyR.unpack h.body
  ⟨h.g, .ofCode r.rnd, .ofCode r.d, .ofCode r.a⟩

def Head.cvtForm (h : Head) : Option CvtForm :=
  let r := BodyR.unpack h.body
  (Fmt.ofCode (bitField r.mod.toNat 5 5)).bind fun dst => (Fmt.ofCode (bitField r.mod.toNat 0 5)).map fun src =>
    ⟨h.g, .ofCode r.rnd, .ofCode r.d, .ofCode r.a, dst, src⟩

def Head.addr (h : Head) : Addr :=
  let m := BodyM.unpack h.body
  ⟨.ofCode m.a, .ofCode m.b, m.off⟩

def Head.loadForm (h : Head) : Option LoadForm :=
  let m := BodyM.unpack h.body
  (LoadWidth.ofCode m.width).bind fun wd => (Scope.ofCode m.scope).map fun sc =>
    ⟨h.g, .ofCode m.d, h.addr, wd, .ofCode m.order, sc⟩

def Head.storeForm (h : Head) : Option StoreForm :=
  let m := BodyM.unpack h.body
  (StoreWidth.ofCode m.width).bind fun wd => (Scope.ofCode m.scope).map fun sc =>
    ⟨h.g, .ofCode m.d, h.addr, wd, .ofCode m.order, sc⟩

def Head.atomForm (h : Head) : Option AtomForm :=
  let m := BodyM.unpack h.body
  (AtomOp.ofCode h.sub.toNat).bind fun op => (AtomWidth.ofCode m.width).bind fun wd => (Scope.ofCode m.scope).map fun sc =>
    ⟨h.g, op, .ofCode m.d, h.addr, wd, .ofCode m.order, sc⟩

def Head.futForm (h : Head) : Option FutForm :=
  let m := BodyM.unpack h.body
  (Scope.ofCode m.scope).map fun sc => ⟨h.g, .ofCode m.d, h.addr, .ofCode m.order, sc⟩

def Head.cctlForm (h : Head) : Option CctlForm :=
  let m := BodyM.unpack h.body
  (Scope.ofCode m.scope).map fun sc => ⟨h.g, sOf m.d, sOf m.a, sOf m.b, sc⟩

def BodyI.count (i : BodyI) : Count :=
  if i.a = 0xF0 then .imm (bitField i.imm.toNat 16 16) else .reg (sOf i.a)

def BodyI.cb (i : BodyI) : Fin 16 := finField 16 i.imm.toNat 0

def Head.repForm (h : Head) : RepForm :=
  let i := BodyI.unpack h.body
  ⟨if i.a = 0xF0 then none else some (sOf i.a), bitField i.imm.toNat 20 12, finField 16 i.imm.toNat 16,
    finField 16 i.imm.toNat 12, finField 16 i.imm.toNat 8, finField 16 i.imm.toNat 4⟩

def BodyX.ra (x : BodyX) : Fin 32 := Fin.ofNat 32 x.xa.toNat
def BodyX.rb (x : BodyX) : Fin 32 := Fin.ofNat 32 x.xb.toNat
def BodyX.rc (x : BodyX) : Fin 32 := Fin.ofNat 32 x.xc.toNat
def BodyX.tile (x : BodyX) : Fin 8 := Fin.ofNat 8 x.acc.toNat

def Head.macForm (h : Head) : Option MacForm :=
  let x := BodyX.unpack h.body
  (Half.ofCode (x.imm.toNat / 64 % 4)).map fun half =>
    ⟨h.g, x.tile, x.ra, x.rb, x.rc, finField 64 x.imm.toNat 24, bitField x.imm.toNat 16 8, bitField x.imm.toNat 8 8,
      half, bitAt x.imm.toNat 5, bitAt x.imm.toNat 4⟩

def BodyX.drainFmt (x : BodyX) : Option DrainFmt :=
  (Fmt.ofCode (bitField x.imm.toNat 12 5)).map fun f =>
    ⟨bitField x.imm.toNat 0 8, .ofCode (bitField x.imm.toNat 8 3), bitAt x.imm.toNat 11, f⟩

/-- Majors 0x00 to 0x15. -/
def decodeInt (h : Head) : Option Instr :=
  match h.op.toNat, h.sub.toNat % 8 with
  | 0x00, 0 => some (.iadd h.aluI)
  | 0x01, 0 => some (.isub h.aluI)
  | 0x02, 0 => some (.iadds h.aluI)
  | 0x03, 0 => some (.isubs h.aluI)
  | 0x04, 0 => some (.imul h.aluI)
  | 0x05, 0 => some (.imulh h.aluI)
  | 0x06, 0 => some (.imad h.aluI3)
  | 0x07, 0 => some (.imin h.aluI)
  | 0x08, 0 => some (.imax h.aluI)
  | 0x09, 0 => some (.iabs h.aluI1)
  | 0x09, 1 => some (.ineg h.aluI1)
  | 0x0A, 0 => some (.and h.aluI)
  | 0x0B, 0 => some (.or h.aluI)
  | 0x0C, 0 => some (.xor h.aluI)
  | 0x0D, 0 => some (.andn h.aluI)
  | 0x0D, 1 => some (.not h.aluI1)
  | 0x0E, 0 => some (.shl h.aluI)
  | 0x0F, 0 => some (.shr h.aluI)
  | 0x10, 0 => some (.sar h.aluI)
  | 0x11, 0 => some (.rot h.aluI)
  | 0x12, 0 => some (.bfx h.aluI3)
  | 0x13, 0 => some (.bfi h.aluI3)
  | 0x14, 0 => some (.clz h.aluI1)
  | 0x14, 1 => some (.popc h.aluI1)
  | 0x14, 2 => some (.brev h.aluI1)
  | 0x15, 0 => some (.permb h.aluI)
  | _, _ => none

/-- Majors 0x16 to 0x25. -/
def decodeAlu (h : Head) : Option Instr :=
  let r := BodyR.unpack h.body
  let i := BodyI.unpack h.body
  let s := h.sub.toNat % 8
  match h.op.toNat with
  | 0x16 => (ICond.ofCode s).map fun cc =>
      if h.sub.toNat < 8 then .icmp cc h.g (.ofCode r.ty) (pOf r.d) (.ofCode r.a) (.reg (.ofCode r.b))
      else .icmp cc h.g .s32 (pOf i.d) (.ofCode i.a) (.imm i.imm)
  | 0x17 => (FCond.ofCode s).bind fun cc =>
      if h.sub.toNat < 8 then (FloatTy.ofCode r.ty).map fun ty =>
        .fcmp cc h.g ty (.ofCode r.rnd) (pOf r.d) (.ofCode r.a) (.reg (.ofCode r.b))
      else some (.fcmp cc h.g .f32 .dyn (pOf i.d) (.ofCode i.a) (.imm i.imm))
  | 0x18 => some (.sel h.g (.ofCode r.ty) (.ofCode r.d) (.ofCode r.a) (.ofCode r.b) (pOf r.c) (negOf r.c))
  | 0x19 =>
      if h.sub.toNat < 8 then some (.mov h.g (.ofCode r.ty) (.ofCode r.d) (.reg (.ofCode r.a)))
      else some (.mov h.g .s32 (.ofCode i.d) (.imm i.imm))
  | 0x1A => some (.modmul h.aluI3)
  | 0x1B => if s = 0 then some (.modadd h.aluI3) else some (.modsub h.aluI3)
  | 0x1C => some (.modrcp h.aluI)
  | 0x1D => if s = 0 then h.aluF.map .fadd else h.aluF.map .fsub
  | 0x1E => h.aluF.map .fmul
  | 0x1F => h.aluF3.map .ffma
  | 0x20 => if s = 0 then h.aluF.map .fmin else h.aluF.map .fmax
  | 0x21 => match s with
    | 0 => some (.frcp h.aluF1)
    | 1 => some (.frsq h.aluF1)
    | 2 => some (.fexp2 h.aluF1)
    | 3 => some (.flog2 h.aluF1)
    | 4 => some (.fsin h.aluF1)
    | 5 => some (.fcos h.aluF1)
    | _ => none
  | 0x22 => h.aluF3.map .fdot2
  | 0x23 => if s = 0 then h.cvtForm.map .cvt else h.cvtForm.map .cvtSat
  | 0x24 => if s = 0 then some (.ldk ⟨h.g, .ofCode i.d, i.imm⟩) else some (.ldkS ⟨h.g, .ofCode i.d, i.imm⟩)
  | 0x25 => if s = 0 then some (.give h.g (bitField i.imm.toNat 0 8))
      else some (.claim h.g (pOf i.d) (bitField i.imm.toNat 0 8))
  | _ => none

/-- Majors 0x30 to 0x36. -/
def decodeLane (h : Head) : Option Instr :=
  let r := BodyR.unpack h.body
  match h.op.toNat with
  | 0x30 => (VoteForm.ofCode h.sub.toNat).map fun form =>
      match form with
      | .gather | .count | .lead => .vote h.g form (.ofCode r.d) 0 (pOf r.a) (negOf r.a)
      | .some | .every | .agree => .vote h.g form (.v 0) (pOf r.d) (pOf r.a) (negOf r.a)
  | 0x31 => (ShflForm.ofCode h.sub.toNat).bind fun k => (LaneTy.ofCode r.ty).map fun ty =>
      .shfl k ⟨h.g, ty, .ofCode r.d, .ofCode r.a, .ofCode r.b, .ofCode r.c⟩
  | 0x32 => (LaneTy.ofCode r.ty).map fun ty => .rdlane h.g ty (.ofCode r.d) (.ofCode r.a) (.ofCode r.b)
  | 0x33 => (RedOp.ofCode h.sub.toNat).bind fun op => (RedTy.ofCode r.ty).map fun ty =>
      .reduce h.g op ty (.ofCode r.d) (.ofCode r.a)
  | 0x34 => (RedOp.ofCode (h.sub.toNat % 8)).bind fun op => (RedTy.ofCode r.ty).map fun ty =>
      .scan h.g op (bitAt h.sub.toNat 3) ty (.ofCode r.d) (.ofCode r.a)
  | 0x35 => (LaneTy.ofCode r.ty).bind fun ty => match h.sub.toNat with
      | 0 => some (.qxch h.g .h ty (.ofCode r.d) (.ofCode r.a))
      | 1 => some (.qxch h.g .v ty (.ofCode r.d) (.ofCode r.a))
      | 2 => some (.qxch h.g .d ty (.ofCode r.d) (.ofCode r.a))
      | 3 => some (.qxch h.g (.bc (Fin.ofNat 4 r.b.toNat)) ty (.ofCode r.d) (.ofCode r.a))
      | _ => none
  | 0x36 => (PlopOp.ofCode h.sub.toNat).map fun op => .plop h.g op (pOf r.d) (pOf r.a) (pOf r.b)
  | _ => none

/-- Majors 0x38 to 0x3F. -/
def decodeCtl (h : Head) : Option Instr :=
  let b := BodyB.unpack h.body
  let i := BodyI.unpack h.body
  match h.op.toNat, h.sub.toNat with
  | 0x38, 0 => some (.bra b.tgt)
  | 0x38, 1 => some (.bany h.g b.tgt)
  | 0x38, 2 => some (.ball h.g b.tgt)
  | 0x38, 3 => some (.bnone h.g b.tgt)
  | 0x39, 0 => some (.bdiv h.g b.tgt b.aux)
  | 0x3A, 0 => some .conf
  | 0x3B, 0 => some (.call b.tgt)
  | 0x3B, 1 => some .ret
  | 0x3C, 0 => some (.jtb (.ofCode b.a) b.tgt b.aux)
  | 0x3D, 0 => some (.rep h.repForm)
  | 0x3E, 0 => some (.exit h.g)
  | 0x3E, 1 => some .nop
  | 0x3E, 2 => some .yield
  | 0x3E, 3 => some (.nap i.imm)
  | 0x3F, 0 => some .bar
  | 0x3F, 1 => some .gbar
  | 0x3F, 2 => some (.cbar h.g i.count i.cb)
  | 0x3F, 3 => some (.cbwt h.g i.cb)
  | 0x3F, 4 => some (.cbarArm h.g i.count i.cb)
  | _, _ => none

/-- Majors 0x40 to 0x4D. -/
def decodeMem (h : Head) : Option Instr :=
  let m := BodyM.unpack h.body
  match h.op.toNat, h.sub.toNat with
  | 0x40, s => (Hint.ofCode s).bind fun k => h.loadForm.map fun f => .ld k f
  | 0x41, s => (Hint.ofCode s).bind fun k => h.storeForm.map fun f => .st k f
  | 0x42, _ => h.loadForm.map .lds
  | 0x43, _ => h.storeForm.map .sts
  | 0x44, _ => h.atomForm.map .atom
  | 0x45, _ => h.atomForm.map .red
  | 0x46, _ => (Scope.ofCode m.scope).map fun sc => .fence h.g (.ofCode m.order) sc
  | 0x47, 0 => some (.txb h.g)
  | 0x47, 1 => some (.txe h.g (Fin.ofNat 192 m.d.toNat))
  | 0x47, 2 => some (.txa h.g (bitField m.off.toNat 0 8))
  | 0x48, 0 => h.futForm.map .fwait
  | 0x48, 1 => h.futForm.map .ffill
  | 0x48, 2 => h.futForm.map .fpeek
  | 0x48, 3 => h.futForm.map .freset
  | 0x49, 0 => some (.qpush h.g (Fin.ofNat 4 (m.a.toNat - 0xF8)) (.ofCode m.d))
  | 0x49, 1 => some (.qlen h.g (Fin.ofNat 4 (m.a.toNat - 0xF8)) (sOf m.d))
  | 0x4A, 0 => (AtomWidth.ofCode m.width).map fun w => .bndmin h.g (Fin.ofNat 4 (m.a.toNat - 0xFC)) w (.ofCode m.d)
  | 0x4A, 1 => some (.bndwt h.g (Fin.ofNat 4 (m.a.toNat - 0xFC)) (sOf m.d))
  | 0x4B, 0 => h.cctlForm.map .cctlWb
  | 0x4B, 1 => h.cctlForm.map .cctlInv
  | 0x4B, 2 => h.cctlForm.map .cctlWbinv
  | 0x4C, _ => (Scope.ofCode m.scope).map fun sc => .icinv h.g sc (sOf m.b)
  | 0x4D, s => some (.pref h.g (s = 1) h.addr)
  | _, _ => none

/-- Majors 0x50 to 0x5E. -/
def decodeMtx (h : Head) : Option Instr :=
  let x := BodyX.unpack h.body
  let n := x.imm.toNat
  match h.op.toNat, h.sub.toNat with
  | 0x50, 0 => if bitAt n 0 then some .setmodDefault else some (.setmod x.ra)
  | 0x51, 0 => (Fmt.ofCode (bitField n 0 5)).bind fun af => (Fmt.ofCode (bitField n 5 5)).bind fun bf =>
      (Fmt.ofCode (bitField n 10 5)).map fun df => .setfmt af bf df
  | 0x52, 0 => some (.mzero h.g x.tile)
  | 0x53, 0 => h.macForm.map .mmac
  | 0x54, 0 => h.macForm.map .mmact
  | 0x55, 0 => h.macForm.map .mmacu
  | 0x56, 0 => some (.mpair (finField 4 n 0) (bitAt n 2))
  | 0x56, 1 => some .msolo
  | 0x57, 0 => some (.mbatch x.ra)
  | 0x57, 1 => some (.mwait (finField 16 n 0))
  | 0x58, 0 => some (.msig (finField 16 n 0) (finField 16 n 4) (bitField n 8 16))
  | 0x59, 0 => some (.mspill h.g x.tile x.ra)
  | 0x59, 1 => some (.mfill h.g x.tile x.ra)
  | 0x5A, 0 => x.drainFmt.map fun f => .mdrain h.g x.tile x.ra f (bitField n 17 8)
  | 0x5B, 0 => x.drainFmt.map fun f => .mdrainv h.g x.tile f (finField 64 n 17) (Fin.ofNat 96 (n / 2 ^ 23 % 128))
  | 0x5C, 0 => some (.mdigit h.g x.tile x.ra (Fin.ofNat 10 (n % 16)))
  | 0x5D, 0 => some (.mchk h.g x.tile (finField 8 n 0) (finField 8 n 3) x.ra)
  | 0x5E, 0 => some (.mstat h.g (bitAt n 0) x.ra)
  | _, _ => none

/-- Majors 0x60 to 0x6E. -/
def decodeEng (h : Head) : Option Instr :=
  let r := BodyR.unpack h.body
  let i := BodyI.unpack h.body
  let n := i.imm.toNat
  match h.op.toNat, h.sub.toNat with
  | 0x60, 0 => some (.slaunch h.g (sOf r.d) (sOf r.a) (sOf r.b) (tickOf r.c))
  | 0x60, 1 => some (.sstat h.g (sOf r.d))
  | 0x60, 2 => some (.sstop h.g (sOf r.d))
  | 0x61, 0 => some (.launch h.g (sOf r.a) (tickOf r.c))
  | 0x62, 0 => some (.joinw (sOf r.a))
  | 0x63, 0 => some (.spawn h.g (.ofCode r.a) (sOf r.b))
  | 0x63, 1 => some (.take h.g (sOf r.d))
  | 0x64, 0 => some (.prio (finField 8 n 0))
  | 0x65, 0 => (RecruitLimit.ofCode r.ty).map fun lim =>
      .recruit h.g lim (sOf r.d) (.ofCode r.a) (.ofCode r.b) (sOf r.c) (.ofCode (bitField r.mod.toNat 0 8))
  | 0x66, 0 => some (.tclaim h.g (sOf r.d) (sOf r.a))
  | 0x66, 1 => if r.a = 0xF0 then some .tdoneHelper else some (.tdoneRecruiter (sOf r.a))
  | 0x66, 2 => some (.tjoin (sOf r.d) (sOf r.a))
  | 0x66, 3 => some (.tfree h.g (sOf r.a))
  | 0x67, 0 => some (.coll h.g (sOf r.d) (sOf r.a) (tickOf r.c))
  | 0x67, 1 => some (.cwait (sOf r.a))
  | 0x67, 2 => some (.cstat h.g (sOf r.d) (sOf r.a))
  | 0x67, 3 => some (.cabort h.g (sOf r.d) (sOf r.a))
  | 0x68, 0 => some (.trap h.g (finField 16 n 0))
  | 0x68, 1 => some (.brk h.g)
  | 0x69, 0 => some .efence
  | 0x6A, 0 => some .tret
  | 0x6B, 0 => some (.tmask (bitAt n 0))
  | 0x6C, 0 => some (.srd h.g (.ofCode i.d) (bitField n 0 16))
  | 0x6D, 0 => some (.swr h.g (.ofCode i.a) (bitField n 0 16))
  | 0x6E, 0 => some (.tlbinvAll h.g (sOf r.d))
  | 0x6E, 1 => some (.tlbinvAsid h.g (sOf r.d) (sOf r.b))
  | 0x6E, 2 => some (.tlbinvPage h.g (sOf r.d) (sOf r.a) (sOf r.b))
  | _, _ => none

/-- The instruction whose fields a word holds, before the checks. -/
def decodeHead (h : Head) : Option Instr :=
  if h.op.toNat < 0x16 then decodeInt h
  else if h.op.toNat < 0x30 then decodeAlu h
  else if h.op.toNat < 0x38 then decodeLane h
  else if h.op.toNat < 0x40 then decodeCtl h
  else if h.op.toNat < 0x50 then decodeMem h
  else if h.op.toNat < 0x60 then decodeMtx h
  else decodeEng h

/-- A candidate stands only if it is well formed and the word is exactly its encoding. -/
def confirm (enc : Instr → Option (BitVec n)) (w : BitVec n) (i : Instr) : Option Instr :=
  if i.wf && enc i = some w then some i else none

/-- The wave decoder, total on all 64-bit words (R75: what it does not read is not an instruction). -/
def decodeWave (w : Word64) : Option Instr := (decodeHead (Head.unpack w)).bind (confirm encodeWave w)

/-! ### Sluice words -/

/-- The fields of a sluice word (R76). -/
structure SWord where
  op : BitVec 6
  d : BitVec 4 := 0
  a : BitVec 4 := 0
  b : BitVec 4 := 0
  imm : BitVec 14 := 0
  deriving DecidableEq, Repr

def SWord.pack (f : SWord) : Word32 :=
  BitVec.ofNat 32 (f.op.toNat * 2 ^ 26 + f.d.toNat * 2 ^ 22 + f.a.toNat * 2 ^ 18 + f.b.toNat * 2 ^ 14 + f.imm.toNat)

def SWord.unpack (w : Word32) : SWord :=
  { op := bitField w.toNat 26 6, d := bitField w.toNat 22 4, a := bitField w.toNat 18 4, b := bitField w.toNat 14 4,
    imm := bitField w.toNat 0 14 }

def xCode (n : Fin 16) : BitVec 4 := BitVec.ofNat 4 n.val
def tdCode (n : Fin 8) : BitVec 4 := BitVec.ofNat 4 n.val
def xOf (c : BitVec 4) : Fin 16 := Fin.ofNat 16 c.toNat
def tdOf (c : BitVec 4) : Fin 8 := Fin.ofNat 8 c.toNat

/-- The 32-bit word of a sluice instruction (R77); none for the other rows. -/
def encodeSluice : Instr → Option Word32
  | .sLi d i => some (SWord.pack { op := 0x00, d := xCode d, imm := i })
  | .sAdd d a b => some (SWord.pack { op := 0x01, d := xCode d, a := xCode a, b := xCode b })
  | .sAddi d a i => some (SWord.pack { op := 0x02, d := xCode d, a := xCode a, imm := i })
  | .sSub d a b => some (SWord.pack { op := 0x03, d := xCode d, a := xCode a, b := xCode b })
  | .sMul d a b => some (SWord.pack { op := 0x04, d := xCode d, a := xCode a, b := xCode b })
  | .sAnd d a b => some (SWord.pack { op := 0x05, d := xCode d, a := xCode a, b := xCode b })
  | .sOr d a b => some (SWord.pack { op := 0x06, d := xCode d, a := xCode a, b := xCode b })
  | .sShl d a b => some (SWord.pack { op := 0x07, d := xCode d, a := xCode a, b := xCode b })
  | .sShr d a b => some (SWord.pack { op := 0x08, d := xCode d, a := xCode a, b := xCode b })
  | .sMin d a b => some (SWord.pack { op := 0x09, d := xCode d, a := xCode a, b := xCode b })
  | .sMax d a b => some (SWord.pack { op := 0x0A, d := xCode d, a := xCode a, b := xCode b })
  | .sBeq a b i => some (SWord.pack { op := 0x0B, a := xCode a, b := xCode b, imm := i })
  | .sBne a b i => some (SWord.pack { op := 0x0C, a := xCode a, b := xCode b, imm := i })
  | .sBlt a b i => some (SWord.pack { op := 0x0D, a := xCode a, b := xCode b, imm := i })
  | .sBge a b i => some (SWord.pack { op := 0x0E, a := xCode a, b := xCode b, imm := i })
  | .sJmp i => some (SWord.pack { op := 0x0F, imm := i })
  | .sLoop a n => some (SWord.pack { op := 0x10, a := xCode a, imm := n })
  | .sEndl => some (SWord.pack { op := 0x11 })
  | .sHalt => some (SWord.pack { op := 0x12 })
  | .sLdx d a i => some (SWord.pack { op := 0x13, d := xCode d, a := xCode a, imm := i })
  | .sTdesc d a => some (SWord.pack { op := 0x14, d := tdCode d, a := xCode a })
  | .sTstep d a k => some (SWord.pack { op := 0x15, d := tdCode d, a := xCode a, imm := BitVec.ofNat 14 k.val })
  | .sTaddr d a => some (SWord.pack { op := 0x16, d := xCode d, a := tdCode a })
  | .sMove d a b => some (SWord.pack { op := 0x17, d := tdCode d, a := tdCode a, b := xCode b })
  | .sGather d a b => some (SWord.pack { op := 0x18, d := tdCode d, a := tdCode a, b := xCode b })
  | .sConv d a src dst => some (SWord.pack
    { op := 0x19, d := tdCode d, a := tdCode a,
      imm := BitVec.ofNat 14 (dst.code.toNat + src.code.toNat * 2 ^ 5) })
  | .sDeco d a => some (SWord.pack { op := 0x1A, d := tdCode d, a := xCode a })
  | .sTopk d a b k => some (SWord.pack { op := 0x1B, d := tdCode d, a := tdCode a, b := xCode b, imm := k })
  | .sArrive a cb => some (SWord.pack { op := 0x1C, a := xCode a, imm := BitVec.ofNat 14 cb.val })
  | .sWaitb cb => some (SWord.pack { op := 0x1D, imm := BitVec.ofNat 14 cb.val })
  | .sSignal a => some (SWord.pack { op := 0x1E, a := xCode a })
  | .sTickw a => some (SWord.pack { op := 0x1F, a := xCode a })
  | _ => none

/-- The sluice instruction whose fields a word holds, before the checks. -/
def decodeSWord (f : SWord) : Option Instr :=
  match f.op.toNat with
  | 0x00 => some (.sLi (xOf f.d) f.imm)
  | 0x01 => some (.sAdd (xOf f.d) (xOf f.a) (xOf f.b))
  | 0x02 => some (.sAddi (xOf f.d) (xOf f.a) f.imm)
  | 0x03 => some (.sSub (xOf f.d) (xOf f.a) (xOf f.b))
  | 0x04 => some (.sMul (xOf f.d) (xOf f.a) (xOf f.b))
  | 0x05 => some (.sAnd (xOf f.d) (xOf f.a) (xOf f.b))
  | 0x06 => some (.sOr (xOf f.d) (xOf f.a) (xOf f.b))
  | 0x07 => some (.sShl (xOf f.d) (xOf f.a) (xOf f.b))
  | 0x08 => some (.sShr (xOf f.d) (xOf f.a) (xOf f.b))
  | 0x09 => some (.sMin (xOf f.d) (xOf f.a) (xOf f.b))
  | 0x0A => some (.sMax (xOf f.d) (xOf f.a) (xOf f.b))
  | 0x0B => some (.sBeq (xOf f.a) (xOf f.b) f.imm)
  | 0x0C => some (.sBne (xOf f.a) (xOf f.b) f.imm)
  | 0x0D => some (.sBlt (xOf f.a) (xOf f.b) f.imm)
  | 0x0E => some (.sBge (xOf f.a) (xOf f.b) f.imm)
  | 0x0F => some (.sJmp f.imm)
  | 0x10 => some (.sLoop (xOf f.a) f.imm)
  | 0x11 => some .sEndl
  | 0x12 => some .sHalt
  | 0x13 => some (.sLdx (xOf f.d) (xOf f.a) f.imm)
  | 0x14 => some (.sTdesc (tdOf f.d) (xOf f.a))
  | 0x15 => some (.sTstep (tdOf f.d) (xOf f.a) (finField 4 f.imm.toNat 0))
  | 0x16 => some (.sTaddr (xOf f.d) (tdOf f.a))
  | 0x17 => some (.sMove (tdOf f.d) (tdOf f.a) (xOf f.b))
  | 0x18 => some (.sGather (tdOf f.d) (tdOf f.a) (xOf f.b))
  | 0x19 => (Fmt.ofCode (bitField f.imm.toNat 5 5)).bind fun src => (Fmt.ofCode (bitField f.imm.toNat 0 5)).map fun dst =>
      .sConv (tdOf f.d) (tdOf f.a) src dst
  | 0x1A => some (.sDeco (tdOf f.d) (xOf f.a))
  | 0x1B => some (.sTopk (tdOf f.d) (tdOf f.a) (xOf f.b) f.imm)
  | 0x1C => some (.sArrive (xOf f.a) (finField 16 f.imm.toNat 0))
  | 0x1D => some (.sWaitb (finField 16 f.imm.toNat 0))
  | 0x1E => some (.sSignal (xOf f.a))
  | 0x1F => some (.sTickw (xOf f.a))
  | _ => none

/-- The sluice decoder (R78: what it does not read is not a sluice instruction). -/
def decodeSluice (w : Word32) : Option Instr := (decodeSWord (SWord.unpack w)).bind (confirm encodeSluice w)

/-! ### Clause headers -/

/-- The fields of a clause header or POOL header (R47, R56). -/
structure Header where
  cls : Nat
  count : Nat                                  -- instructions that follow
  park : Bool
  tkchk : Bool
  ldwait : Nat
  mbwait : Option Nat
  ok : Bool                                    -- MBWAIT and the reserved bits are as R47 requires
  deriving DecidableEq, Repr

def isHeader (w : Word64) : Bool := bitAt w.toNat 63

def headerClass (w : Word64) : Nat := w.toNat / 2 ^ 60 % 8

/-- A word a transfer may enter: a clause header of class 0 to 3 (R45, R46). -/
def isClauseHeader (w : Word64) : Bool := isHeader w && headerClass w < 4

def Header.unpack (w : Word64) : Header :=
  let n := w.toNat
  { cls := n / 2 ^ 60 % 8, count := n / 2 ^ 56 % 16 + 1, park := bitAt n 55, tkchk := bitAt n 54,
    ldwait := n / 2 ^ 50 % 16, mbwait := if bitAt n 45 then some (n / 2 ^ 46 % 16) else none,
    ok := n % 2 ^ 45 = 0 && (bitAt n 45 || n / 2 ^ 46 % 16 = 0) }

/-- The class of clause that admits a major (R48); a control transfer may end any. -/
def majorClass (op : Nat) : Nat :=
  if op < 0x50 then 0 else if op < 0x60 then 1 else if op < 0x68 then 2 else 3

/-- The major opcode of a word. -/
def wordOp (w : Word64) : Nat := w.toNat / 2 ^ 56 % 128

/-! ### The host's view -/

/-- A device or host event: a row that no word encodes. -/
def isEvent (i : Instr) : Bool := (encodeWave i).isNone && (encodeSluice i).isNone

/-- The instruction whose bits are `w`, in the numbering of the opcode table: a 32-bit row is one sluice word (R76), a
64-bit row one code word (R44), both little-endian, so bit 0 is bit 0 of the word. -/
def decodeTableWord (nbits w : Nat) : Option Instr :=
  if nbits ≤ 32 then decodeSluice (BitVec.ofNat 32 w) else decodeWave (BitVec.ofNat 64 w)

end Sys2Proof
end

