-- ==== Sys2Proof/Machine/Map.lean ====
section
/-! DEFINITION. Sparse data by key: lists of (key, value) pairs in rising key order, and the byte memory built on them. -/

namespace Sys2Proof.Machine

/-- A sparse table keyed by a natural number, kept in strictly rising key order. -/
abbrev NMap (α : Type) := List (Nat × α)

variable {α : Type}

/-- The value at a key, if one is listed. -/
def NMap.get? : NMap α → Nat → Option α
  | [], _ => none
  | (k, v) :: m, i => if i = k then some v else NMap.get? m i

/-- The value at a key, or the default of an unlisted key. -/
def NMap.getD (m : NMap α) (i : Nat) (d : α) : α := (NMap.get? m i).getD d

/-- Put a value at a key, keeping the rising order. -/
def NMap.set : NMap α → Nat → α → NMap α
  | [], i, v => [(i, v)]
  | (k, w) :: m, i, v =>
    if i < k then (i, v) :: (k, w) :: m
    else if i = k then (i, v) :: m
    else (k, w) :: NMap.set m i v

/-- Remove a key. -/
def NMap.erase (m : NMap α) (i : Nat) : NMap α := m.filter fun c => c.1 ≠ i

/-- Change the value at a key if one is listed. -/
def NMap.modify (m : NMap α) (i : Nat) (f : α → α) : NMap α :=
  m.map fun c => if c.1 = i then (c.1, f c.2) else c

/-- Change every value. -/
def NMap.mapVal (m : NMap α) (f : Nat → α → α) : NMap α := m.map fun c => (c.1, f c.1 c.2)

/-- The listed values in key order. -/
def NMap.vals (m : NMap α) : List α := m.map (·.2)

/-- The listed keys in order. -/
def NMap.keys (m : NMap α) : List Nat := m.map (·.1)

/-- One more than the largest key: the next unused one. -/
def NMap.fresh (m : NMap α) : Nat := m.foldl (fun n c => max n (c.1 + 1)) 0

/-- The keys rise strictly. -/
def NMap.sorted : NMap α → Bool
  | [] => true
  | c :: m => m.all (fun d => c.1 < d.1) && NMap.sorted m

/-- Insert an element before the first that does not precede it. -/
def insertBy (le : α → α → Bool) (x : α) : List α → List α
  | [] => [x]
  | y :: ys => if le x y then x :: y :: ys else y :: insertBy le x ys

/-- Insertion sort, stable. -/
def sortBy (le : α → α → Bool) (l : List α) : List α := l.foldr (insertBy le) []

/-- Byte memory: the listed bytes; an unlisted byte reads as `Memory.blank`. -/
abbrev Memory := List Host.Cell

/-- What a byte that nothing has written reads as. DESIGN CHOICE, unsafe: log entry 1. For scratchpad the
zero is the spec's (R210). -/
def Memory.blank : Byte := 0

/-- Read one byte. -/
def Memory.read (m : Memory) (a : Nat) : Byte := NMap.getD m a Memory.blank

/-- Write one byte, keeping the canonical form. -/
def Memory.write (m : Memory) (a : Nat) (b : Byte) : Memory :=
  if b = Memory.blank then NMap.erase m a else NMap.set m a b

/-- The canonical form: addresses rise strictly and no listed byte equals the blank one. -/
def Memory.wf (m : Memory) : Bool := NMap.sorted m && m.all (fun c => c.2 ≠ Memory.blank)

/-- Read `n` bytes from `a`, lowest address first. -/
def Memory.readBytes (m : Memory) (a : Nat) : Nat → List Byte
  | 0 => []
  | n + 1 => Memory.read m a :: Memory.readBytes m (a + 1) n

/-- Write bytes from `a` upward. -/
def Memory.writeBytes (m : Memory) (a : Nat) : List Byte → Memory
  | [] => m
  | b :: bs => Memory.writeBytes (Memory.write m a b) (a + 1) bs

/-- The number that little-endian bytes stand for (R4). -/
def leNat : List Byte → Nat
  | [] => 0
  | b :: bs => b.toNat + 256 * leNat bs

/-- Bytes of a record as a number. -/
def recNat (bs : List Byte) (i n : Nat) : Nat := leNat ((bs.drop i).take n)

/-- The `n` little-endian bytes of a number (R4). -/
def leBytes (x : Nat) : Nat → List Byte
  | 0 => []
  | n + 1 => BitVec.ofNat 8 x :: leBytes (x / 256) n

/-- Read `n` little-endian bytes as a number. -/
def Memory.readNat (m : Memory) (a n : Nat) : Nat := leNat (Memory.readBytes m a n)

/-- Write a number as `n` little-endian bytes. -/
def Memory.writeNat (m : Memory) (a n x : Nat) : Memory := Memory.writeBytes m a (leBytes x n)

/-! ### CRC-32C (R324) -/

/-- One bit of the reflected division. -/
def crcStep (c : Nat) : Nat := if c % 2 = 1 then (c / 2) ^^^ 0x82F63B78 else c / 2

def crcByte (c : Nat) (b : Byte) : Nat :=
  crcStep (crcStep (crcStep (crcStep (crcStep (crcStep (crcStep (crcStep (c ^^^ b.toNat))))))))

/-- CRC-32C of bytes. -/
def crc32c (bs : List Byte) : Nat := bs.foldl crcByte 0xFFFFFFFF ^^^ 0xFFFFFFFF

end Sys2Proof.Machine
end

