-- ==== Sys2Proof/Machine/State.lean ====
section
/-! DEFINITION. The state of the device as plain data: everything the spec gives the machine, and the few fields of
the model's own that say which agent moves next (INVENTORY.md, heading State, lists each with its rule). -/

namespace Sys2Proof.Machine

/-! ### Registers of a wave -/

/-- One lane's 32-bit element of a vector register with its 4-bit residue code (R128). -/
structure VElem where
  val : Word32 := 0
  code : BitVec 4 := 0
  deriving DecidableEq, Repr

/-- A scalar register: 64 bits, a residue code for each half (R128), and the Pending mark of a token (R13). -/
structure Scalar where
  val : Word64 := 0
  codeLo : BitVec 4 := 0
  codeHi : BitVec 4 := 0
  pending : Bool := false
  deriving DecidableEq, Repr

/-! ### Control flow of a wave -/

/-- Why a split is Held (R121, R122). -/
inductive HoldWhy where
  | header                                     -- the header conditions of its clause are unmet (R50)
  | park                                       -- PARK wait (R53)
  | nap (until_ : Nat)                         -- NAP until a core cycle (R167)
  | bar | gbar                                 -- BAR, GBAR (R169)
  | cbwt (cb : Nat) (gen : BitVec 32)          -- CBWT with the recorded GEN (R172)
  | bndwt (n : Nat) (v : Word64)               -- BNDWT (R207)
  | mwait (seq : Nat)                          -- MWAIT for the batch closed as number seq (R275)
  | cwait (comm before : Nat)                  -- CWAIT for collectives numbered below `before` (R470)
  | tjoin (d entry : Nat) (handle : Word64)    -- TJOIN (R403)
  | commit                                     -- helper lanes in the wait of R391
  deriving DecidableEq, Repr

/-- The state of a split-table entry; a Free entry is not listed (R121). -/
inductive SplitState where
  | ready
  | held (why : HoldWhy)
  | issuing
  | confluent (seq : Nat)                      -- waits at the record of this SEQ (R158)
  deriving DecidableEq, Repr

/-- A divergence record (R155); the key it is listed under is its SEQ. -/
structure DivRecord where
  cpc : VAddr
  member : LaneMask
  arrived : LaneMask
  ldepth : NMap Nat                            -- by lane
  slot : Nat := 0                              -- its cache slot, 1 to 15; 0 while it is not cached
  helper : Bool := false                       -- made by helper code (R160, R176)
  deriving DecidableEq, Repr

/-- One instruction word of an issuing clause; `mask` is set for a Rest entry that TRET issues again (R416). -/
structure IssueWord where
  word : Word64
  hdr : VAddr
  idx : Nat
  mask : Option LaneMask := none
  rep : Option (Nat × Nat × RepForm) := none   -- the REP a Rest entry carries on with (R166)
  deriving DecidableEq, Repr

/-- The clause a wave is issuing: captured words (R55), place within it, and the REP in force (R165). -/
structure Issue where
  split : Nat
  hdr : VAddr
  mask : LaneMask
  park : Bool
  words : List IssueWord
  idx : Nat := 0
  rep : Option (Nat × Nat × RepForm) := none   -- next iteration, count, strides
  next : VAddr                                 -- the clause after this one
  rest : Bool := false                         -- Rest entries issued again by TRET
  began : Bool := false                        -- the instruction in hand has begun and stalled in place
  since : Nat := 0                             -- core cycle of its clause issue (R8)
  nap : Nat := 0                               -- cycles its split naps after the clause (R167)
  deriving DecidableEq, Repr

/-- A split (R120). Its CREF is a view of the records (R155), computed by `Wave.cref`. -/
structure Split where
  pc : VAddr
  mask : LaneMask
  state : SplitState
  helper : Bool := false                       -- holds helper lanes (R386)
  fetched : Option (Header × List Word64) := none -- its clause as fetched when it became Held (R55)
  issued : Nat := 0                            -- order of its last clause start (R169)
  cont : Option Issue := none                  -- the clause it goes on with after a BNDWT that is not its last (R207)
  deriving DecidableEq, Repr

/-- A lane transaction (R191). -/
inductive TxState where
  | open_
  | doomed (code user : Nat)
  deriving DecidableEq, Repr

/-- A lane that is not Idle: its state, the lines read with their recorded values, the bytes held (R193). -/
structure Tx where
  st : TxState
  reads : NMap (List Byte) := []               -- line address to its 64 recorded bytes
  wlines : List Nat := []                      -- lines of the write set
  writes : Memory := []                        -- held bytes (listed ones only)
  wbytes : List Nat := []                      -- addresses held, also those holding a zero byte
  deriving DecidableEq, Repr

/-! ### Memory accesses of a wave -/

/-- An access or engine report of a wave between its issue and its end (R51, R183, R409, R505). -/
structure MemOp where
  id : Nat
  born : Nat := 0                              -- its number at its first issue
  instr : Instr
  word : Word64
  hdr : VAddr
  idx : Nat
  rep : Option (Nat × Nat × RepForm) := none   -- iteration, count and strides (R166)
  mask : LaneMask                              -- lanes still to perform
  scal : Bool := false                         -- runs on the scalar unit
  owner : LaneMask := BitVec.allOnes 32                 -- the lanes whose program order it stands in, for the scalar unit
  ea : NMap Word64 := []                       -- effective address by lane
  data : NMap (BitVec 128) := []               -- captured store data, or returned data, by lane
  done : LaneMask := 0                         -- lanes performed at the home slice
  faulted : LaneMask := 0                      -- lanes with a late fault
  parked : Bool := false                       -- an FWAIT parked at its word
  remote : Bool := false                       -- sent to another device, not acknowledged (R449)
  sentAt : Nat := 0                            -- tick of the remote request
  ready : Bool := false                        -- data fixed at issue; only the write-back is left
  held : Bool := false                         -- a SPAWN that waits for its predicate (R36)
  watched : Bool := false                      -- a guarded command refers to its predicate write (R36)
  predLost : Bool := false                     -- a later instruction has written its predicate
  tx : NMap Tx := []                           -- the transactions a TXE ends (R195)
  clobber : LaneMask := 0                      -- lanes whose destination has been written meanwhile (R51)
  deriving DecidableEq, Repr

/-- A fault pending to be reported (R183, R17, R420). -/
structure LateFault where
  cause : BitVec 8
  ocause : BitVec 8 := 0
  addr : Word64 := 0
  lanes : LaneMask := 0
  info : Word64 := 0
  op : Option Nat := none                      -- the access that enters a replay queue with it
  hdr : VAddr := 0                             -- faulting clause of a helper fault (R429)
  handle : Word64 := 0                         -- the handle that reports it (R403)
  deriving DecidableEq, Repr

/-- The kinds of replay entry (R409). -/
inductive ReplayKind where
  | load | store | rest
  deriving DecidableEq, Repr

/-- A replay entry (R409, R415). -/
structure Replay where
  kind : ReplayKind
  flt : Bool
  op : MemOp
  deriving DecidableEq, Repr

/-- The control state set aside in the frame (R408). -/
structure SavedCtl where
  splits : NMap Split
  parked : List Split
  recs : NMap DivRecord
  preds : NMap LaneMask
  split : Nat                                  -- entry of the trapping split
  deriving DecidableEq, Repr

/-- The trap frame of a wave (R412 to R415). -/
structure Frame where
  cause : BitVec 8 := 0
  ocause : BitVec 8 := 0
  late : Bool := false
  more : Bool := false
  rqn : Nat := 0
  idx : Nat := 0
  tpc : Word64 := 0
  taddr : Word64 := 0
  tlanes : LaneMask := 0
  tinfo : Word64 := 0
  mask : Bool := false                         -- TSTAT.MASK
  inh : Bool := false                          -- TSTAT.INH
  ovd : Bool := false                          -- TSTAT.OVD
  scr : NMap Word64 := []                      -- TSCR0 to TSCR3
  rqsel : Nat := 0
  replay : NMap Replay := []                   -- entries by number; a dropped one is not listed
  helperHdr : Option VAddr := none             -- RQHDR of entry 0 under cause 112 (R429)
  handle : Word64 := 0                         -- the handle of cause 112 (R403); R412 lists no register that shows it
  opAt : Nat := 0                              -- number of the first access after the trap
  saved : Option SavedCtl := none
  deriving DecidableEq, Repr

/-- A held entry of an effect buffer (R390). -/
structure HeldOp where
  op : MemOp
  lane : Nat
  deriving DecidableEq, Repr

/-- Where a helper lane stands in its chunk (R389, R391). -/
inductive HelperPhase where
  | running | waiting | committing
  deriving DecidableEq, Repr

/-- A helper lane (R387 to R391). -/
structure HelperLane where
  core : Nat                                   -- core of the turnout entry
  entry : Nat
  chunk : Nat
  iter : Nat                                   -- iteration running
  last : Nat                                   -- last iteration of the chunk
  phase : HelperPhase := .running
  buf : List HeldOp := []
  sticky : BitVec 8 := 0
  fence : Option Scope := none
  rsto : Nat := 0                              -- RSTO roundings of this iteration (R100)
  late : List LateFault := []                  -- faults of its loads, not yet charged (R393)
  gen : BitVec 16 := 0                         -- generation of the turnout it serves (R395)
  keep : Bool := false                         -- its last TDONE issued as a release pended: the chunk commits first (R406)
  deriving DecidableEq, Repr

/-- What an access did to its predicate, for the guarded commands that refer to it (R36): it wrote bits in lanes, or it faulted
with a cause (R38). -/
structure PredNote where
  op : Nat                                     -- the access, by its number at its first issue
  lanes : LaneMask := 0
  bits : LaneMask := 0
  cause : Option (BitVec 8) := none
  deriving DecidableEq, Repr

/-- Where a wave context is (R366). -/
inductive WavePlace where
  | resident (core slot : Nat)
  | evicted (order : Nat)
  | joining
  | suspended (joining : Bool)
  | damaged
  | ended
  deriving DecidableEq, Repr

/-- What the spin detector watches in a split (R174). -/
structure Spin where
  word : VAddr                                 -- the branch taken
  head : VAddr := 0                            -- its target
  depth : Nat := 0                             -- return-stack depth at the branch
  count : Nat := 0                             -- consecutive takings with an unchanged hash
  hash : Option Nat := none                    -- of what the last pass wrote
  regs : List Nat := []                        -- what this pass writes: vector 0 to 191, scalar 192 + n, predicate 256 + p
  lines : List Nat := []                       -- lines loaded in this pass
  deriving DecidableEq, Repr

/-- A wave context (R120, R125, R175, R412, R422); the key it is listed under is its name in the model. -/
structure Wave where
  group : Nat
  waveid : Nat
  role : Nat := 0
  asid : Nat := 0
  place : WavePlace := .ended
  placedAt : Nat := 0                          -- order of placement (R363)
  allot : Nat := 8                             -- vector registers (R115)
  scalPool : Bool := false                     -- scalar set held in the vector pool (R115)
  level : Nat := 0                             -- issue level (R361, R362)
  v : NMap VElem := []                         -- key 32·register + lane
  s : NMap Scalar := []
  p : NMap LaneMask := []                      -- p0 to p6
  lseq : NMap Word64 := []                     -- by lane (R100)
  exited : LaneMask := 0
  splits : NMap Split := []                    -- entries 0 to 7
  parkedSplits : List Split := []              -- oldest first (R123)
  lastSplit : Option Nat := none               -- round-robin record (R124, R504)
  started : Nat := 0                           -- core cycle of its last clause start, or since which it is Ready (R173)
  recs : NMap DivRecord := []
  nextSeq : Nat := 0
  rets : NMap (List VAddr) := []             -- return stack by lane, top first (R161)
  tickets : NMap (BitVec 32) := []             -- valid barrier tickets (R172)
  tx : NMap Tx := []                           -- lanes not Idle
  loads : List MemOp := []                     -- outstanding load-class instructions, oldest first
  stores : List MemOp := []                    -- outstanding store-class instructions, oldest first
  asyncs : List MemOp := []                    -- CCTL, ICINV and TLBINV operations in progress
  nextOp : Nat := 0
  faults : List LateFault := []                -- pending late faults in order of detection (R420)
  heldBack : LaneMask := 0                     -- lanes whose later stores are held back (R183)
  frame : Frame := {}
  issue : Option Issue := none
  yielded : Bool := false                      -- YIELD in force (R167)
  parking : Bool := false                      -- waits for its loads after a PARK clause (R53)
  rejoined : Bool := false                     -- has resumed from a JOINW that parked (R169)
  remote : Bool := false                       -- remote wave (R376)
  joinAddr : Option (Nat × Word64) := none     -- physical and virtual address of the counter it is parked on
  joinZero : Bool := false                     -- the counter has reached zero since it parked (R375)
  woken : Option Nat := none                   -- order of waking (R375)
  evictReq : Bool := false                     -- eviction or suspension request pending (R421)
  reqAt : Nat := 0                             -- core cycle at which it arrived
  joinIncr : List (Nat × Nat) := []            -- guarded LAUNCHes: node and address of its join counter (R367)
  helperWave : Bool := false                   -- filled by the turnout controller (R383)
  helpers : NMap HelperLane := []              -- serving helper lanes by position
  release : LaneMask := 0                      -- helper lanes under a forced release (R392)
  rejoin : NMap (Nat × BitVec 16) := []        -- lanes that rejoin on resumption: entry and generation (R395)
  colls : List (Nat × Nat) := []               -- collectives issued and not complete: communicator, number
  endReq : Option (BitVec 8) := none           -- its grid has been ended; it stops at its clause boundary (R411)
  spin : NMap Spin := []                       -- spin detector, by split-table entry (R174)
  seen : List Nat := []                        -- lines read since the last acquire at DEVICE scope (R215, R226)
  wideTok : BitVec 32 := 0                     -- tokens completed at DEVICE or SYSTEM scope and not yet acquired (R16)
  predNotes : List PredNote := []              -- what accesses that guarded commands refer to have written (R36)
  ctx : List Nat := []                         -- blocks of the context pool that hold its saved context (R423)
  upset : LaneMask := 0                        -- lanes in which its next verified issue is struck by an error (R130)
  deriving DecidableEq, Repr

/-! ### Locks, barriers, queues and engines of a core -/

/-- The space a range lock lies in (R30). -/
inductive LockSpace where
  | scratch (group : Nat)
  | virt (asid : Nat)
  deriving DecidableEq, Repr

/-- Who owns a range lock (R30). -/
inductive LockOwner where
  | sluice (core cmd : Nat)
  | deco (core cmd block : Nat)
  | matrix (group op : Nat)
  | flume (comm item : Nat)
  deriving DecidableEq, Repr

/-- A range-lock entry: granules lo to hi inclusive (R30). -/
structure Lock where
  space : LockSpace
  lo : Nat
  hi : Nat
  write : Bool
  owner : LockOwner
  deriving DecidableEq, Repr

/-- A counted barrier (R24). -/
structure Barrier where
  target : BitVec 16 := 0
  count : BitVec 16 := 0
  gen : BitVec 32 := 0
  owner : Option Nat := none
  deriving DecidableEq, Repr

/-- A register-mapped queue (R202). -/
structure WordQueue where
  owner : Option Nat := none
  words : List Word32 := []
  deriving DecidableEq, Repr

/-- The outstanding predicate write a guarded command waits for (R36): the guard that write gives (R37), or the accesses whose
writes will give it. -/
structure GuardRef where
  value : Bool
  cause : Option (BitVec 8) := none            -- that write's instruction faulted with this cause (R38)
  ops : List Nat := []                         -- accesses of the wave, by their numbers at their first issue
  wave : Nat := 0
  bits : LaneMask := 0                         -- the predicate as it stood at issue
  neg : Bool := false
  mask : LaneMask := 0                         -- the lanes active at issue
  deriving DecidableEq, Repr

/-- A sluice command: SLAUNCH (R337) or a sluice node (R351). -/
structure SluiceCmd where
  id : Nat
  wave : Option Nat                            -- launching wave; none for a node
  node : Option Nat := none
  group : Option Nat := none
  asid : Nat := 0
  token : Fin 32 := 0
  image : Word64 := 0
  args : List Word64 := []
  tick : Option Word64 := none
  guard : Option GuardRef := none
  rnd : Fin 8 := 1                             -- MODE.RND captured
  ftz : Bool := false
  xen : BitVec 8 := 0
  after : Nat := 0                             -- its wave's accesses numbered below come first (R231)
  deriving DecidableEq, Repr

/-- A loaded tensor descriptor (R308). -/
structure TDesc where
  base : Word64
  n0 : Nat
  n1 : Nat
  n2 : Nat
  n3 : Nat
  s0 : Int
  s1 : Int
  s2 : Int
  s3 : Int
  fmt : Fmt
  scl : Int
  rnd : Rnd
  sat : Bool
  deriving DecidableEq, Repr

/-- A hardware loop of a sluice program (R313). -/
structure SLoop where
  start : Nat
  stop : Nat
  count : Nat
  deriving DecidableEq, Repr

/-- What a running sluice program waits for (R338 STATE 3). -/
inductive SluiceWait where
  | none
  | barrier (cb : Nat) (gen : BitVec 32)
  | tick (t : Word64)
  | locks                                      -- range locks (R31)
  | room                                       -- room in the decompressor queue (R326)
  | deco                                       -- a pending DECO (R323)
  | xfer                                       -- a data instruction in progress
  deriving DecidableEq, Repr

/-- A data instruction in progress: which, its units done and in all, what it has read ahead of its writes, and the set read
(R309, R341). -/
structure Xfer where
  instr : Instr
  done : Nat := 0
  total : Nat := 0
  list : List Nat := []                        -- a GATHER's indices, a TOPK's row, a CONV's block as quantised
  mset : List (Nat × Nat) := []                -- present channels and moduli
  mid : Bool := false                          -- the next element lies in the granule last written
  deriving DecidableEq, Repr

/-- The running sluice program (R304). -/
structure SluiceProg where
  cmd : SluiceCmd
  loaded : Bool := false
  x : NMap Word64 := []
  td : NMap TDesc := []
  loops : List SLoop := []
  spc : Nat := 0
  words : List Word32 := []
  tickets : NMap (BitVec 32) := []
  wait : SluiceWait := .none
  xfer : Option Xfer := none
  blocks : Nat := 0                            -- DECOs handed off so far
  sticky : BitVec 8 := 0
  dataCause : Option (BitVec 8 × Word64) := none
  signalled : Bool := false
  stop : Bool := false                         -- SSTOP has ended it (R339)
  kept : Option (BitVec 8 × Word64 × Nat) := none -- cause of a block that failed while suspended (R341)
  resumed : Bool := false
  deriving DecidableEq, Repr

/-- A block in a decompressor queue (R326). -/
structure DecoBlock where
  core : Nat
  cmd : Nat
  block : Nat
  td : TDesc
  addr : Word64
  spc : Nat
  locked : Bool := false
  deriving DecidableEq, Repr

/-- A pending-launch entry (R367). -/
structure LaunchEntry where
  wave : Nat
  asid : Nat
  node : Nat
  tick : Option Word64
  guard : Option GuardRef := none
  after : Nat := 0                             -- its wave's accesses numbered below come first (R367)
  deriving DecidableEq, Repr

/-- A task record in a deque with its address space (R369). -/
structure Task where
  asid : Nat
  words : List Word64
  deriving DecidableEq, Repr

/-- A SPAWN that waits for its predicate, or behind one that does (R370): its wave and access. -/
structure SpawnCmd where
  op : Nat
  wave : Nat
  guard : GuardRef
  deriving DecidableEq, Repr

/-- A collective in a core's or a communicator's queue (R457, R469). -/
structure Coll where
  id : Nat
  wave : Nat
  core : Nat
  asid : Nat
  token : Fin 32
  comm : Nat
  desc : List Byte
  mset : List Byte := []
  addr : Word64 := 0                           -- address of its descriptor
  bad : Option LateFault := none               -- marked bad, with the cause its own token gets
  early : Option LateFault := none             -- it ends with this as soon as its guard is true
  tick : Option Word64 := none
  guard : Option GuardRef := none
  after : Nat := 0                             -- its wave's accesses numbered below come first (R231)
  deriving DecidableEq, Repr

/-- The states of a turnout entry (R398). -/
inductive TurnState where
  | free | open_ | draining | complete | faulted | releasing
  deriving DecidableEq, Repr

/-- A turnout table entry (R380). -/
structure Turnout where
  st : TurnState := .free
  gen : BitVec 16 := 0
  wave : Nat := 0
  lane : Nat := 0
  n : Nat := 0
  b : Nat := 1
  entryPc : VAddr := 0
  window : List Scalar := []
  winVec : Bool := false
  mode : Word64 := 0
  seed : Word64 := 0
  next : Nat := 0
  reclaim : List Nat := []                     -- ascending
  committed : Nat := 0                         -- chunks Committed
  own : Option Nat := none                     -- chunk held by the recruiter
  discards : Nat := 0
  rchunks : Nat := 0
  fault : Option LateFault := none
  lost : Bool := false                         -- TFREE has taken a chunk that the recruiter held (R404)
  after : Nat := 0                             -- its wave's accesses numbered below come first (R234)
  deriving DecidableEq, Repr

/-- A cached line of an L1 (R213): its line number, its valid bytes by offset, which are dirty, its tag, the order of the
last store to it, and its place among the lines to be replaced (R186): 0 first, 2 last. -/
structure L1Line where
  line : Nat
  data : NMap Byte
  dirty : BitVec 64 := 0
  tag : Scope := .wave
  seq : Nat := 0
  mark : Nat := 1
  deriving DecidableEq, Repr

/-- A cached code word (R238). -/
structure CodeWord where
  asid : Nat
  va : Nat
  word : Word64
  deriving DecidableEq, Repr

/-- A cached translation (R438, R441): the page's first address, its size, and its leaf. -/
structure TlbEntry where
  asid : Nat
  va : Nat
  size : Nat
  pa : Nat
  r : Bool
  w : Bool
  x : Bool
  host : Bool
  deriving DecidableEq, Repr

/-- What a core holds. -/
structure Core where
  locks : List Lock := []
  bars : NMap Barrier := []
  queues : NMap WordQueue := []
  slots : NMap Nat := []                       -- wave in each used slot
  port : NMap Nat := []                        -- slot whose clause holds a quarter's issue port
  lastWave : NMap Nat := []                    -- round-robin record of each quarter (R504)
  lastGroup : Option Nat := none               -- round-robin record of the matrix engine (R255)
  sluiceQ : List SluiceCmd := []
  sluice : Option SluiceProg := none
  flumeQ : List Coll := []
  launchQ : List LaunchEntry := []
  spawnQ : List SpawnCmd := []
  deque : List Task := []                      -- core part, top (oldest) first
  spill : List Task := []                      -- spill part, top first
  spillBase : Word64 := 0
  spillCap : Word64 := 0
  turnouts : NMap Turnout := []
  l1 : List L1Line := []
  icache : List CodeWord := []                 -- last fetched first; 8,192 words (R208)
  codeFrom : Nat := 0                          -- length of `State.oldWords` at the last ICINV that reached it (R238)
  tlb : List TlbEntry := []
  contain : Word64 := 0
  ccnt : NMap (BitVec 16) := []                -- CCNT0 to CCNT2 as one count for each die (R292)
  wp : NMap Word64 := []                       -- WP0 to WP3
  bankReq : BitVec 8 := 0
  bankGated : BitVec 8 := 0
  bankFill : BitVec 8 := 0                     -- banks being zero-filled (R212)
  scratchBanks : Nat := 2                      -- b of R209
  deriving DecidableEq, Repr

/-- What a cluster holds: bound registers, BNDMINs on their way, its decompressor, its shared TLB. -/
structure Cluster where
  bnd : NMap Word64 := []
  bndPending : List (Nat × Nat × Word64) := [] -- wave access, bound, value; oldest first
  decoQ : NMap (List DecoBlock) := []          -- by position in the cluster
  decoNow : Option DecoBlock := none
  decoLast : Option Nat := none                -- round-robin record (R326)
  tlb : List TlbEntry := []
  deriving DecidableEq, Repr

/-- A chunk of a collective: peer, first byte of the payload and its length (R454). -/
structure Chunk where
  id : Nat
  comm : Nat
  coll : Nat
  peer : Nat
  off : Nat
  len : Nat
  data : Option (List Byte) := none            -- its bytes once read
  deriving DecidableEq, Repr

/-- What a tower holds. -/
structure Tower where
  ctxBase : Word64 := 0
  ctxSize : Word64 := 0
  map : BitVec 40 := 0x9876543210#40           -- DIEMAP.MAP (R480)
  down : BitVec 10 := 0                        -- DIEMAP.DOWN
  dieDrop : Option (Fin 10) := none            -- die drop in progress (R482)
  gone : Bool := false
  noplace : Bool := false
  sweep : Bool := false                        -- orderly drop in progress (R485)
  sweepPtr : NMap Nat := []                    -- P of each departing slice (R489)
  wayReq : BitVec 16 := 0xFFFF#16
  wayAct : BitVec 16 := 0xFFFF#16
  feIdle : Bool := false                       -- front end idle (R346)
  feSince : Nat := 0                           -- core cycle at which it last found an entry or was woken
  feLast : Option Nat := none                  -- queue served last (R504)
  slotA : Option Chunk := none
  slotB : Option Chunk := none
  lastComm : NMap Nat := []                    -- communicator last granted, by priority (R455)
  deriving DecidableEq, Repr

/-! ### Groups and the matrix engine -/

/-- A modulus set as its record's ten halfwords (R83). -/
abbrev ModRecord := List (BitVec 16)

/-- TMODE of a tile (R247). -/
inductive TMode where
  | unset | full | halfA | halfB
  deriving DecidableEq, Repr

/-- One element of a tile (R247). -/
structure TElem where
  res : List (BitVec 9)                        -- ten channel residues
  xe : BitVec 8 := 0
  xs : BitVec 6 := 0
  empty : Bool := true
  xovf : Bool := false
  psn : Bool := false
  deriving DecidableEq, Repr

/-- An accumulator tile; an element not listed is as MZERO leaves it. -/
structure Tile where
  elems : NMap TElem := []                     -- key 64·row + column
  tmode : TMode := .unset
  tset : Option ModRecord := none              -- none: zeroed under no valid set
  dcnt : BitVec 32 := 0
  deriving DecidableEq, Repr

/-- Progress of a matrix queue entry (R254, R255). -/
inductive MxState where
  | waiting | running | complete
  deriving DecidableEq, Repr

/-- An entry of a group's matrix command queue, with the values captured at issue (R254, R109). -/
structure MxEntry where
  id : Nat
  instr : Instr
  word : Word64
  wave : Nat
  xa : Word64 := 0
  xb : Word64 := 0
  xc : Word64 := 0
  rnd : Fin 8 := 1
  ftz : Bool := false
  seed : Word64 := 0
  guard : Option GuardRef := none
  batch : Option Nat := none                   -- serial number of its batch; none for an order mark
  state : MxState := .waiting
  effectAt : Option Nat := none                -- a SETMOD that has started: core cycle of its effect (R256)
  fmt : Word64 := 0                            -- FMT read at start
  desc : List Byte := []                       -- MMACU's descriptor, read at start (R269)
  newSet : Option ModRecord := none               -- the set a started SETMOD has read
  dcnt : BitVec 32 := 0                        -- DCNT of the tile before a drain's count (R289)
  causes : List LateFault := []                -- causes recorded (R260)
  sticky : BitVec 8 := 0                       -- MODE bits for retirement (R109)
  ovr : Nat := 0
  corr : Nat := 0
  psn : Bool := false
  chkf : Bool := false
  vrow : List (Word32 × Word32) := []          -- the row an MDRAINV writes at retirement, by lane
  clobber : LaneMask := 0                      -- lanes whose destination has been written meanwhile (R51)
  after : Nat := 0                             -- its wave's accesses numbered below come first (R231)
  deriving DecidableEq, Repr

/-- A closed batch in flight: serial number and MSIG arrivals in issue order (R19, R22, R276). -/
structure Batch where
  seq : Nat
  sigs : List (Nat × Nat) := []
  deriving DecidableEq, Repr

/-- Pairing of a group (R272). -/
structure Pairing where
  partner : Nat
  leader : Bool
  broken : Bool := false
  deriving DecidableEq, Repr

/-- A group (R12) with its matrix state. -/
structure Group where
  gang : Nat
  gid : Nat := 0
  core : Nat := 0
  asid : Nat := 0
  order : Nat := 0                             -- order of placement (R255)
  live : Bool := true                          -- not yet ended
  waves : List Nat := []
  mode : Word64 := 1
  seed : Word64 := 0
  tvec : Word64 := 0
  fmt : Word64 := 0x1884#64
  scratch : Memory := []
  scratchSize : Nat := 0
  pools : NMap Nat := []                       -- free blocks, by 4·core + quarter (R116)
  bmask : BitVec 16 := 0
  qmask : BitVec 4 := 0
  tiles : NMap Tile := []                      -- granted tiles
  mq : List MxEntry := []
  nextMx : Nat := 0
  openSeq : Nat := 0                           -- serial number of the open batch; its number is this mod 16
  batches : List Batch := []                   -- closed and in flight, oldest first
  mset : Option ModRecord := none              -- none: Invalid
  mcause : BitVec 8 := 0                       -- MSTAT fields (R294)
  mcbatch : BitVec 4 := 0
  ovrcnt : Nat := 0
  corrcnt : Nat := 0
  chkf : Bool := false
  psndr : Bool := false
  more : Bool := false
  pair : Option Pairing := none
  retained : List Lock := []
  lowered : Bool := false                      -- spin detector (R174)
  loweredAt : Nat := 0
  spinLines : List Nat := []
  spinMany : Bool := false                     -- the marked split loaded more than 8 lines
  savedBars : NMap Barrier := []               -- saved with a suspended gang (R25)
  savedQueues : NMap (List Word32) := []
  savedTurnouts : NMap Turnout := []
  savedProg : Option SluiceProg := none
  savedCmds : List SluiceCmd := []
  ctx : List Nat := []                         -- blocks of the context pool that hold its saved state (R423)
  deriving DecidableEq, Repr

/-- A gang (R11). -/
structure Gang where
  node : Nat
  gangid : Nat
  cluster : Nat
  groups : List Nat
  placedAt : Nat := 0
  suspendReq : Bool := false
  suspended : Option Nat := none               -- order of suspension
  live : Bool := true
  deriving DecidableEq, Repr

/-- The states of a node (R357). -/
inductive NodeState where
  | pending | waiting | ready | running | completing | done
  deriving DecidableEq, Repr

/-- A graph node: a submitted record and what the scheduler keeps of it (R355). -/
structure Node where
  addr : Word64                                -- virtual address of the record
  pa : Nat := 0                                -- physical address, for a host-submitted record
  asid : Nat := 0
  queue : Option Nat := none                   -- host queue that submitted it
  wave : Option Nat := none                    -- launching wave
  bytes : List Byte := []                        -- the 128 bytes as read
  kd : List Byte := []                         -- the kernel descriptor as read
  invalid : Option (BitVec 8) := none          -- cause of an invalid record or of a failed read (R352)
  st : NodeState := .pending
  readyAt : Nat := 0                           -- order of becoming Ready (R359)
  prio : Nat := 0
  cap : Nat := 7                               -- ceiling from the queue or launcher (R361)
  tick : Option Word64 := none
  nextGang : Nat := 0
  lines : Nat := 0                             -- transform lines done
  core : Option Nat := none                    -- core of a running sluice node
  status : Nat := 0                            -- status, with the sticky byte of a sluice node (R351)
  ended : Bool := false                        -- ended under R411
  deriving DecidableEq, Repr

/-! ### Home slices -/

/-- What the home slice of a line holds beside its bytes (R198, R215, R220, R443). -/
structure LineInfo where
  emptyWords : BitVec 8 := 0                   -- bit i: futures word i is Empty
  waiters : List (Nat × Nat × Nat × Nat) := [] -- parked: word, wave, access, lane
  counter : Option (Nat × Nat) := none         -- TARGET, COUNT
  writers : List Nat := []                     -- clusters recorded by R215
  unwritten : BitVec 64 := 0                   -- poisoned: bytes not written since (R443, R486)
  poisonPt : Bool := false                     -- poisoned by a walker (cause 37), else lost (cause 42)
  asids : List Nat := []                       -- address spaces that have faulted on it
  asidOvf : Bool := false
  deriving DecidableEq, Repr

/-! ### Communicators -/

/-- The states of a communicator (R451). -/
inductive CommState where
  | disabled | idle | matching | running | aborting
  deriving DecidableEq, Repr

/-- A received chunk in one of the two buffers of the receive area (R453). -/
structure RxChunk where
  rank : Nat
  off : Nat
  data : List Byte
  item : Nat := 0                              -- owner of its write locks once its drain has begun; 0 before
  deriving DecidableEq, Repr

/-- The collective in progress on a communicator (R458 to R465). -/
structure CollRun where
  todo : List Chunk := []                      -- chunks not yet granted, in schedule order
  sent : List Chunk := []                      -- sent and kept for a resend
  got : NMap Memory := []                      -- payload bytes received, by rank
  gotLen : NMap Nat := []                      -- payload bytes received and drained, by rank
  recvd : List (Nat × Nat) := []               -- chunks received: rank and offset
  wrote : List Nat := []                       -- ranks known to have written their DST
  writing : Bool := false                      -- the local write to DST has its locks
  localDone : Bool := false
  flags : BitVec 8 := 0
  cause : Option (BitVec 8) := none            -- data cause recorded (R462)
  retried : List (Nat × Nat) := []             -- chunks whose CRC failed once
  armed : List Nat := []                       -- DST lines whose counters the flume armed (R465)
  filled : NMap Nat := []                      -- bytes of each such line written so far, by virtual line
  lastRx : Word64 := 0                         -- tick at which something last arrived
  deriving DecidableEq, Repr

/-- A communicator's state on this device (R451, R453, R471). -/
structure Comm where
  st : CommState := .disabled
  queue : List Coll := []                      -- the head is the current one
  run : CollRun := {}
  credits : NMap Nat := []                     -- held, by peer rank
  rx : List RxChunk := []
  acks : List Nat := []                        -- peers whose abort acknowledgement is awaited
  abortBy : Option Nat := none                 -- wave whose CABORT it is (R468)
  ndone : BitVec 32 := 0
  last : BitVec 8 := 0
  nextChunk : Nat := 0
  deriving DecidableEq, Repr

/-! ### Device registers -/

/-- Device-wide system registers (R217, R433, R447, R478, R479, R496). -/
structure DevRegs where
  astBase : Word64 := 0
  hqBase : Word64 := 0
  amBase : Word64 := 0
  amRun : Bool := false
  amRefused : Bool := false
  amMap : Option (List (BitVec 16)) := none    -- map in force; none: identity
  rcLine : Word64 := 0
  rcStat : Word64 := 0
  ptpLine : Word64 := 0
  devid : Word64 := 0
  cmBase : Word64 := 0
  rtBase : Word64 := 0
  ports : NMap (BitVec 2) := []                -- PORTSTAT by port
  portRun : BitVec 12 := 0                     -- ports in retraining (R496)
  evRing : Word64 := 0
  evHead : Word64 := 0
  evTail : Word64 := 0
  evLost : BitVec 32 := 0
  svcErr : BitVec 8 := 0
  svcTwr : BitVec 2 := 0
  svcBusy : Bool := false
  svcRebuild : Bool := false
  pwrCap : Word64 := 3800#64
  thermMax : BitVec 8 := 0
  thermWarn : Bool := false
  attn : NMap Word64 := []
  attRun : Bool := false
  report : List Byte := []                     -- attestation report at 0xC000
  deriving DecidableEq, Repr

/-! ### Agents -/

/-- Which agent moves next. The model's own: the spec's engines run at once, and this plain data orders their steps. -/
inductive Agent where
  | issue (core quarter : Nat)                 -- a quarter issues the next instruction of its clause, or chooses a clause
  | sluice (core : Nat)                        -- a sluice executes its next instruction or moves its next element
  | event (i : Instr)                          -- a device or host event
  | clock (cycles : Nat)                       -- core cycles pass
  deriving DecidableEq, Repr, Inhabited

/-- The state of the device. -/
structure State where
  cycle : Nat                                  -- core cycles since reset
  tick : Word64                                -- global tick counter (R39)
  frozen : Bool                                -- stop-log freeze (R490)
  pinLow : Bool                                -- SLFRZ_N is low
  endWritten : Bool                            -- 0 has been written to 0x8000 in this freeze
  tickSet : Option Word64                      -- TICKSET written in this freeze (R492)
  heldHost : List Instr                        -- host accesses held by the freeze (R490)
  recovery : Bool                              -- firmware in recovery (R497)
  firmware : List Byte                         -- the image in flash
  mem : Memory                                 -- device memory at the home slices, by physical address
  hostMem : Memory                             -- host memory, by host bus address
  lines : NMap LineInfo                        -- by line number
  oldWords : List (Nat × Word64)               -- words of device memory that a write has replaced, youngest first (R238)
  unplaced : Memory                            -- bytes of stack slots that the address map places no region in (R217)
  unplacedLines : NMap LineInfo                -- and what goes with their lines
  cores : NMap Core
  clusters : NMap Cluster
  towers : NMap Tower
  waves : NMap Wave
  groups : NMap Group
  gangs : NMap Gang
  nodes : NMap Node
  comms : NMap Comm
  dev : DevRegs
  hostRead : List Byte                         -- the bytes the last host or remote read returned
  stamp : Nat                                  -- order stamp for placements, evictions and stores
  free : Nat                                   -- the model's own: how many free values have been taken
  cur : Nat × Nat                              -- the model's own: core and slot whose instruction runs
  agenda : List Agent                          -- the model's own: which agents move next
  deriving DecidableEq, Repr

/-- Why the machine stops. Each stop is safe: the model stops where a run of the device would go on. -/
inductive Fault where
  /-- `exec` was asked for a wave instruction while no wave is issuing one at `State.cur`. Raised by every wave
  instruction's meaning; no `step` raises it. Safe. -/
  | notIssuing
  /-- `exec` was asked for a sluice instruction while the sluice of the core in `State.cur` runs none. Raised by every
  sluice instruction's meaning; no `step` raises it. Safe. -/
  | noProgram
  deriving DecidableEq, Repr

/-- Why an instruction has no meaning here. -/
inductive Refusal where
  /-- The instruction has not been given a meaning yet. Raised only by an arm of Dispatch. Safe. -/
  | notModelled (mnemonic : String)
  deriving DecidableEq, Repr

/-- The device right after reset: the values the spec states for reset, and those log entry 2 names. -/
def State.reset : State where
  cycle := 0
  tick := 0
  frozen := false
  pinLow := false
  endWritten := false
  tickSet := none
  heldHost := []
  recovery := false
  firmware := []
  mem := []
  hostMem := []
  lines := []
  oldWords := []
  unplaced := []
  unplacedLines := []
  cores := []
  clusters := []
  towers := []
  waves := []
  groups := []
  gangs := []
  nodes := []
  comms := []
  dev := {}
  hostRead := []
  stamp := 0
  free := 0
  cur := (0, 0)
  agenda := []

end Sys2Proof.Machine
end

