-- ==== Sys2Proof/Config.lean ====
section
/-! DEFINITION. The free values: what the spec leaves open. Each is opaque, so nothing in Lean can tell its value; a free
value applied to `State.free` differs at each use. -/

namespace Sys2Proof.Config

/-- The old or the new of two values the spec allows (R51, R238, R441), and other two-way choices. -/
opaque choose : Nat → Bool

/-- A 64-bit value the spec leaves open. -/
opaque word : Nat → Word64

/-- A choice among the first `n` of the outcomes the spec allows. -/
opaque pick : Nat → Nat → Nat

/-- Which agent moves when the agenda is empty: the spec's engines run at once, and nothing orders their steps. -/
opaque schedule : Nat → Machine.Agent

/-- The spin detector's hash of what a split holds (R174). -/
opaque hash : List Nat → Nat

/-- The device serial of the attestation report (R498). -/
opaque serial : BitVec 128

/-- The SHAKE256-256 digest of a firmware image (R498). -/
opaque digest : List Byte → BitVec 256

/-- Whether a firmware image verifies against the fused key (R497). -/
opaque verified : List Byte → Bool

/-- The Falcon-1024 signature of the device's identity key over some bytes (R498). -/
opaque sign : List Byte → List Byte

end Sys2Proof.Config
end

