-- ==== Sys2Proof/Machine/Access.lean ====
section
/-! DEFINITION. Reading and writing the parts of State: units by number, lane masks, registers with their residue
codes (R128), predicates, and the context of the instruction that issues. -/

namespace Sys2Proof.Machine

/-! ### Units -/

def State.core (s : State) (c : Nat) : Core := NMap.getD s.cores c {}
def State.setCore (s : State) (c : Nat) (k : Core) : State := { s with cores := NMap.set s.cores c k }
def State.modCore (s : State) (c : Nat) (f : Core → Core) : State := s.setCore c (f (s.core c))
def State.cluster (s : State) (k : Nat) : Cluster := NMap.getD s.clusters k {}
def State.modCluster (s : State) (k : Nat) (f : Cluster → Cluster) : State :=
  { s with clusters := NMap.set s.clusters k (f (s.cluster k)) }
def State.tower (s : State) (t : Nat) : Tower := NMap.getD s.towers t {}
def State.modTower (s : State) (t : Nat) (f : Tower → Tower) : State :=
  { s with towers := NMap.set s.towers t (f (s.tower t)) }
def State.wave? (s : State) (w : Nat) : Option Wave := NMap.get? s.waves w
def State.setWave (s : State) (w : Nat) (x : Wave) : State := { s with waves := NMap.set s.waves w x }
def State.modWave (s : State) (w : Nat) (f : Wave → Wave) : State := { s with waves := NMap.modify s.waves w f }
def State.group? (s : State) (g : Nat) : Option Group := NMap.get? s.groups g
def State.setGroup (s : State) (g : Nat) (x : Group) : State := { s with groups := NMap.set s.groups g x }
def State.modGroup (s : State) (g : Nat) (f : Group → Group) : State := { s with groups := NMap.modify s.groups g f }
def State.gang? (s : State) (g : Nat) : Option Gang := NMap.get? s.gangs g
def State.modGang (s : State) (g : Nat) (f : Gang → Gang) : State := { s with gangs := NMap.modify s.gangs g f }
def State.node? (s : State) (n : Nat) : Option Node := NMap.get? s.nodes n
def State.modNode (s : State) (n : Nat) (f : Node → Node) : State := { s with nodes := NMap.modify s.nodes n f }
def State.comm (s : State) (c : Nat) : Comm := NMap.getD s.comms c {}
def State.modComm (s : State) (c : Nat) (f : Comm → Comm) : State := { s with comms := NMap.set s.comms c (f (s.comm c)) }
def State.line (s : State) (ln : Nat) : LineInfo := NMap.getD s.lines ln {}
def State.modLine (s : State) (ln : Nat) (f : LineInfo → LineInfo) : State :=
  { s with lines := NMap.set s.lines ln (f (s.line ln)) }
def State.modDev (s : State) (f : DevRegs → DevRegs) : State := { s with dev := f s.dev }

/-- The cluster, tower and position of a core (R9). -/
def clusterOf (c : Nat) : Nat := c / 4
def towerOf (c : Nat) : Nat := c / 64
def clusterCores (k : Nat) : List Nat := [4 * k, 4 * k + 1, 4 * k + 2, 4 * k + 3]

/-- A group by its key, or an empty one. -/
def State.group (s : State) (g : Nat) : Group := (s.group? g).getD { gang := 0, live := false }

/-- Take the next free two-way choice. -/
def State.choose (s : State) : Bool × State := (Config.choose s.free, { s with free := s.free + 1 })

/-- The next order stamp. -/
def State.bump (s : State) : State := { s with stamp := s.stamp + 1 }

/-! ### Lane masks -/

/-- The lanes of a mask, ascending. -/
def lanesOf (m : LaneMask) : List Nat := (List.range 32).filter fun l => m.getLsbD l

/-- The mask of the lanes that satisfy a test. -/
def maskOf (f : Nat → Bool) : LaneMask :=
  BitVec.ofNat 32 ((List.range 32).foldl (fun a l => if f l then a + 2 ^ l else a) 0)

def laneBit (l : Nat) : LaneMask := BitVec.ofNat 32 (2 ^ l)

def allLanes : LaneMask := BitVec.allOnes 32

def lowestLane (m : LaneMask) : Nat := (lanesOf m).headD 0

/-! ### Registers -/

/-- The residue code of 32 bits: their unsigned value mod 15 (R128). -/
def resCode (x : Word32) : BitVec 4 := BitVec.ofNat 4 (x.toNat % 15)

def lo32 (x : Word64) : Word32 := BitVec.ofNat 32 x.toNat
def hi32 (x : Word64) : Word32 := BitVec.ofNat 32 (x.toNat / 2 ^ 32)
def pair64 (lo hi : Word32) : Word64 := BitVec.ofNat 64 (lo.toNat + hi.toNat * 2 ^ 32)

/-- A vector element with a generated code. -/
def VElem.of (x : Word32) : VElem := ⟨x, resCode x⟩

def VElem.ok (e : VElem) : Bool := e.code = resCode e.val

/-- A Ready scalar with generated codes. -/
def Scalar.of (x : Word64) : Scalar := ⟨x, resCode (lo32 x), resCode (hi32 x), false⟩

/-- A Pending token (R13). -/
def Scalar.pend : Scalar := { Scalar.of pendingWord with pending := true }

def Scalar.ok (r : Scalar) : Bool := r.codeLo = resCode (lo32 r.val) && r.codeHi = resCode (hi32 r.val)

def Wave.vAt (w : Wave) (r l : Nat) : VElem := NMap.getD w.v (32 * r + l) {}
def Wave.setV (w : Wave) (r l : Nat) (e : VElem) : Wave := { w with v := NMap.set w.v (32 * r + l) e }
def Wave.sAt (w : Wave) (n : Nat) : Scalar := NMap.getD w.s n {}
def Wave.setS (w : Wave) (n : Nat) (r : Scalar) : Wave := { w with s := NMap.set w.s n r }

/-- A predicate as a lane mask; p7 is always 1 (R61, R153). -/
def Wave.pAt (w : Wave) (p : Nat) : LaneMask := if p = 7 then allLanes else NMap.getD w.p p 0

def Wave.setP (w : Wave) (p : Nat) (m : LaneMask) : Wave := { w with p := NMap.set w.p p m }

/-- Write one bit of a predicate in the given lanes. -/
def Wave.setPBits (w : Wave) (p : Nat) (lanes bits : LaneMask) : Wave :=
  w.setP p ((w.pAt p &&& ~~~lanes) ||| (bits &&& lanes))

def Wave.lseqAt (w : Wave) (l : Nat) : Word64 := NMap.getD w.lseq l 0

/-- The live lanes of a wave (R119); a helper wave's own lanes all count as exited. -/
def Wave.live (w : Wave) : LaneMask := ~~~w.exited

/-- The lanes on which a guard is true among `m` (R61): its predicate bit after PNEG. -/
def Wave.guardMask (w : Wave) (g : Guard) (m : LaneMask) : LaneMask :=
  m &&& (if g.neg then ~~~(w.pAt g.pred.val) else w.pAt g.pred.val)

/-! ### The instruction that issues -/

/-- The wave instruction in hand: its wave and core, its issuing clause, its word, and the active lanes. -/
structure Ctx where
  wid : Nat
  w : Wave
  core : Nat
  slot : Nat
  iss : Issue
  iw : IssueWord
  mask : LaneMask
  helper : Bool
  deriving Repr

/-- The context at `State.cur`, if a wave there is issuing an instruction. -/
def State.ctx? (s : State) : Option Ctx :=
  match NMap.get? (s.core s.cur.1).slots s.cur.2 with
  | none => none
  | some wid =>
    match s.wave? wid with
    | none => none
    | some w =>
      match w.issue with
      | none => none
      | some iss =>
        match iss.words[iss.idx]? with
        | none => none
        | some iw =>
          let helper := match NMap.get? w.splits iss.split with
            | some sp => sp.helper
            | none => false
          some ⟨wid, w, s.cur.1, s.cur.2, iss, iw, iw.mask.getD iss.mask, helper⟩

/-- Run a meaning in its context; without one nothing issues.
DESIGN CHOICE, safe: log entry 52. -/
def withCtx (s : State) (f : Ctx → Host.Outcome State Fault Refusal) : Host.Outcome State Fault Refusal :=
  match s.ctx? with
  | some c => f c
  | none => .fault .notIssuing

/-- The lanes in which the instruction takes effect (R61, R131). -/
def Ctx.eff (c : Ctx) (g : Guard) : LaneMask := c.w.guardMask g c.mask

/-- The scalar-unit guard: the instruction takes effect in some active lane (R61). -/
def Ctx.guardHolds (c : Ctx) (g : Guard) : Bool := c.eff g ≠ 0

/-- Move on to the next iteration of a REP, or to the next word of the clause. -/
def Issue.advance (i : Issue) : Issue :=
  match i.rep with
  | some (k, n, f) =>
    if k + 1 < n then { i with rep := some (k + 1, n, f), began := false }
    else { i with rep := none, idx := i.idx + 1, began := false }
  | none => { i with idx := i.idx + 1, began := false }

/-- The instruction in hand is done: its wave issues on. -/
def Wave.advance (w : Wave) : Wave := { w with issue := w.issue.map Issue.advance }

def State.advance (s : State) (wid : Nat) : State := s.modWave wid Wave.advance

/-- The instruction in hand stalls in place (R52, R8): it has not issued, its clause keeps the quarter's port (R50, R113),
and it is tried again.
DEDUCED, unsafe: log entry 3. -/
def State.stall (s : State) (c : Ctx) : State :=
  s.modWave c.wid fun w => { w with issue := w.issue.map fun i => { i with began := true } }

end Sys2Proof.Machine
end

