-- ==== Sys2Proof/Machine/Float.lean ====
section
/-! DEFINITION. Floating-point numbers (R87 to R89), rounding (R94 to R97) and the exact values behind it. -/

namespace Sys2Proof.Machine

/-! ### Formats and values -/

/-- A float format: significand bits with the hidden one, largest and smallest exponent (R87). -/
structure FFmt where
  p : Nat
  emax : Int
  emin : Int
  expBits : Nat
  single : Bool                                -- FP32, which alone obeys FTZ (R89)
  deriving DecidableEq, Repr

def fp32 : FFmt := ⟨24, 127, -126, 8, true⟩
def fp16 : FFmt := ⟨11, 15, -14, 5, false⟩
def bf16 : FFmt := ⟨8, 127, -126, 8, false⟩

/-- A float operand as read: a NaN, an infinity, or (-1)^neg · m · 2^e, where m = 0 is a signed zero. -/
inductive FV where
  | nan (signalling : Bool)
  | inf (neg : Bool)
  | fin (neg : Bool) (m : Nat) (e : Int)
  deriving DecidableEq, Repr

/-- Sticky bits in MODE order from NV (R105): NV, DZ, OF, UF, NX, SAT, TBAD, POIS. -/
abbrev Sticky := BitVec 8

def fNV : Sticky := 1
def fDZ : Sticky := 2
def fOF : Sticky := 4
def fUF : Sticky := 8
def fNX : Sticky := 16
def fSAT : Sticky := 32
def fTBAD : Sticky := 64
def fPOIS : Sticky := 128

/-- Read the bits of a float (R87); a subnormal FP32 operand under FTZ is a zero of its sign (R89). -/
def FFmt.read (f : FFmt) (ftz : Bool) (x : Nat) : FV :=
  let fb := f.p - 1
  let frac := x % 2 ^ fb
  let ex := x / 2 ^ fb % 2 ^ f.expBits
  let neg := x / 2 ^ (fb + f.expBits) % 2 = 1
  if ex = 2 ^ f.expBits - 1 then
    if frac = 0 then .inf neg else .nan (frac / 2 ^ (fb - 1) % 2 = 0)
  else if ex = 0 then
    if f.single ∧ ftz then .fin neg 0 0 else .fin neg frac (f.emin - (fb : Int))
  else .fin neg (frac + 2 ^ fb) ((ex : Int) - f.emax - (fb : Int))

def FV.isNaN : FV → Bool
  | .nan _ => true
  | _ => false

def FV.sig : FV → Bool
  | .nan b => b
  | _ => false

def FV.neg : FV → Bool
  | .nan _ => false
  | .inf n => n
  | .fin n _ _ => n

def FV.isZero : FV → Bool
  | .fin _ 0 _ => true
  | _ => false

def FV.isInf : FV → Bool
  | .inf _ => true
  | _ => false

/-- A signalling NaN among the operands raises NV (R88). -/
def sigFlag (vs : List FV) : Sticky := if vs.any FV.sig then fNV else 0

def FFmt.signBit (f : FFmt) (neg : Bool) : Nat := if neg then 2 ^ (f.p - 1 + f.expBits) else 0

/-- The canonical quiet NaN (R88). -/
def FFmt.canonNaN (f : FFmt) : Nat := (2 ^ f.expBits - 1) * 2 ^ (f.p - 1) + 2 ^ (f.p - 2)

def FFmt.infBits (f : FFmt) (neg : Bool) : Nat := f.signBit neg + (2 ^ f.expBits - 1) * 2 ^ (f.p - 1)

def FFmt.zeroBits (f : FFmt) (neg : Bool) : Nat := f.signBit neg

/-- The largest finite value. -/
def FFmt.maxBits (f : FFmt) (neg : Bool) : Nat := f.infBits neg - 1

/-- The bits of (-1)^neg · n · 2^q, where n ≤ 2^p and 2^q is a quantum of the format. -/
def FFmt.encode (f : FFmt) (neg : Bool) (n : Nat) (q : Int) : Nat :=
  let fb := f.p - 1
  -- biased exponent of quantum q for a significand with the hidden bit
  let be := (q - (f.emin - (fb : Int))).toNat + 1
  f.signBit neg +
    (if n < 2 ^ fb then n                                   -- subnormal, at the lowest quantum
     else if n < 2 ^ f.p then be * 2 ^ fb + (n - 2 ^ fb)
     else (be + 1) * 2 ^ fb)

/-! ### Exact values -/

/-- The magnitude of an exact nonzero value: (m + δ)·2^e with δ = 0, or δ strictly between 0 and 1 where `more` holds.
Where `more` holds, m has at least 60 significant bits, so no rounding decision depends on δ beyond its not being 0. -/
structure Mag where
  m : Nat
  e : Int
  more : Bool := false
  deriving DecidableEq, Repr

/-- The number of bits of a natural number. -/
def bitLen (n : Nat) : Nat := if n = 0 then 0 else n.log2 + 1

/-- floor(log2) of a magnitude. -/
def Mag.exp (x : Mag) : Int := (bitLen x.m : Int) - 1 + x.e

/-- Rounding with a resolved mode and the draw u of RSTO (R94). -/
structure RMode where
  rnd : Nat                                    -- 1 to 7
  ftz : Bool := false
  u : Nat := 0
  deriving DecidableEq, Repr

/-- Round a magnitude to a multiple of 2^q (R94): the integer multiple, and whether it is exact. -/
def RMode.pick (r : RMode) (neg : Bool) (x : Mag) (q : Int) : Nat × Bool :=
  if q ≤ x.e ∧ !x.more then (x.m * 2 ^ (x.e - q).toNat, true)
  else
    let sh := (q - x.e).toNat
    let n := x.m / 2 ^ sh
    let rem := x.m % 2 ^ sh
    if rem = 0 ∧ !x.more then (n, true)
    else
      let twice := 2 * rem
      let above := twice > 2 ^ sh || (twice = 2 ^ sh && x.more)
      let tie := twice = 2 ^ sh && !x.more
      -- floor(f · 2^32), f measured from the lower neighbour of the signed value
      let fm := rem * 2 ^ 32 / 2 ^ sh
      let whole := rem * 2 ^ 32 % 2 ^ sh = 0 && !x.more
      let f32 := if neg then (if whole then 2 ^ 32 - fm else 2 ^ 32 - 1 - fm) else fm
      let up := match r.rnd with
        | 1 => above || (tie && n % 2 = 1)
        | 2 => false
        | 3 => !neg
        | 4 => neg
        | 5 => above || tie
        | 6 => if neg then !(r.u < f32) else r.u < f32
        | _ => n % 2 = 0
      (if up then n + 1 else n, false)

/-- What an overflowing result delivers (R95): true for infinity, false for the largest finite value. -/
def RMode.overInf (r : RMode) (neg : Bool) : Bool :=
  match r.rnd with
  | 1 | 5 | 6 => true
  | 3 => !neg
  | 4 => neg
  | _ => false

/-- `Round` of a nonzero exact value to a float format (R89, R94 to R97): its bits, its flags, and whether it
overflowed. -/
def FFmt.roundMag (f : FFmt) (r : RMode) (neg : Bool) (x : Mag) : Nat × Sticky × Bool :=
  let ex := x.exp
  let fb : Int := (f.p : Int) - 1
  if f.single ∧ r.ftz ∧ ex < f.emin then (f.zeroBits neg, fUF ||| fNX, false)
  else
    let q := (if ex < f.emin then f.emin else ex) - fb
    let (n, exact) := r.pick neg x q
    if exact ∧ ex ≤ f.emax then (f.encode neg n q, 0, false)
    else
      let (nw, _) := r.pick neg x (ex - fb)
      let ew := if nw = 2 ^ f.p then ex + 1 else ex
      if ew > f.emax then
        (if r.overInf neg then f.infBits neg else f.maxBits neg, fOF ||| fNX, true)
      else (f.encode neg n q, if ew < f.emin then fUF ||| fNX else fNX, false)

/-- An exact result: a NaN, an infinity, a zero of a sign, or a nonzero value. -/
inductive Pre where
  | nan
  | inf (neg : Bool)
  | zero (neg : Bool)
  | num (neg : Bool) (x : Mag)
  deriving DecidableEq, Repr

/-- `Round` (R97). -/
def FFmt.round (f : FFmt) (r : RMode) : Pre → Nat × Sticky
  | .nan => (f.canonNaN, 0)
  | .inf neg => (f.infBits neg, 0)
  | .zero neg => (f.zeroBits neg, 0)
  | .num neg x => ((f.roundMag r neg x).1, (f.roundMag r neg x).2.1)

/-- An integer multiple of a power of two. -/
structure Dyadic where
  v : Int
  e : Int
  deriving DecidableEq, Repr

def FV.dyadic : FV → Dyadic
  | .fin neg m e => ⟨if neg then -(m : Int) else m, e⟩
  | _ => ⟨0, 0⟩

def Dyadic.add (a b : Dyadic) : Dyadic :=
  let e := min a.e b.e
  ⟨a.v * 2 ^ (a.e - e).toNat + b.v * 2 ^ (b.e - e).toNat, e⟩

def Dyadic.mul (a b : Dyadic) : Dyadic := ⟨a.v * b.v, a.e + b.e⟩

/-- The exact result of a sum of terms: zero takes `zneg` as its sign. -/
def Dyadic.pre (a : Dyadic) (zneg : Bool) : Pre :=
  if a.v = 0 then .zero zneg else .num (a.v < 0) ⟨a.v.natAbs, a.e, false⟩

/-- The sign of an exact zero sum of terms with these signs: theirs if they agree, else minus only under RDN (R94). -/
def zeroSign (r : RMode) (signs : List Bool) : Bool :=
  if signs.all (fun b => b) then true
  else if signs.all (fun b => !b) then false
  else r.rnd = 4

/-! ### Exact arithmetic (R145) -/

def FV.negate : FV → FV
  | .nan b => .nan b
  | .inf n => .inf (!n)
  | .fin n m e => .fin (!n) m e

/-- a + b with the flags of its operands. -/
def fAddPre (r : RMode) (a b : FV) : Pre × Sticky :=
  let fl := sigFlag [a, b]
  match a, b with
  | .nan _, _ => (.nan, fl)
  | _, .nan _ => (.nan, fl)
  | .inf n, .inf n' => if n = n' then (.inf n, fl) else (.nan, fNV)
  | .inf n, _ => (.inf n, fl)
  | _, .inf n => (.inf n, fl)
  | a, b => ((a.dyadic.add b.dyadic).pre (zeroSign r [a.neg, b.neg]), fl)

/-- The product of two operands, exact: an infinity, a NaN where 0 meets infinity, or a value. -/
inductive Prod where
  | nan
  | bad                                        -- 0 · infinity
  | inf (neg : Bool)
  | val (neg : Bool) (d : Dyadic)
  deriving DecidableEq, Repr

def fProd (a b : FV) : Prod :=
  match a, b with
  | .nan _, _ => .nan
  | _, .nan _ => .nan
  | .inf n, b => if b.isZero then .bad else .inf (n != b.neg)
  | a, .inf n => if a.isZero then .bad else .inf (a.neg != n)
  | a, b => .val (a.neg != b.neg) (a.dyadic.mul b.dyadic)

def fMulPre (a b : FV) : Pre × Sticky :=
  let fl := sigFlag [a, b]
  match fProd a b with
  | .nan => (.nan, fl)
  | .bad => (.nan, fNV)
  | .inf n => (.inf n, fl)
  | .val n d => (d.pre n, fl)

/-- A sum of products and an addend, exact, with one rounding to come: FFMA and FDOT2 (R145). -/
def fSumPre (r : RMode) (ps : List Prod) (c : FV) (fl : Sticky) : Pre × Sticky :=
  if ps.any (fun p => p = .bad) then (.nan, fl ||| fNV)
  else if ps.any (fun p => p = .nan) || c.isNaN then (.nan, fl)
  else
    let infs := (ps.filterMap fun p => match p with | .inf n => some n | _ => none) ++
      (match c with | .inf n => [n] | _ => [])
    match infs with
    | n :: rest => if rest.all (· = n) then (.inf n, fl) else (.nan, fl ||| fNV)
    | [] =>
      let terms := (ps.filterMap fun p => match p with | .val n d => some (n, d) | _ => none) ++ [(c.neg, c.dyadic)]
      let sum := terms.foldl (fun a t => a.add t.2) (⟨0, 0⟩ : Dyadic)
      (sum.pre (zeroSign r (terms.map (·.1))), fl)

/-- Order of two values that are not NaNs: a < b, with -0 = +0. -/
def FV.lt (a b : FV) : Bool :=
  match a, b with
  | .inf na, .inf nb => na && !nb
  | .inf na, _ => na
  | _, .inf nb => !nb
  | a, b => (a.dyadic.add ⟨-b.dyadic.v, b.dyadic.e⟩).v < 0

def FV.eq (a b : FV) : Bool := !a.isNaN && !b.isNaN && !(a.lt b) && !(b.lt a)

/-- The bits of an operand delivered as a result: canonical NaN, and zeros of their sign (R88, R145). -/
def FFmt.put (f : FFmt) (x : FV) : Nat :=
  match x with
  | .nan _ => f.canonNaN
  | .inf n => f.infBits n
  | .fin n m e => if m = 0 then f.zeroBits n else (f.roundMag { rnd := 2 } n ⟨m, e, false⟩).1

/-- FMIN and FMAX (R145): -0 below +0, a single NaN gives the other operand. -/
def fMinMax (isMax : Bool) (a b : FV) : FV × Sticky :=
  let fl := sigFlag [a, b]
  match a, b with
  | .nan _, .nan _ => (.nan false, fl)
  | .nan _, b => (b, fl)
  | a, .nan _ => (a, fl)
  | a, b =>
    let aLess := a.lt b || (a.isZero && b.isZero && a.neg && !b.neg)
    (if aLess != isMax then a else b, fl)

/-! ### Roots and reciprocals: floors of irrational or long quotients -/

/-- Integer square root by bits, from bit `i` down. -/
def isqrtFrom (n : Nat) : Nat → Nat → Nat
  | 0, r => r
  | i + 1, r => isqrtFrom n i (if (r + 2 ^ i) * (r + 2 ^ i) ≤ n then r + 2 ^ i else r)

def isqrt (n : Nat) : Nat := isqrtFrom n (bitLen n / 2 + 1) 0

/-- 1/(m·2^e) as a magnitude. -/
def recipMag (m : Nat) (e : Int) : Mag :=
  let k := 100 + bitLen m
  ⟨2 ^ k / m, -e - (k : Int), 2 ^ k % m ≠ 0⟩

/-- 1/sqrt(m·2^e) as a magnitude. -/
def rsqrtMag (m : Nat) (e : Int) : Mag :=
  let (m, e) := if e % 2 = 0 then (m, e) else (2 * m, e - 1)
  let k := 100 + bitLen m
  let t := isqrt (2 ^ (2 * k) / m)
  ⟨t, -(e / 2) - (k : Int), t * t * m ≠ 2 ^ (2 * k)⟩

/-! ### Correctly rounded functions (R146), by fixed-point evaluation with a known error, at rising precision -/

/-- Sum of the terms (±) t/(k), t/(n²), ... of atan(1/n) scaled by 2^P. -/
def atanInvFrom (n : Nat) : Nat → Nat → Nat → Bool → Int
  | 0, _, _, _ => 0
  | fuel + 1, t, k, pos =>
    (if pos then ((t / k : Nat) : Int) else -((t / k : Nat) : Int)) + atanInvFrom n fuel (t / (n * n)) (k + 2) (!pos)

/-- π scaled by 2^P, within 2^(-P)·(8P + 64). -/
def piFix (P : Nat) : Nat :=
  (16 * atanInvFrom 5 (P / 4 + 2) (2 ^ P / 5) 1 true - 4 * atanInvFrom 239 (P / 14 + 2) (2 ^ P / 239) 1 true).toNat

/-- ln 2 scaled by 2^P: the sum of 1/(k·2^k). -/
def ln2From (P : Nat) : Nat → Nat → Nat
  | 0, _ => 0
  | fuel + 1, k => 2 ^ P / (k * 2 ^ k) + ln2From P fuel (k + 1)

def ln2Fix (P : Nat) : Nat := ln2From P (P + 2) 1

/-- The terms t, t·x/k, … of a Taylor series in x (scaled by 2^P); `step` is 1 for exp and 2 for sin and cos, whose
signs alternate and whose argument is x². -/
def expFrom (P x : Nat) : Nat → Nat → Nat → Nat
  | 0, _, _ => 0
  | fuel + 1, t, k => t + expFrom P x fuel (t * x / 2 ^ P / k) (k + 1)

def altFrom (P x2 : Nat) : Nat → Nat → Nat → Bool → Int
  | 0, _, _, _ => 0
  | fuel + 1, t, k, pos =>
    (if pos then (t : Int) else -(t : Int)) + altFrom P x2 fuel (t * x2 / 2 ^ P / (k * (k + 1))) (k + 2) (!pos)

/-- 2·atanh(z) terms: z/1, z³/3, … with z² scaled by 2^P. -/
def atanhFrom (P z2 : Nat) : Nat → Nat → Nat → Nat
  | 0, _, _ => 0
  | fuel + 1, t, k => t / k + atanhFrom P z2 fuel (t * z2 / 2 ^ P) (k + 2)

/-- A value scaled by 2^P that lies within `err` of the truth. -/
structure Fix where
  v : Int
  P : Nat
  err : Nat
  deriving DecidableEq, Repr

/-- The floor of the truth to at least 60 significant bits, if the error leaves it certain. -/
def Fix.mag (x : Fix) : Option (Bool × Mag) :=
  let neg := x.v < 0
  let a := x.v.natAbs
  if a ≤ x.err then none
  else
    let lo := a - x.err
    let hi := a + x.err
    let sh := bitLen lo - 64
    if 64 ≤ bitLen lo ∧ lo / 2 ^ sh = hi / 2 ^ sh then
      some (neg, ⟨lo / 2 ^ sh, (sh : Int) - (x.P : Int), true⟩)
    else none

/-- Evaluate at precision P, 2P, 4P, … until the floor is certain. -/
def ziv (f : Nat → Fix) : Nat → Nat → Pre
  | 0, P => match (f P).v with
    | v => .num (v < 0) ⟨v.natAbs, -(P : Int), true⟩
  | fuel + 1, P => match (f P).mag with
    | some (neg, m) => .num neg m
    | none => ziv f fuel (2 * P)

/-- m·2^e scaled by 2^P, and whether that is exact. -/
def scaleTo (P : Nat) (m : Nat) (e : Int) : Nat :=
  let s := (P : Int) + e
  if 0 ≤ s then m * 2 ^ s.toNat else m / 2 ^ (-s).toNat

/-- 2^x for x = ±m·2^e, not an integer, |x| < 2^12. -/
def exp2Fix (neg : Bool) (m : Nat) (e : Int) (P : Nat) : Fix :=
  let Q := P + 32
  let x : Int := if neg then -(scaleTo Q m e : Int) else scaleTo Q m e
  let n := x / 2 ^ Q
  let f := (x - n * 2 ^ Q).toNat
  let y := expFrom Q (f * ln2Fix Q / 2 ^ Q) (Q / 2 + 8) (2 ^ Q) 1
  ⟨y, (Q : Int) - n |>.toNat, 16 * Q + 64⟩

/-- log2 of m·2^e, not a power of two. -/
def log2Fix (m : Nat) (e : Int) (P : Nat) : Fix :=
  let Q := P + 32
  let b := bitLen m
  let n : Int := (b : Int) - 1 + e
  -- significand in [1, 2), scaled
  let z := (m - 2 ^ (b - 1)) * 2 ^ Q / (m + 2 ^ (b - 1))
  let ln := 2 * atanhFrom Q (z * z / 2 ^ Q) (Q / 3 + 4) z 1
  let y := ln * 2 ^ Q / ln2Fix Q
  ⟨n * 2 ^ Q + (y : Int), Q, 64 * Q + 256⟩

/-- sin or cos of a nonzero x = ±m·2^e, reduced exactly. -/
def trigFix (cos neg : Bool) (m : Nat) (e : Int) (P : Nat) : Fix :=
  let Q := P + 160
  let x := scaleTo Q m e
  let h := piFix (Q + 8) / 2 ^ 9
  let q := x / h
  let r := x - q * h
  let quad := (q + if cos then 1 else 0) % 4
  let r2 := r * r / 2 ^ Q
  let y := if quad % 2 = 0 then altFrom Q r2 (Q / 2 + 8) r 2 true else altFrom Q r2 (Q / 2 + 8) (2 ^ Q) 1 true
  let y := if quad < 2 then y else -y
  let y := if neg && !cos then -y else y
  ⟨y, Q, (q + 1) * (Q / 32 + 4) + 16 * Q + 64⟩

end Sys2Proof.Machine
end

