-- ==== Sys2Proof/Machine/Mem.lean ====
section
/-! DEFINITION. The memory hierarchy (R208 to R222, R437 to R443): home slices, L1 lines with scope tags, translation,
scratchpad, and the host event ring (R476). -/

namespace Sys2Proof.Machine

/-- A cause code with the word TINFO holds for it. -/
abbrev Bad := BitVec 8 × Word64

def bitOf (n i : Nat) : Bool := n / 2 ^ i % 2 = 1

/-! ### The host event ring (R476) -/

/-- The 64 bytes of an event record. -/
def eventRecord (s : State) (cause ocause : BitVec 8) (core slot flg : Nat) (addr info : Word64) (asids : List Nat) :
    List Byte :=
  [cause, ocause, BitVec.ofNat 8 core, BitVec.ofNat 8 slot, BitVec.ofNat 8 flg, 0, 0, 0] ++ leBytes s.tick.toNat 8 ++
    leBytes addr.toNat 8 ++ leBytes info.toNat 8 ++
    ((List.range 16).map fun i => leBytes (match asids[i]? with | some a => a + 32768 | none => 0) 2).flatten

/-- Report a cause to the host (R476): write the next record, or count it lost. -/
def pushEvent (s : State) (cause ocause : BitVec 8) (core slot flg : Nat) (addr info : Word64) (asids : List Nat) : State :=
  let base := s.dev.evRing.toNat / 2 ^ 12 % 2 ^ 40
  let size := 2 ^ (s.dev.evRing.toNat % 16 + 4)
  if base = 0 ∨ (s.dev.evHead - s.dev.evTail).toNat = size then
    { s with dev := { s.dev with
        evLost := if s.dev.evLost = BitVec.allOnes 32 then s.dev.evLost else s.dev.evLost + 1 } }
  else
    { s with
      hostMem := Memory.writeBytes s.hostMem (base * 2 ^ 12 + 64 * (s.dev.evHead.toNat % size))
        (eventRecord s cause ocause core slot flg addr info asids)
      dev := { s.dev with evHead := s.dev.evHead + 1 } }

/-- An event of a unit with no wave and no ASID list. -/
def hostEvent (s : State) (cause : BitVec 8) (core slot : Nat) (addr info : Word64) : State :=
  pushEvent s cause 0 core slot 0 addr info []

/-! ### Home slices -/

def lineNo (pa : Nat) : Nat := pa / 64

/-- The first address that is not device memory (R217): 1,536 GiB. -/
def deviceEnd : Nat := 1536 * 2 ^ 30

/-- The memory stack that holds a device address under the map in force, if any (R217). -/
def stackOf (s : State) (pa : Nat) : Option Nat :=
  if pa < deviceEnd then
    match s.dev.amMap with
    | none => some (pa / 2 ^ 30 / 64)
    | some m =>
      let e := (m.getD (pa / 2 ^ 30) 0).toNat
      if bitOf e 15 then some (e % 32) else none
  else none

/-- The address reaches a stack in service (R217, R487). -/
def reaches (s : State) (pa : Nat) : Bool :=
  match stackOf s pa with
  | some k => !(s.tower (k / 6)).gone
  | none => false

/-- A read of the line gives cause 42: no stack, or data lost and not yet written over (R217, R443, R486). -/
def lineBad (s : State) (pa : Nat) : Bool := !reaches s pa || (s.line (lineNo pa)).unwritten ≠ 0

/-- The home slice with every tower in service (R216). -/
def slice0 (pa : Nat) : Nat :=
  (pa / 2 ^ 6 % 256) ^^^ (pa / 2 ^ 14 % 256) ^^^ (pa / 2 ^ 22 % 256) ^^^ (pa / 2 ^ 30 % 256) ^^^ (pa / 2 ^ 38 % 256) ^^^
    (pa / 2 ^ 46 % 64)

def goneAt (s : State) (t : Nat) : Bool := (s.tower t).gone

/-- The slice a line moves to when its own tower is out (R489). -/
def reducedSlice (s : State) (pa : Nat) : Nat :=
  let inService := (List.range 4).filter fun t => !goneAt s t && !(s.tower t).sweep
  match inService[pa / 64 % inService.length]? with
  | some u => 64 * u + slice0 pa % 64
  | none => slice0 pa

/-- The home slice of a line as the towers stand (R216, R489). -/
def homeSlice (s : State) (pa : Nat) : Nat :=
  let h := slice0 pa
  let t := s.tower (h / 64)
  if t.gone then reducedSlice s pa
  else if t.sweep && pa / 2 ^ 6 % 2048 < NMap.getD t.sweepPtr h 0 then reducedSlice s pa
  else h

/-- Waves parked in JOINW on a word that now reads zero have their condition met (R375). -/
def wakeJoins (s : State) (ln : Nat) : State :=
  if s.waves.any fun c => match c.2.joinAddr with
      | some (pa, _) => lineNo pa = ln && !c.2.joinZero
      | none => false
  then
    { s with waves := NMap.mapVal s.waves fun _ w => match w.joinAddr with
        | some (pa, _) => if lineNo pa = ln ∧ Memory.readNat s.mem pa 8 = 0 then { w with joinZero := true } else w
        | none => w }
  else s

/-- A store to a line that a spinning split watches clears its group's mark (R174). -/
def spinStore (s : State) (ln : Nat) : State :=
  if s.groups.any fun c => c.2.lowered && c.2.spinLines.contains ln then
    { s with groups := NMap.mapVal s.groups fun _ g => if g.spinLines.contains ln then { g with lowered := false } else g }
  else s

/-- An Open transaction that has the line in its sets. -/
def Tx.holdsLine (t : Tx) (key : Nat) : Bool := t.st = .open_ && (t.wlines.contains key || (NMap.get? t.reads key).isSome)

/-- A write is performed on a line that Open transactions have in their sets: each is aborted at once, or left to TXE (R197),
as the free choice of its place in `n` says. -/
def Wave.touchTx (w : Wave) (key n : Nat) : Wave :=
  { w with tx := NMap.mapVal w.tx fun l t => if t.holdsLine key && Config.choose (n + l) then { t with st := .doomed 1 0 } else t }

/-- A write by an agent meets the Open transactions of the device (R197). -/
def touchTx (s : State) (key : Nat) : State :=
  if s.waves.any fun w => w.2.tx.any fun t => t.2.holdsLine key then
    { s with waves := NMap.mapVal s.waves fun i w => w.touchTx key (s.free + 32 * i)
             free := s.free + 32 * (s.waves.foldl (fun m w => max m w.1) 0 + 1) }
  else s

/-- A store, atomic, fill or reset is performed on a line: spin marks and transactions hear of it (R174, R197). -/
def noteStore (s : State) (ln : Nat) : State := touchTx (spinStore s ln) ln

/-- The 8-byte words of memory that a range of bytes touches, with what they hold. -/
def wordsAt (m : Memory) (a n : Nat) : List (Nat × Word64) :=
  (List.range ((a % 8 + n + 7) / 8)).map fun i => (a / 8 * 8 + 8 * i, BitVec.ofNat 64 (Memory.readNat m (a / 8 * 8 + 8 * i) 8))

/-- The bytes of a poisoned or lost line that a write covers are written since (R443, R486). -/
def clearPoison (s : State) (pa n : Nat) : State :=
  let ln := lineNo pa
  let i := s.line ln
  if i.unwritten = 0 then s
  else
    let u := i.unwritten &&& ~~~(BitVec.ofNat 64 ((2 ^ n - 1) * 2 ^ (pa % 64)))
    s.modLine ln fun i => if u = 0 then { i with unwritten := 0, poisonPt := false, asids := [], asidOvf := false }
      else { i with unwritten := u }

/-- Put bytes at the home slice, within one line. -/
def putHome (s : State) (pa : Nat) (bs : List Byte) : State :=
  clearPoison { s with mem := Memory.writeBytes s.mem pa bs, oldWords := wordsAt s.mem pa bs.length ++ s.oldWords } pa bs.length

/-- Perform a write at the home slice, within one line. -/
def homeWrite (s : State) (pa : Nat) (bs : List Byte) : State := noteStore (wakeJoins (putHome s pa bs) (lineNo pa)) (lineNo pa)

/-! ### L1 lines -/

def L1Line.isDirty (l : L1Line) : Bool := l.dirty ≠ 0

/-- The dirty bytes of a line, by offset. -/
def L1Line.dirtyBytes (l : L1Line) : List (Nat × Byte) := l.data.filter fun c => l.dirty.getLsbD c.1

/-- Put the dirty bytes of a line at its home slice, as one write. -/
def flushBytes (s : State) (ln : Nat) (bs : List (Nat × Byte)) : State :=
  wakeJoins (bs.foldl (fun s x => putHome s (64 * ln + x.1) [x.2]) s) ln

def State.l1 (s : State) (c : Nat) : List L1Line := (s.core c).l1
def State.setL1 (s : State) (c : Nat) (l : List L1Line) : State := s.modCore c fun k => { k with l1 := l }

def findLine (ls : List L1Line) (ln : Nat) : Option L1Line := ls.find? fun l => l.line = ln

def putLine (ls : List L1Line) (l : L1Line) : List L1Line := l :: ls.filter fun x => x.line ≠ l.line

def dropLine (ls : List L1Line) (ln : Nat) : List L1Line := ls.filter fun x => x.line ≠ ln

/-- The lines an L1 has room for: those of the banks from b up that are not gated (R208, R209). -/
def l1Room (s : State) (c : Nat) : Nat :=
  1024 * ((List.range 8).filter fun i => (s.core c).scratchBanks ≤ i && !(s.core c).bankGated.getLsbD i).length

/-- The clean line to be replaced: by its mark (R186), then the one used longest ago.
DESIGN CHOICE, safe: log entry 60. -/
def victim (ls : List L1Line) : Option L1Line :=
  let clean := ls.filter fun l => !l.isDirty
  [0, 1, 2].findSome? fun k => (clean.filter fun l => l.mark = k).getLast?

/-- Put a line into an L1, in the place of a clean one where it is full; none where every other line is dirty. -/
def seatLine (ls : List L1Line) (room : Nat) (l : L1Line) : Option (List L1Line) :=
  let rest := dropLine ls l.line
  if rest.length < room then some (l :: rest)
  else if room = 0 then none
  else (victim rest).map fun v => l :: dropLine rest v.line

/-- Write one dirty line of a core back; it stays, clean. -/
def writeBack (s : State) (c : Nat) (l : L1Line) : State :=
  (flushBytes s l.line l.dirtyBytes).setL1 c (putLine (s.l1 c) { l with dirty := 0 })

/-- The dirty lines of a cluster with their cores, in the order of the last store to each (R213). -/
def dirtyLines (s : State) (k : Nat) : List (Nat × L1Line) :=
  sortBy (fun a b => a.2.seq ≤ b.2.seq)
    ((clusterCores k).flatMap fun c => ((s.l1 c).filter L1Line.isDirty).map fun l => (c, l))

def writeBackAll (s : State) : List (Nat × L1Line) → State
  | [] => s
  | (c, l) :: ls => writeBackAll (writeBack s c l) ls

/-- The DEVICE write-back of a cluster (R214); the slices' records of it end (R215). -/
def releaseDevice (s : State) (k : Nat) : State :=
  let s := writeBackAll s (dirtyLines s k)
  if s.lines.any fun c => c.2.writers.contains k then
    { s with lines := NMap.mapVal s.lines fun _ i => { i with writers := i.writers.filter (· ≠ k) } }
  else s

/-- The DEVICE acquire of a core (R214): its clean lines go, and the clean bytes of dirty lines of the cluster. -/
def acquireDevice (s : State) (c : Nat) : State :=
  (clusterCores (clusterOf c)).foldl (fun s d =>
    if (s.l1 d).isEmpty then s
    else
      let keep := if d = c then (s.l1 d).filter L1Line.isDirty else s.l1 d
      s.setL1 d (keep.map fun l => if l.isDirty then { l with data := l.dirtyBytes } else l)) s

/-- Write back the copies of one line that are dirty in a cluster: the recall of R215. -/
def recallLine (s : State) (k ln : Nat) : State :=
  writeBackAll s ((dirtyLines s k).filter fun x => x.2.line = ln)

/-- A cluster writes back its own dirty copy of a line, after the lines stored to before it (R213). -/
def writeBackTo (s : State) (k ln : Nat) : State :=
  match (dirtyLines s k).find? fun x => x.2.line = ln with
  | some x => writeBackAll s ((dirtyLines s k).filter fun y => y.2.seq ≤ x.2.seq)
  | none => s

/-- A line's dirty copies in the clusters recorded for it, but the requesting one: by recall, or by promotion (R215). -/
def settleOthers (s : State) (k ln : Nat) (promote : Bool) : State :=
  ((s.line ln).writers.filter (· ≠ k)).foldl (fun s j => if promote then releaseDevice s j else recallLine s j ln) s

/-- Before the home slice serves an atomic, a futures request or an acquire read of a line: the requesting cluster's
dirty copy is written back, and other clusters' by recall or promotion (R214, R215). -/
def settleLine (s : State) (k ln : Nat) (promote : Bool) : State := settleOthers (writeBackTo s k ln) k ln promote

/-- Record that a cluster has written a line at a scope narrower than DEVICE (R215). -/
def noteWriter (s : State) (k ln : Nat) : State :=
  s.modLine ln fun i => { i with writers := if i.writers.contains k then i.writers else k :: i.writers }

/-- A line's dirty copy in another L1 of the cluster: its core and itself. -/
def dirtyElsewhere (s : State) (c ln : Nat) : Option (Nat × L1Line) :=
  ((clusterCores (clusterOf c)).filter (· ≠ c)).findSome? fun d =>
    ((findLine (s.l1 d) ln).filter L1Line.isDirty).map fun l => (d, l)

/-- A core takes a line that is dirty elsewhere in its cluster, with its dirty bytes and tag (R213); a clean byte is fetched
anew, so that none comes which an acquire has made stale (R214, R229). -/
def takeLine (s : State) (c ln : Nat) : State :=
  match dirtyElsewhere s c ln with
  | some (d, l) =>
    match seatLine (s.l1 c) (l1Room s c) { l with data := l.dirtyBytes } with
    | some ls => (s.setL1 d (dropLine (s.l1 d) ln)).setL1 c ls
    | none => s
  | none => s

/-- The 64 bytes of a line at its home slice. -/
def homeLine (s : State) (ln : Nat) : List Byte := Memory.readBytes s.mem (64 * ln) 64

/-- The bytes of a line with those missing filled from its home. -/
def L1Line.fill (l : L1Line) (home : List Byte) : L1Line :=
  { l with data := (List.range 64).map fun o => (o, (NMap.get? l.data o).getD (home.getD o 0)) }

/-- The line with its clean bytes fetched again. -/
def L1Line.refetch (l : L1Line) (home : List Byte) : L1Line := { l with data := l.dirtyBytes }.fill home

/-- The line with the mark a hint leaves (R186). -/
def L1Line.marked (l : L1Line) (mark : Option Nat) : L1Line := { l with mark := mark.getD l.mark }

/-- Bring a line into a core's L1, from a dirty copy of the cluster or from its home, and give its bytes; where the L1 has no
room beside its dirty lines, the bytes are read past it. Whether a clean copy that differs from its home is still there is
open, since it may have been replaced (R208): a free choice. -/
def loadLine (s : State) (c ln : Nat) (mark : Option Nat := none) : State × L1Line :=
  let s := takeLine s c ln
  let home := homeLine s ln
  match findLine (s.l1 c) ln with
  | some l =>
    let full := (l.fill home).marked mark
    let fresh := (l.refetch home).marked mark
    if full = fresh then (s.setL1 c (putLine (s.l1 c) full), full)
    else
      let (b, s) := s.choose
      let x := if b then fresh else full
      (s.setL1 c (putLine (s.l1 c) x), x)
  | none =>
    match dirtyElsewhere s c ln with
    | some (_, l) => (s, l.refetch home)
    | none =>
      let x := (L1Line.fill { line := ln, data := [] } home).marked mark
      match seatLine (s.l1 c) (l1Room s c) x with
      | some ls => (s.setL1 c ls, x)
      | none => (s, x)

def L1Line.bytes (l : L1Line) (o n : Nat) : List Byte := (List.range n).map fun i => NMap.getD l.data (o + i) 0

/-- Read bytes of one line through the core's L1. -/
def cachedRead (s : State) (c pa n : Nat) (mark : Option Nat := none) : List Byte × State :=
  let r := loadLine s c (lineNo pa) mark
  (r.2.bytes (pa % 64) n, r.1)

def L1Line.put (l : L1Line) (o : Nat) : List Byte → L1Line
  | [] => l
  | b :: bs => L1Line.put { l with data := NMap.set l.data o b, dirty := l.dirty ||| BitVec.ofNat 64 (2 ^ o) } (o + 1) bs

def Scope.wide : Scope → Bool
  | .device | .system => true
  | _ => false

/-- Drop every copy of a line in a cluster's L1s. -/
def dropCopies (s : State) (k ln : Nat) : State :=
  (clusterCores k).foldl (fun s d =>
    if (findLine (s.l1 d) ln).isSome then s.setL1 d (dropLine (s.l1 d) ln) else s) s

/-- Store bytes of one line at its home slice (R186), after the lines that the cluster stored to before; a store narrower than
DEVICE leaves its record (R215). -/
def homeStore (s : State) (c pa : Nat) (bs : List Byte) (scope : Scope) : State :=
  let k := clusterOf c
  let s := homeWrite (dropCopies (writeBackAll s (dirtyLines s k)) k (lineNo pa)) pa bs
  if Scope.wide scope then s else noteWriter s k (lineNo pa)

/-- Make room in a core's L1 for a line: where every line is dirty, the cluster writes its dirty lines back (R213). -/
def makeRoom (s : State) (c ln : Nat) : State :=
  if (seatLine (s.l1 c) (l1Room s c) { line := ln, data := [] }).isSome then s
  else writeBackAll s (dirtyLines s (clusterOf c))

/-- Store bytes of one line through the core's L1 at a scope (R213). -/
def cachedWrite (s : State) (c pa : Nat) (bs : List Byte) (scope : Scope) (mark : Option Nat := none) : State :=
  let ln := lineNo pa
  let k := clusterOf c
  let s := takeLine (makeRoom s c ln) c ln
  let s := ((clusterCores k).filter (· ≠ c)).foldl (fun s d =>
    if (findLine (s.l1 d) ln).isSome then s.setL1 d (dropLine (s.l1 d) ln) else s) s
  let l := (findLine (s.l1 c) ln).getD { line := ln, data := [] }
  let l := { (l.put (pa % 64) bs).marked mark with tag := scope, seq := s.stamp }
  match seatLine (s.l1 c) (l1Room s c) l with
  | none => homeStore s c pa bs scope
  | some ls =>
    let s := noteStore (s.setL1 c ls).bump ln
    if Scope.wide scope then writeBackAll s (dirtyLines s k) else noteWriter s k ln

/-! ### Scratchpad (R181, R210, R211) -/

/-- The group of a gang that a scratchpad address names, and the offset (R181). -/
def scratchTarget (s : State) (gang : Nat) (a : Word64) : Option (Nat × Nat) :=
  match s.gang? gang with
  | none => none
  | some g => match g.groups[a.toNat / 2 ^ 19 % 4]? with
    | some gr => some (gr, a.toNat % 2 ^ 19)
    | none => none

/-- Check 3 of R182 for the scratchpad space: the address lies within the addressed group's allocation. -/
def scratchOk (s : State) (gang : Nat) (a : Word64) (n : Nat) : Bool :=
  a.toNat < 2 ^ 21 &&
    match scratchTarget s gang a with
    | some (gr, off) => off + n ≤ (s.group gr).scratchSize
    | none => false

def scratchRead (s : State) (gang : Nat) (a : Word64) (n : Nat) : List Byte :=
  match scratchTarget s gang a with
  | some (gr, off) => Memory.readBytes (s.group gr).scratch off n
  | none => List.replicate n 0

def scratchWrite (s : State) (gang : Nat) (a : Word64) (bs : List Byte) : State :=
  match scratchTarget s gang a with
  | some (gr, off) => s.modGroup gr fun g => { g with scratch := Memory.writeBytes g.scratch off bs }
  | none => s

/-! ### Translation (R437 to R443) -/

/-- What an access needs of its page (R440). -/
inductive Need where
  | read | write | both | exec
  deriving DecidableEq, Repr

/-- The word of causes 32 to 38: [0] fetch, [13:2] ASID. -/
def walkInfo (asid : Nat) (need : Need) : Nat := (if need = .exec then 1 else 0) + 4 * asid

/-- A walk of this ASID has faulted on a poisoned line: the host hears of each ASID that joins the list (R443). -/
def joinPoison (s : State) (ln asid : Nat) : State :=
  let i := s.line ln
  if i.asids.contains asid then s
  else
    let i := if i.asids.length < 16 then { i with asids := i.asids ++ [asid] } else { i with asidOvf := true }
    let s := s.modLine ln fun _ => i
    pushEvent s 37 0 0 0xFF (bit i.asidOvf) (BitVec.ofNat 64 (64 * ln)) (BitVec.ofNat 64 (ln * 2 ^ 20)) i.asids

/-- A walker meets an uncorrectable error in a line and poisons it (R443). -/
def poisonWalk (s : State) (ln asid : Nat) : State :=
  let s := s.modLine ln fun i => { i with unwritten := BitVec.allOnes 64, poisonPt := true, asids := [], asidOvf := false }
  joinPoison (s.modDev fun d => { d with ptpLine := BitVec.ofNat 64 (64 * ln) }) ln asid

/-- Read one 8-byte table entry at its home slice, or the cause that stops the walk. -/
def readEntry (s : State) (pa asid : Nat) (need : Need) : State × Except Bad Nat :=
  let ln := lineNo pa
  let i := s.line ln
  if !reaches s pa then (s, .error (42, 0))
  else if i.unwritten ≠ 0 then
    ((if i.poisonPt then joinPoison s ln asid else poisonWalk s ln asid),
      .error (37, BitVec.ofNat 64 (walkInfo asid need + ln * 2 ^ 20)))
  else (s, .ok (Memory.readNat s.mem pa 8))

/-- Continue a walk from a table, over the levels that remain: (level, shift of its index, its entry count). -/
def walkFrom (s : State) (asid va : Nat) (need : Need) (table : Nat) : List (Nat × Nat × Nat) → State × Except Bad TlbEntry
  | [] => (s, .error (36, BitVec.ofNat 64 (walkInfo asid need)))
  | (lvl, sh, cnt) :: rest =>
    match readEntry s (table + 8 * (va / 2 ^ sh % cnt)) asid need with
    | (s, .error b) => (s, .error b)
    | (s, .ok e) =>
      let leaf := bitOf e 2
      let bad := e / 2 ^ 52 ≠ 0 ∨ e / 2 ^ 7 % 32 ≠ 0 ∨ bitOf e 1 ∨ (leaf ∧ lvl = 1) ∨ (¬leaf ∧ lvl = 4) ∨
        (leaf ∧ e / 2 ^ 12 * 2 ^ 12 % 2 ^ sh ≠ 0)
      if !bitOf e 0 then (s, .error (32, BitVec.ofNat 64 (walkInfo asid need)))
      else if bad then (s, .error (36, BitVec.ofNat 64 (walkInfo asid need + (lvl - 1) * 2 ^ 16)))
      else if leaf then
        (s, .ok { asid := asid, va := va / 2 ^ sh * 2 ^ sh, size := 2 ^ sh, pa := e / 2 ^ 12 % 2 ^ 40 * 2 ^ 12,
                  r := bitOf e 3, w := bitOf e 4, x := bitOf e 5, host := bitOf e 6 })
      else walkFrom s asid va need (e / 2 ^ 12 % 2 ^ 40 * 2 ^ 12) rest

def walkLevels : List (Nat × Nat × Nat) := [(1, 39, 512), (2, 30, 512), (3, 21, 512), (4, 16, 32)]

/-- A whole walk (R437, R438). -/
def walk (s : State) (asid va : Nat) (need : Need) : State × Except Bad TlbEntry :=
  match readEntry s (s.dev.astBase.toNat + 8 * asid) asid need with
  | (s, .error b) => (s, .error b)
  | (s, .ok e) =>
    if !bitOf e 0 ∨ e / 2 ^ 52 ≠ 0 ∨ e / 2 % 2 ^ 11 ≠ 0 then (s, .error (38, BitVec.ofNat 64 (walkInfo asid need)))
    else walkFrom s asid va need (e / 2 ^ 12 * 2 ^ 12) walkLevels

def TlbEntry.covers (e : TlbEntry) (asid va : Nat) : Bool := e.asid = asid && e.va ≤ va && va < e.va + e.size

def tlbFind (es : List TlbEntry) (asid va : Nat) : Option TlbEntry := es.find? fun e => e.covers asid va

/-- The translation of a page as a core has it: its own TLB, its cluster's, or a walk that fills both (R441). -/
def lookup (s : State) (c asid va : Nat) (need : Need) : State × Except Bad TlbEntry :=
  match tlbFind (s.core c).tlb asid va with
  | some e => (s, .ok e)
  | none =>
    match tlbFind (s.cluster (clusterOf c)).tlb asid va with
    | some e => (s.modCore c fun k => { k with tlb := e :: k.tlb }, .ok e)
    | none =>
      match walk s asid va need with
      | (s, .error b) => (s, .error b)
      | (s, .ok e) =>
        ((s.modCore c fun k => { k with tlb := e :: k.tlb }).modCluster (clusterOf c) fun k => { k with tlb := e :: k.tlb },
          .ok e)

/-- The permission an access lacks, if any (R440): causes 33 to 35. -/
def TlbEntry.denies (e : TlbEntry) : Need → Option (BitVec 8)
  | .read => if e.r then none else some 33
  | .write => if e.w then none else some 34
  | .both => if e.r then (if e.w then none else some 34) else some 33
  | .exec => if e.x then none else some 35

/-- A physical address with its page's HOST bit (R439). -/
structure Phys where
  pa : Nat
  host : Bool
  deriving DecidableEq, Repr

/-- Bit [51]: memory of another device (R449). -/
def Phys.remote (p : Phys) : Bool := !p.host && 2 ^ 51 ≤ p.pa

/-- Translate an address and check its permission. -/
def translate (s : State) (c asid va : Nat) (need : Need) : State × Except Bad Phys :=
  match lookup s c asid va need with
  | (s, .error b) => (s, .error b)
  | (s, .ok e) =>
    match e.denies need with
    | some cause => (s, .error (cause, BitVec.ofNat 64 (walkInfo asid need)))
    | none => (s, .ok ⟨e.pa + (va - e.va), e.host⟩)

/-- An address of 2^48 or more never reaches translation; engines check it with cause 39. -/
def vaOk (a n : Nat) : Bool := a + n ≤ 2 ^ 48

/-- Read bytes of one naturally aligned access at a physical place: host memory, or device memory through L1. -/
def physRead (s : State) (c : Nat) (p : Phys) (n : Nat) (mark : Option Nat := none) : State × Except Bad (List Byte) :=
  if p.host then (s, .ok (Memory.readBytes s.hostMem p.pa n))
  else if p.remote then (s, .error (46, 0))
  else if lineBad s p.pa then (s, .error (42, 0))
  else
    let (bs, s) := cachedRead s c p.pa n mark
    (s, .ok bs)

/-- Put bytes into host memory; transactions hear of it (R197). -/
def hostPut (s : State) (pa : Nat) (bs : List Byte) : State :=
  touchTx { s with hostMem := Memory.writeBytes s.hostMem pa bs } (lineNo pa + 2 ^ 60)

/-- Write bytes to host memory, after the lines that the cluster stored to before (R225). -/
def hostStore (s : State) (c pa : Nat) (bs : List Byte) : State :=
  hostPut (writeBackAll s (dirtyLines s (clusterOf c))) pa bs

/-- Write bytes of one naturally aligned access at a physical place. -/
def physWrite (s : State) (c : Nat) (p : Phys) (bs : List Byte) (scope : Scope) (mark : Option Nat := none) :
    State × Except Bad Unit :=
  if p.host then (hostStore s c p.pa bs, .ok ())
  else if p.remote then (s, .error (46, 0))
  else if !reaches s p.pa then (s, .error (42, 0))
  else (cachedWrite s c p.pa bs scope mark, .ok ())

/-- Read `n` bytes within a line at a virtual address, as an engine of the core does. -/
def virtRead (s : State) (c asid va n : Nat) : State × Except Bad (List Byte) :=
  if !vaOk va n then (s, .error (39, 0))
  else
    match translate s c asid va .read with
    | (s, .error b) => (s, .error b)
    | (s, .ok p) => physRead s c p n

/-- Write bytes within a line at a virtual address, as an engine of the core does. -/
def virtWrite (s : State) (c asid va : Nat) (bs : List Byte) (scope : Scope) : State × Except Bad Unit :=
  if !vaOk va bs.length then (s, .error (39, 0))
  else
    match translate s c asid va .write with
    | (s, .error b) => (s, .error b)
    | (s, .ok p) => physWrite s c p bs scope

/-- Read a run of `cnt` 8-byte words from an 8-byte aligned virtual address. -/
def virtReadWords (s : State) (c asid va : Nat) : Nat → State × Except (Bad × Nat) (List Byte)
  | 0 => (s, .ok [])
  | cnt + 1 =>
    match virtRead s c asid va 8 with
    | (s, .error b) => (s, .error (b, va))
    | (s, .ok bs) =>
      match virtReadWords s c asid (va + 8) cnt with
      | (s, .error b) => (s, .error b)
      | (s, .ok rest) => (s, .ok (bs ++ rest))

/-- A byte range cut at line boundaries: address and length of each piece, ascending. -/
def linePieces (a n : Nat) : List (Nat × Nat) :=
  if n = 0 then []
  else (List.range ((a + n - 1) / 64 - a / 64 + 1)).map fun i =>
    let lo := max a (64 * (a / 64 + i))
    (lo, min (a + n) (64 * (a / 64 + i + 1)) - lo)

/-- Read a virtual range as an engine of the core does; the first failing piece stops it. -/
def engineRead (s : State) (c asid a n : Nat) : State × Except (Bad × Nat) (List Byte) :=
  (linePieces a n).foldl (fun r x =>
    match r with
    | (s, .error e) => (s, .error e)
    | (s, .ok bs) =>
      match virtRead s c asid x.1 x.2 with
      | (s, .error b) => (s, .error (b, x.1))
      | (s, .ok more) => (s, .ok (bs ++ more))) (s, .ok [])

/-- Write a virtual range as an engine of the core does; the first failing piece stops it, and what stands before it
stays written. -/
def engineWrite (s : State) (c asid a : Nat) (bs : List Byte) (scope : Scope) : State × Option (Bad × Nat) :=
  (linePieces a bs.length).foldl (fun r x =>
    match r with
    | (s, some e) => (s, some e)
    | (s, none) =>
      match virtWrite s c asid x.1 ((bs.drop (x.1 - a)).take x.2) scope with
      | (s, .error b) => (s, some (b, x.1))
      | (s, .ok _) => (s, none)) (s, none)

/-- The first address of a virtual range that an engine's write would fail at, with its cause; none when it fits. -/
def writeLimit (s : State) (c asid a n : Nat) : State × Option (Bad × Nat) :=
  if n = 0 then (s, none)
  else (List.range ((a + n - 1) / 65536 - a / 65536 + 1)).foldl (fun r i =>
    match r with
    | (s, some e) => (s, some e)
    | (s, none) =>
      let va := max a (65536 * (a / 65536 + i))
      match (if vaOk va 1 then translate s c asid va .write else (s, .error (39, 0))) with
      | (s, .error b) => (s, some (b, va))
      | (s, .ok p) =>
        if p.host then (s, none)
        else if p.remote then (s, some ((46, 0), va))
        else if !reaches s p.pa then (s, some ((42, 0), va))
        else (s, none)) (s, none)

/-! ### Code words (R55, R238) -/

/-- The 8,192 words of the instruction cache (R208): the word fetched now stands first, and the one fetched longest ago goes. -/
def keepCode (s : State) (c asid va : Nat) (w : Word64) : State :=
  s.modCore c fun k => { k with icache := (⟨asid, va, w⟩ :: k.icache.filter fun e => !(e.asid = asid && e.va = va)).take 8192 }

/-- The words that a fetch of a device address may return (R238): what memory holds, what the cache holds, and what writes
have replaced since the last ICINV that reached the core. -/
def codeChoices (s : State) (c asid va pa : Nat) : List Word64 :=
  let k := s.core c
  let since := s.oldWords.take (s.oldWords.length - k.codeFrom)
  (BitVec.ofNat 64 (Memory.readNat s.mem pa 8) :: ((k.icache.filter fun e => e.asid = asid && e.va = va).map (·.word) ++
    (since.filter fun x => x.1 = pa).map (·.2))).dedup

/-- Fetch a code word through the core's instruction cache. Of several words that R238 allows it returns a free choice, each
time anew; a word of host memory is never cached (R208). -/
def fetchWord (s : State) (c asid va : Nat) : State × Except Bad Word64 :=
  match translate s c asid va .exec with
  | (s, .error b) => (s, .error b)
  | (s, .ok p) =>
    if p.remote then (s, .error (46, 0))
    else if !p.host && lineBad s p.pa then (s, .error (42, 0))
    else if p.host then (s, .ok (BitVec.ofNat 64 (Memory.readNat s.hostMem p.pa 8)))
    else
      match codeChoices s c asid va p.pa with
      | [w] => (keepCode s c asid va w, .ok w)
      | ws =>
        let w := ws.getD (Config.pick s.free ws.length % ws.length) 0
        (keepCode { s with free := s.free + 1 } c asid va w, .ok w)

end Sys2Proof.Machine
end

