-- ==== Sys2Proof/Machine/Share.lean ====
section
/-! DEFINITION. The shared objects of the engines (R13 to R35): tokens, late faults, counted barriers, range locks, and
the ending of waves, helper lanes and grids. -/

namespace Sys2Proof.Machine

/-! ### Tokens and late faults -/

/-- A wave that has not ended. -/
def Wave.alive (w : Wave) : Bool := w.place ≠ .ended && w.place ≠ .damaged

/-- Make a token Pending (R13). -/
def pendToken (s : State) (w : Nat) (n : Nat) : State := s.modWave w fun x => x.setS n Scalar.pend

/-- A late fault waits for its wave's next reporting point (R420). -/
def addFault (s : State) (w : Nat) (f : LateFault) : State := s.modWave w fun x => { x with faults := x.faults ++ [f] }

/-! ### Counted barriers (R24 to R29) -/

/-- Run the loop of R26 on a barrier. -/
def Barrier.settle (b : Barrier) : Barrier :=
  if b.target = 0 then b
  else { b with count := BitVec.ofNat 16 (b.count.toNat % b.target.toNat),
                gen := b.gen + BitVec.ofNat 32 (b.count.toNat / b.target.toNat) }

/-- An arrival of n at an armed barrier (R26); the sum is not cut to 16 bits. -/
def Barrier.arrive (b : Barrier) (n : Nat) : Barrier :=
  { b with count := BitVec.ofNat 16 ((b.count.toNat + n) % b.target.toNat),
           gen := b.gen + BitVec.ofNat 32 ((b.count.toNat + n) / b.target.toNat) }

/-- Arm a barrier (R28). -/
def Barrier.arm (b : Barrier) (t : BitVec 16) : Barrier := { b with target := t }.settle

def State.bar (s : State) (c n : Nat) : Barrier := NMap.getD (s.core c).bars n {}

def State.setBar (s : State) (c n : Nat) (b : Barrier) : State := s.modCore c fun k => { k with bars := NMap.set k.bars n b }

/-- The barrier is granted to this group on this core (R25). -/
def barGranted (s : State) (c n g : Nat) : Bool := (s.bar c n).owner = some g

/-- A completion or change in a group clears its spin mark (R174). -/
def clearSpin (s : State) (g : Nat) : State := s.modGroup g fun x => { x with lowered := false }

/-- The split of an entry spins no more: where it had marked its group, the mark goes (R174). -/
def endSpin (s : State) (wid e : Nat) : State :=
  match s.wave? wid with
  | some w =>
    let s := s.modWave wid fun w => { w with spin := NMap.erase w.spin e }
    if 64 ≤ ((NMap.get? w.spin e).map (·.count)).getD 0 then clearSpin s w.group else s
  | none => s

/-- Write a status to a token, which becomes Ready (R13, R16) and clears its group's spin mark (R174). -/
def setToken (s : State) (w : Nat) (n : Nat) (status : Nat) : State :=
  let s := s.modWave w fun x => if x.alive then x.setS n (Scalar.of (BitVec.ofNat 64 status)) else x
  match s.wave? w with
  | some x => clearSpin s x.group
  | none => s

/-- The completion of a token was a release at DEVICE or SYSTEM scope (R16). -/
def wideToken (s : State) (w n : Nat) : State :=
  s.modWave w fun x => { x with wideTok := x.wideTok ||| BitVec.ofNat 32 (2 ^ n) }

/-- Complete a token with a status; a nonzero one is also reported at EFENCE unless it is one of the three that never
are (R17). -/
def finishToken (s : State) (w : Nat) (n : Nat) (f : LateFault) (report : Bool) : State :=
  let s := setToken s w n f.cause.toNat
  if f.cause ≠ 0 && report then addFault s w f else s

/-- Make an arrival; a change of phase or an arrival clears the group's spin mark (R174). -/
def arriveAt (s : State) (c n g cnt : Nat) : State := clearSpin (s.setBar c n ((s.bar c n).arrive cnt)) g

/-! ### Range locks (R30 to R35) -/

/-- The granules of a byte range. -/
def granules (a n : Nat) : Nat × Nat := (a / 64, (a + n - 1) / 64)

def Lock.meets (l : Lock) (sp : LockSpace) (lo hi : Nat) : Bool := l.space = sp && l.lo ≤ hi && lo ≤ l.hi

/-- Entries that never stall one another: those of one operation, of one sluice program with its blocks, whose owner is the
program's token (R332), of one group's matrix queue (R259), or of one collective (R459). -/
def LockOwner.together (a b : LockOwner) : Bool :=
  a = b || match a, b with
    | .matrix g _, .matrix h _ => g = h
    | .flume c _, .flume d _ => c = d
    | .sluice _ x, .deco _ y _ | .deco _ x _, .sluice _ y | .deco _ x _, .deco _ y _ => x = y
    | _, _ => false

/-- Two locks of different operations that cannot stand together (R31). -/
def Lock.clash (a b : Lock) : Bool := !a.owner.together b.owner && a.meets b.space b.lo b.hi && (a.write || b.write)

/-- A group's retained locks are in force: its gang is on its core (R258, R261). -/
def State.retains (s : State) (g : Group) : Bool := g.live && ((s.gang? g.gang).map fun x => x.suspended.isNone).getD true

/-- A lock stands in the table of this core: the one that owns the scratchpad, or that of its group. -/
def State.tableOf (s : State) (home : Nat) (l : Lock) : Nat :=
  match l.space with
  | .scratch gr => (s.group gr).core
  | .virt _ => home

/-- The locks that count in a core's checks: its table's, and those its groups' queues retain (R258). -/
def State.locksAt (s : State) (c : Nat) : List Lock :=
  (s.core c).locks ++ s.groups.flatMap fun g =>
    if s.retains g.2 then g.2.retained.filter fun l => s.tableOf g.2.core l = c else []

/-- An operation's entries fit a core's table and meet no other operation's (R31). -/
def State.lockable (s : State) (c : Nat) (ls : List Lock) : Bool :=
  (s.core c).locks.length + ls.length ≤ 32 && !((s.locksAt c).any fun h => ls.any fun l => h.clash l)

/-- Take all of an operation's entries in one step, or none (R31). -/
def takeLocks (s : State) (c : Nat) (ls : List Lock) : Option State :=
  if s.lockable c ls then some (s.modCore c fun k => { k with locks := k.locks ++ ls }) else none

/-- Take entries in the tables of several cores, all or none (R257). -/
def takeLocksIn (s : State) (ls : List (Nat × Lock)) : Option State :=
  let of (c : Nat) : List Lock := (ls.filter fun l => l.1 = c).map (·.2)
  let cs := (ls.map (·.1)).dedup
  if cs.all fun c => s.lockable c (of c) then
    some (cs.foldl (fun s c => s.modCore c fun k => { k with locks := k.locks ++ of c }) s)
  else none

/-- A lock on a byte range. -/
def Lock.of (sp : LockSpace) (a n : Nat) (write : Bool) (o : LockOwner) : Lock :=
  { space := sp, lo := (granules a n).1, hi := (granules a n).2, write := write, owner := o }

/-- Release every entry of an owner (R34). -/
def dropLocks (s : State) (c : Nat) (o : LockOwner) : State :=
  s.modCore c fun k => { k with locks := k.locks.filter fun l => l.owner ≠ o }

/-- The first lock of a table that a wave access conflicts with (R32): loads meet write locks, stores meet either. -/
def lockConflict (ls : List Lock) (sp : LockSpace) (a n : Nat) (store : Bool) : Option Lock :=
  ls.find? fun l => l.meets sp (granules a n).1 (granules a n).2 && (l.write || store)

/-! ### Splits, records and lanes -/

/-- Lanes depart every open record that holds them (R157). -/
def NMap.depart (rs : NMap DivRecord) (m : LaneMask) : NMap DivRecord :=
  NMap.mapVal rs fun _ r => { r with member := r.member &&& ~~~m, arrived := r.arrived &&& ~~~m }

/-- A record that is complete: its members have all arrived (R156). -/
def DivRecord.complete (r : DivRecord) : Bool := r.member &&& ~~~r.arrived = 0

/-- The Confluent split of a completed record becomes Ready at its confluence. -/
def releaseConf (done : List Nat) (sp : Split) : Split :=
  match sp.state with
  | .confluent q => if done.contains q then { sp with state := .ready } else sp
  | _ => sp

/-- The lowest cache slot that no record holds (R155). -/
def freeCache (rs : NMap DivRecord) : Nat := ((List.range 15).find? fun i => rs.all fun r => r.2.slot ≠ i + 1).elim 0 (· + 1)

/-- The first 15 open records by creation order stand in cache slots; one that comes to be among them takes the lowest free
slot (R155).
DEDUCED, safe: log entry 70. -/
def recache (rs : NMap DivRecord) : NMap DivRecord :=
  (rs.take 15).foldl (fun m r => if r.2.slot = 0 then NMap.set m r.1 { r.2 with slot := freeCache m } else m) rs

/-- The CREF of a split (R120, R155): the slot of the most recent open record whose members include all of its lanes. -/
def Wave.cref (w : Wave) (m : LaneMask) : Nat :=
  ((w.recs.filter fun r => m &&& ~~~r.2.member = 0).getLast?.map (·.2.slot)).getD 0

/-- Delete the records that have completed and free the lanes that wait there (R156). -/
def Wave.settleRecs (w : Wave) : Wave :=
  let done := (w.recs.filter fun c => c.2.complete).map (·.1)
  if done = [] then w
  else { w with recs := recache (w.recs.filter fun c => !c.2.complete)
                splits := NMap.mapVal w.splits fun _ sp => releaseConf done sp
                parkedSplits := w.parkedSplits.map (releaseConf done) }

/-- Take lanes out of every split and of the issuing clause; a split left empty is gone and its entry Free. -/
def Wave.dropLanes (w : Wave) (m : LaneMask) : Wave :=
  { w with issue := w.issue.map fun i => { i with mask := i.mask &&& ~~~m }
           splits := (NMap.mapVal w.splits fun _ sp => { sp with mask := sp.mask &&& ~~~m }).filter (fun c => c.2.mask ≠ 0)
           parkedSplits := (w.parkedSplits.map fun sp => { sp with mask := sp.mask &&& ~~~m }).filter fun sp => sp.mask ≠ 0 }

/-- The lowest Free entry of the split table. -/
def freeEntry (sps : NMap Split) : Option Nat := (List.range 8).find? fun i => (NMap.get? sps i).isNone

/-- Parked splits return, oldest first, as entries free (R123). -/
def unpark (w : Wave) : List Split → Wave
  | [] => { w with parkedSplits := [] }
  | sp :: rest =>
    match freeEntry w.splits with
    | some e => unpark { w with splits := NMap.set w.splits e sp } rest
    | none => { w with parkedSplits := sp :: rest }

def Wave.unpark (w : Wave) : Wave := Machine.unpark w w.parkedSplits

/-- Add a split; a ninth parks one (R123): the lowest Confluent split, else the new split with the larger PC, where
`other` is the entry of the split it parted from. Of two with one PC, R123 names neither: the split added parks.
DESIGN CHOICE, safe: log entry 56. -/
def Wave.addSplit (w : Wave) (sp : Split) (other : Nat) : Wave :=
  match freeEntry w.splits with
  | some e => { w with splits := NMap.set w.splits e sp }
  | none =>
    match w.splits.find? fun c => match c.2.state with | .confluent _ => true | _ => false with
    | some (e, old) => { w with splits := NMap.set w.splits e sp, parkedSplits := w.parkedSplits ++ [old] }
    | none =>
      match NMap.get? w.splits other with
      | some o =>
        if sp.pc.toNat < o.pc.toNat then
          { w with splits := NMap.set w.splits other sp, parkedSplits := w.parkedSplits ++ [o] }
        else { w with parkedSplits := w.parkedSplits ++ [sp] }
      | none => { w with parkedSplits := w.parkedSplits ++ [sp] }

/-- Two splits that merge (R122): at one PC, both Ready, or both Held for the header conditions there. -/
def Split.joins (x y : Split) : Bool :=
  x.cont.isNone && y.cont.isNone && x.pc = y.pc && x.helper = y.helper && x.state = y.state && (x.state = .ready || x.state = .held .header)

/-- Put a split among others, or into a lower one that it merges with (R122). -/
def mergeOne (acc : NMap Split) (x : Nat × Split) : NMap Split :=
  match acc.find? fun y => y.2.joins x.2 with
  | some y => NMap.set acc y.1 { y.2 with mask := y.2.mask ||| x.2.mask, issued := max y.2.issued x.2.issued }
  | none => NMap.set acc x.1 x.2

def Wave.merge (w : Wave) : Wave := { w with splits := w.splits.foldl mergeOne [] }

/-- Merge the splits of a wave but one, which has just trapped (R122). -/
def Wave.mergeBut (w : Wave) (e : Nat) : Wave :=
  ({ w with splits := NMap.modify w.splits e fun sp => { sp with state := .issuing } }).merge

/-- Why a split is Held, if it is. -/
def Split.hold (sp : Split) : Option HoldWhy :=
  match sp.state with
  | .held h => some h
  | _ => none

/-- The lanes of an access not yet performed. -/
def MemOp.undone (o : MemOp) : LaneMask := o.mask &&& ~~~o.done

/-- The lanes whose program order an access that is not yet performed stands in: for the scalar unit every lane that was
active. -/
def MemOp.reach (o : MemOp) : LaneMask := if o.undone = 0 then 0 else if o.scal then o.owner else o.undone

/-- The lanes with an access that a fault keeps from being performed until it is reported (R183). -/
def Wave.faultLanes (w : Wave) : LaneMask :=
  (w.loads ++ w.stores).foldl (fun m o => if o.faulted = 0 then m else m ||| if o.scal then o.owner else o.faulted) w.heldBack

/-- Every access of these lanes is performed, but for what a fault keeps back. -/
def Wave.quiet (w : Wave) (m : LaneMask) : Bool := (w.loads ++ w.stores).all fun o => o.reach &&& m &&& ~~~w.faultLanes = 0

/-- Something of these lanes that comes before a release is not performed, and no fault keeps it back. -/
def State.owes (s : State) (wid : Nat) (m : LaneMask) : Bool := ((s.wave? wid).map fun w => !w.quiet m).getD false

/-- The accesses of one lane that were first issued before its wave's access `after` are performed, but for what a fault keeps
back. -/
def State.laneClear (s : State) (wid l after : Nat) : Bool :=
  match s.wave? wid with
  | some w => !((w.loads ++ w.stores).any fun o => o.born < after && o.reach &&& laneBit l &&& ~~~w.faultLanes ≠ 0)
  | none => true

/-- Every live lane of the wave waits at this kind of barrier (R169). -/
def Wave.arrivedAt (w : Wave) (h : HoldWhy) : Bool :=
  (w.splits.filter fun c => !c.2.helper).all (fun c => c.2.hold = some h) &&
    w.parkedSplits.all (fun sp => sp.helper || sp.hold = some h) && w.live ≠ 0

/-- The lanes that wait at a barrier become Ready. -/
def Wave.passBar (w : Wave) (h : HoldWhy) : Wave :=
  let f (sp : Split) : Split := if sp.hold = some h then { sp with state := .ready } else sp
  { w with splits := NMap.mapVal w.splits fun _ sp => f sp, parkedSplits := w.parkedSplits.map f }

/-- A wave that a BAR or GBAR counts: it has neither ended nor issued JOINW (R169). -/
def Wave.counted (w : Wave) : Bool :=
  !w.helperWave && !w.rejoined &&
    match w.place with
    | .resident .. | .evicted _ | .suspended false => true
    | .joining | .suspended true | .damaged | .ended => false

/-- Complete a barrier phase over these groups if every counted wave has arrived (R169) and its accesses, which the phase
orders, are performed (R170). -/
def checkPhase (s : State) (gs : List Nat) (h : HoldWhy) : State :=
  let ws := s.waves.filter fun c => gs.contains c.2.group && c.2.counted
  if ws ≠ [] ∧ ws.all fun c => c.2.arrivedAt h && c.2.quiet c.2.live then
    let ids := ws.map (·.1)
    let s := { s with waves := NMap.mapVal s.waves fun i w => if ids.contains i then w.passBar h else w }
    gs.foldl clearSpin s
  else s

/-- Check the BAR of a group and the GBAR of its gang after a change in its waves. -/
def checkBars (s : State) (g : Nat) : State :=
  let s := checkPhase s [g] .bar
  match s.gang? (s.group g).gang with
  | some gg => checkPhase s gg.groups .gbar
  | none => s

/-! ### Helper lanes and turnouts -/

def State.turnout (s : State) (c e : Nat) : Turnout := NMap.getD (s.core c).turnouts e {}

def State.modTurnout (s : State) (c e : Nat) (f : Turnout → Turnout) : State :=
  s.modCore c fun k => { k with turnouts := NMap.set k.turnouts e (f (s.turnout c e)) }

/-- Insert a chunk into a reclaim set, ascending. -/
def addChunk (i : Nat) (l : List Nat) : List Nat := if l.contains i then l else insertBy (fun a b => a ≤ b) i l

def HelperLane.at_ (h : HelperLane) (c e : Nat) : Bool := h.core = c && h.entry = e

/-- The helper lanes that serve a turnout: wave, lane. -/
def servers (s : State) (c e : Nat) : List (Nat × Nat) :=
  s.waves.flatMap fun w => (w.2.helpers.filter fun h => h.2.at_ c e).map fun h => (w.1, h.1)

/-- Chunks of the turnout that are Committing. -/
def committing (s : State) (c e : Nat) : Bool :=
  s.waves.any fun w => w.2.helpers.any fun h => h.2.at_ c e && h.2.phase = .committing

/-- A Releasing entry that no helper lane serves and whose chunks are all settled becomes Free (R398). -/
def settleTurnout (s : State) (c e : Nat) : State :=
  if (s.turnout c e).st = .releasing ∧ servers s c e = [] then s.modTurnout c e fun t => { t with st := .free } else s

/-- An access without some of its lanes. -/
def MemOp.dropLanes (m : LaneMask) (o : MemOp) : MemOp :=
  { o with mask := o.mask &&& ~~~m, faulted := o.faulted &&& ~~~m }

/-- A lane stops serving: its registers, predicates, records and stack are cleared (R384, R176). A split or record that it
shares with lanes still serving loses this lane only.
DESIGN CHOICE, unsafe: log entry 58. -/
def Wave.stopServing (w : Wave) (l : Nat) : Wave :=
  let m := laneBit l
  let w := w.dropLanes m
  let w := { w with
    helpers := NMap.erase w.helpers l
    v := w.v.filter (fun c => c.1 % 32 ≠ l)
    p := NMap.mapVal w.p fun _ x => x &&& ~~~m
    recs := NMap.depart w.recs m
    rets := NMap.erase w.rets l
    tx := NMap.erase w.tx l
    release := w.release &&& ~~~m
    loads := (w.loads.map (MemOp.dropLanes m)).filter fun o => o.mask ≠ 0 ∨ o.scal }
  w.settleRecs.unpark

/-- Free the slot of a wave that leaves its core. -/
def freeSlot (s : State) (c sl : Nat) : State :=
  s.modCore c fun k => { k with slots := NMap.erase k.slots sl, port := k.port.filter fun x => x.2 ≠ sl }

/-- A helper wave whose last position has stopped serving ends (R383). -/
def settleHelperWave (s : State) (w : Nat) : State :=
  match s.wave? w with
  | some x =>
    if x.helperWave ∧ x.helpers = [] then
      match x.place with
      | .resident c sl => freeSlot { s with waves := NMap.erase s.waves w } c sl
      | _ => s
    else s
  | none => s

/-- A helper lane stops serving its turnout. -/
def endServing (s : State) (w l : Nat) : State :=
  match (s.wave? w).bind fun x => NMap.get? x.helpers l with
  | some h => settleHelperWave (settleTurnout (s.modWave w fun x => x.stopServing l) h.core h.entry) w
  | none => s

def satInc (n : Nat) : Nat := if n < 65535 then n + 1 else n

/-- Discard the chunk a helper lane holds and stop it (R392); `back` puts the chunk into the reclaim set. A lane whose
chunk is Committing, or is to commit before its release (R406), is left to finish. -/
def discardChunk (s : State) (w l : Nat) (back : Bool) : State :=
  match (s.wave? w).bind fun x => NMap.get? x.helpers l with
  | some h =>
    if h.phase = .committing ∨ h.keep = true then s
    else
      let s := s.modTurnout h.core h.entry fun t =>
        let t := { t with discards := satInc t.discards }
        if back then
          { t with reclaim := addChunk h.chunk t.reclaim, st := if t.st = .draining then .open_ else t.st }
        else t
      endServing s w l
  | none => s

/-- Whether the turnout of a lane still takes its discarded chunks back: it is Open or Draining. -/
def reclaims (s : State) (w l : Nat) : Bool :=
  match (s.wave? w).bind fun x => NMap.get? x.helpers l with
  | some h => (s.turnout h.core h.entry).st = .open_ || (s.turnout h.core h.entry).st = .draining
  | none => false

/-- Abort every Open transaction of a wave (R196). -/
def Wave.abortTx (w : Wave) (code user : Nat) (m : LaneMask) : Wave :=
  { w with tx := NMap.mapVal w.tx fun l t =>
      if m.getLsbD l then { t with st := match t.st with | .open_ => .doomed code user | x => x } else t }

/-- The forced release of a helper lane aborts the Open lanes of its recruiter's wave (R196). -/
def abortRecruiter (s : State) (w l : Nat) : State :=
  match (s.wave? w).bind fun x => NMap.get? x.helpers l with
  | some h => s.modWave (s.turnout h.core h.entry).wave fun x => x.abortTx 7 0 allLanes
  | none => s

/-- Release the helper lanes of a wave that are in a mask (R394). -/
def releaseLanes (s : State) (w : Nat) (m : LaneMask) : State :=
  (lanesOf m).foldl (fun s l => discardChunk (abortRecruiter s w l) w l (reclaims s w l)) s

/-- Release helper lanes at their next clause boundary (R392): at once where their wave stands between clauses. -/
def markRelease (s : State) (ls : List (Nat × Nat)) : State :=
  ls.foldl (fun s x =>
    if ((s.wave? x.1).map fun w => w.issue.isNone).getD false then releaseLanes s x.1 (laneBit x.2)
    else s.modWave x.1 fun w => { w with release := w.release ||| laneBit x.2 }) s

/-- The turnouts that the helper lanes of a wave serve, by lane, but for chunks that are Committing: when the wave
resumes, those lanes rejoin (R395). -/
def Wave.serving (w : Wave) : NMap (Nat × BitVec 16) :=
  (w.helpers.filter fun h => h.2.phase ≠ .committing && !h.2.keep).map fun h => (h.1, (h.2.entry, h.2.gen))

/-- A lane that rejoins when its wave resumes. -/
def Wave.addRejoin (w : Wave) (r : NMap (Nat × BitVec 16)) : Wave :=
  { w with rejoin := r.foldl (fun m x => NMap.set m x.1 x.2) w.rejoin }

/-- The TINFO word of cause 112 (R429). -/
def helperInfo (iter core slot pos : Nat) : Word64 :=
  BitVec.ofNat 64 (iter % 2 ^ 32 + core % 256 * 2 ^ 32 + slot % 64 * 2 ^ 40 + pos % 32 * 2 ^ 46)

/-- One helper lane's fault (R393): its chunk is discarded for good, the first fault of the turnout is recorded, and the
other helper lanes of the turnout are to be released. -/
def helperFault (s : State) (w core slot : Nat) (hdr : VAddr) (cause : BitVec 8) (addr : Word64) (l : Nat) : State :=
  match (s.wave? w).bind fun x => NMap.get? x.helpers l with
  | some h =>
    let s := s.modTurnout h.core h.entry fun t =>
      { t with
        st := if t.st = .releasing then .releasing else .faulted
        fault := t.fault <|> some { cause := 112, ocause := cause, addr := addr, info := helperInfo h.iter core slot l,
                                    hdr := hdr } }
    let s := markRelease s ((servers s h.core h.entry).filter fun x => x ≠ (w, l))
    discardChunk s w l false
  | none => s

/-! ### Ends of waves and grids -/

/-- The quarter of a slot. -/
def quarterOf (slot : Nat) : Nat := slot / 16

/-- Add free blocks to a group's pool in the quarter of a slot (R116); pools are listed under 4·core + quarter. -/
def addBlocks (pools : NMap Nat) (c sl n : Nat) : NMap Nat :=
  NMap.set pools (4 * c + quarterOf sl) (NMap.getD pools (4 * c + quarterOf sl) 0 + n)

/-- Close the open batch of a group whose last wave has ended (R23). -/
def closeBatch (g : Group) : Group :=
  { g with batches := g.batches ++ [{ seq := g.openSeq }], openSeq := g.openSeq + 1 }

/-- Operations of a group's engines that its resources still wait for (R23, R411).
DEDUCED, unsafe: log entry 38. -/
def groupBusy (s : State) (gk : Nat) : Bool :=
  let g := s.group gk
  !g.batches.isEmpty || g.mq.any (fun e => e.state = .running) ||
    match (s.core g.core).sluice with
    | some p => p.cmd.group = some gk
    | none => false

/-- A group holds its core's resources: it is live and its gang is not suspended. -/
def holdsCore (s : State) (g : Group) : Bool :=
  g.live && ((s.gang? g.gang).map fun x => x.suspended.isNone).getD false

def coreGroups (s : State) (c : Nat) : List (Nat × Group) := s.groups.filter fun g => g.2.core = c && holdsCore s g.2

def scratchUsed (s : State) (c : Nat) : Nat := (coreGroups s c).foldl (fun n g => n + g.2.scratchSize) 0

/-- b of R209. -/
def banksFor (n : Nat) : Nat := max 2 (min 7 ((n + 65535) / 65536))

/-- Set b after a group is placed or ends; the banks that leave L1 are written back as a release at DEVICE scope would, and
emptied (R209).
DEDUCED, safe: log entry 20. -/
def setBanks (s : State) (c : Nat) : State :=
  let b := banksFor (scratchUsed s c)
  if b > (s.core c).scratchBanks then
    (releaseDevice s (clusterOf c)).modCore c fun k => { k with scratchBanks := b, l1 := [] }
  else s.modCore c fun k => { k with scratchBanks := b }

/-- Free a group's resources once its waves and operations have ended (R23, R25, R202). -/
def settleGroup (s : State) (gk : Nat) : State :=
  match s.group? gk with
  | none => s
  | some g =>
    if g.live ∧ !(s.waves.any fun c => c.2.group = gk && c.2.alive) ∧ !groupBusy s gk then
      let s := s.modCore g.core fun k => { k with
        bars := NMap.mapVal k.bars fun _ b => if b.owner = some gk then { b with owner := none } else b
        queues := NMap.mapVal k.queues fun _ q => if q.owner = some gk then {} else q }
      let s := s.modGroup gk fun g => { g with live := false, pools := [], scratch := [], tiles := [] }
      setBanks (s.modGang g.gang fun x => { x with live := x.groups.any fun k => (s.group k).live }) g.core
    else s

/-- A wave of the group has ended or is lost: a barrier phase may complete (R169), and the last one closes the open batch. -/
def quitGroup (s : State) (gk : Nat) : State :=
  let s := checkBars s gk
  let last := !(s.waves.any fun c => c.2.group = gk && c.2.alive)
  settleGroup (if last ∧ !(s.group gk).mq.isEmpty then s.modGroup gk closeBatch else s) gk

/-- A wave ends: its slot and registers go back (R116, R167), and a barrier phase may complete (R169). -/
def endWave (s : State) (w : Nat) : State :=
  match s.wave? w with
  | none => s
  | some x =>
    let s := match x.place with
      | .resident c sl =>
        (freeSlot s c sl).modGroup x.group fun g => { g with
          pools := addBlocks g.pools c sl (x.allot / 8) }
      | _ => s
    let s := releaseLanes s w (maskOf fun l => (NMap.get? x.helpers l).isSome)
    let s := s.modWave w fun x => { x with
      place := .ended, v := [], s := [], p := [], splits := [], parkedSplits := [], recs := [], issue := none,
      loads := [], faults := [], frame := {}, exited := allLanes, joinAddr := none }
    quitGroup s x.group

/-- The node whose grid a wave belongs to. -/
def nodeOfWave (s : State) (w : Nat) : Option Nat :=
  ((s.wave? w).bind fun x => s.group? x.group).bind fun g => (s.gang? g.gang).map (·.node)

def nodeOfGroup (s : State) (gk : Nat) : Option Nat :=
  (s.group? gk).bind fun g => (s.gang? g.gang).map (·.node)

/-- End a grid (R411): its waves stop at their next clause boundary, those between clauses at once; its queued sluice
commands are ended as SSTOP ends one, with cause 109 in the token only. -/
def endGrid (s : State) (n : Nat) (cause : BitVec 8) : State :=
  match s.node? n with
  | none => s
  | some nd =>
    if nd.ended then s
    else
      let s := s.modNode n fun nd => { nd with ended := true, status := if nd.status = 0 then cause.toNat else nd.status }
      let mine := (s.waves.filter fun c => nodeOfWave s c.1 = some n && c.2.alive).map (·.1)
      let s := { s with waves := NMap.mapVal s.waves fun i w => if mine.contains i then { w with endReq := some cause } else w }
      let s := { s with cores := NMap.mapVal s.cores fun _ k => { k with
        sluiceQ := k.sluiceQ.filter fun q => match q.wave with | some w => !mine.contains w | none => true } }
      mine.foldl (fun s w => match s.wave? w with
        | some x => if x.issue.isNone then endWave s w else s
        | none => s) s

end Sys2Proof.Machine
end

