-- ==== Sys2Proof/Machine/Ops.lean ====
section
/-! DEFINITION. Taking a trap (R407 to R411) and returning from one (R416), each as one operation; the charging of helper
faults (R393); and how a helper lane claims and starts a chunk (R387, R388). -/

namespace Sys2Proof.Machine

/-- What a trap names (R413, R426 to R431). -/
structure TrapInfo where
  cause : BitVec 8
  ocause : BitVec 8 := 0
  late : Bool := false
  idx : Nat := 31
  addr : Word64 := 0
  lanes : LaneMask := 0
  info : Word64 := 0
  deriving DecidableEq, Repr

/-! ### Chunks of a turnout -/

/-- The number of chunks (R379). -/
def Turnout.chunks (t : Turnout) : Nat := (t.n + t.b - 1) / t.b

/-- Claim the lowest reclaimed chunk, else the next unclaimed one (R388). -/
def Turnout.claim (t : Turnout) : Option (Nat × Turnout) :=
  let r := match t.reclaim with
    | i :: rest => some (i, { t with reclaim := rest })
    | [] => if t.next < t.chunks then some (t.next, { t with next := t.next + 1 }) else none
  r.map fun (i, t) => (i, if t.reclaim = [] ∧ t.next = t.chunks ∧ t.st = .open_ then { t with st := .draining } else t)

/-- The first and last iteration of a chunk (R379). -/
def Turnout.first (t : Turnout) (i : Nat) : Nat := i * t.b
def Turnout.last (t : Turnout) (i : Nat) : Nat := min ((i + 1) * t.b) t.n - 1

/-- Put a starting helper lane into the Ready split at the entry address, or into a new one (R387). -/
def Wave.startAt (w : Wave) (l : Nat) (pc : VAddr) : Wave :=
  match w.splits.find? fun c => c.2.helper && c.2.pc = pc && c.2.state = .ready with
  | some (e, sp) => { w with splits := NMap.set w.splits e { sp with mask := sp.mask ||| laneBit l } }
  | none => w.addSplit { pc := pc, mask := laneBit l, state := .ready, helper := true } 8

/-- Start an iteration in a fresh lane state (R387). -/
def Wave.startIter (w : Wave) (l : Nat) (h : HelperLane) (pc : VAddr) : Wave :=
  let m := laneBit l
  let w := w.dropLanes m
  let w := { w with
    helpers := NMap.set w.helpers l { h with phase := .running, rsto := 0 }
    v := w.v.filter (fun c => c.1 % 32 ≠ l)
    p := NMap.mapVal w.p fun _ x => x &&& ~~~m
    recs := NMap.depart w.recs m
    rets := NMap.erase w.rets l
    tx := NMap.erase w.tx l
    loads := (w.loads.map (MemOp.dropLanes m)).filter fun o => o.mask ≠ 0 ∨ o.scal }
  (w.settleRecs.unpark).startAt l pc

/-- A helper lane claims a chunk of its turnout and starts it, or stops serving when none is left (R388). -/
def serveNext (s : State) (w l c e : Nat) : State :=
  let t := s.turnout c e
  let claim := if t.st = .open_ ∨ t.st = .draining then t.claim else none
  match claim with
  | some (i, t') =>
    let s := s.modTurnout c e fun _ => t'
    let h : HelperLane := { core := c, entry := e, chunk := i, iter := t.first i, last := t.last i, gen := t.gen }
    s.modWave w fun x => x.startIter l h t.entryPc
  | none => endServing s w l

/-- A lane begins to serve a turnout. -/
def serve (s : State) (w l c e : Nat) : State :=
  let s := s.modWave w fun x =>
    { x with helpers := NMap.set x.helpers l { core := c, entry := e, chunk := 0, iter := 0, last := 0 } }
  serveNext s w l c e

/-- The lanes of a resumed recruiter's wave rejoin their turnouts where those are still the wave's and Open or Draining (R395);
in a handler they wait for its end. The turnouts stand on the core that its group has. -/
def rejoinAll (s : State) (w : Nat) : State :=
  match s.wave? w with
  | some x =>
    if x.frame.inh then s
    else
      let c := (s.group x.group).core
      let s := s.modWave w fun x => { x with rejoin := [] }
      x.rejoin.foldl (fun s r =>
        let t := s.turnout c r.2.1
        if (t.st = .open_ ∨ t.st = .draining) ∧ t.wave = w ∧ t.gen = r.2.2 then serve s w r.1 c r.2.1 else s) s
  | none => s

/-! ### Replay entries (R409) -/

/-- LD, LDS, FPEEK, QLEN and SRD make load entries. -/
def replaysAsLoad : Instr → Bool
  | .ld .. | .lds .. | .fpeek .. | .qlen .. | .srd .. => true
  | _ => false

/-- The load entries of a trap: what had not yet been written. -/
def Wave.loadEntries (w : Wave) : List Replay :=
  (w.loads.filter fun o => replaysAsLoad o.instr).map fun o => { kind := .load, flt := o.faulted ≠ 0, op := o }

/-- The lanes of a store-class access that are held back or faulted (R183). -/
def Wave.heldLanes (w : Wave) (o : MemOp) : LaneMask := (o.faulted ||| (o.mask &&& w.heldBack)) &&& ~~~o.done

def Wave.storeEntries (w : Wave) : List Replay :=
  (w.stores.filter fun o => w.heldLanes o ≠ 0).map fun o =>
    { kind := .store, flt := decide (o.faulted ≠ (0 : LaneMask)), op := { o with mask := w.heldLanes o } }

/-- An ATOM stands among the loads, which it writes back like, and is store-class too (R190). -/
def MemOp.isAtom (o : MemOp) : Bool :=
  match o.instr with
  | .atom _ => true
  | _ => false

/-- The store entries of ATOMs with lanes faulted or held back (R409). -/
def Wave.atomEntries (w : Wave) : List Replay :=
  (w.loads.filter fun o => o.isAtom && w.heldLanes o ≠ 0).map fun o =>
    { kind := .store, flt := decide (o.faulted ≠ (0 : LaneMask)), op := { o with mask := w.heldLanes o } }

/-- The load and store entries in issue order. -/
def Wave.entries (w : Wave) : List Replay :=
  sortBy (fun a b => a.op.id ≤ b.op.id) (w.loadEntries ++ w.storeEntries ++ w.atomEntries)

/-- The accesses that stay outstanding when the entries leave. An FWAIT is no entry: its faulted lanes stay, and TRET has them
performed again (R183, R409).
DEDUCED, unsafe: log entry 61. -/
def Wave.keptLoads (w : Wave) : List MemOp :=
  ((w.loads.filter fun o => !replaysAsLoad o.instr).map fun o =>
    if o.isAtom then { o with mask := o.mask &&& ~~~w.heldLanes o, faulted := 0 } else o).filter fun o => o.mask ≠ 0

def Wave.keptStores (w : Wave) : List MemOp :=
  (w.stores.map fun o => { o with mask := o.mask &&& ~~~(w.heldLanes o), faulted := 0 }).filter fun o => o.mask ≠ 0

/-- Number the entries of a replay queue from 0. -/
def numbered : Nat → List Replay → NMap Replay
  | _, [] => []
  | i, r :: rs => (i, r) :: numbered (i + 1) rs

/-- One Rest entry (R409). -/
def restEntry (word : IssueWord) (mask : LaneMask) (i : Instr) : Replay :=
  { kind := .rest, flt := false,
    op := { id := 0, instr := i, word := word.word, hdr := word.hdr, idx := word.idx, rep := word.rep,
            mask := word.mask.getD mask } }

/-- The Rest entries of an issuing clause from its current word on, or from the word after it. -/
def Issue.restEntries (i : Issue) (after : Bool) : List Replay :=
  let ws := i.words.drop (i.idx + if after then 1 else 0)
  let ws := match ws with
    | w :: rest => if after then w :: rest else { w with rep := i.rep } :: rest
    | [] => []
  ws.map fun w => restEntry w i.mask ((decodeWave w.word).getD .nop)

/-! ### Taking a trap (R408, R411) -/

/-- Splits as they are set aside: an Issuing split stands Ready. -/
def Split.settled (sp : Split) : Split := if sp.state = .issuing then { sp with state := .ready } else sp

/-- The frame a trap leaves (R408 steps 1 to 3, R412 to R415). -/
def Wave.trapFrame (w : Wave) (split : Nat) (t : TrapInfo) (tpc : VAddr) (rest : List Replay) (more : Bool) : Frame :=
  let es := w.entries ++ rest
  { w.frame with
    cause := t.cause, ocause := t.ocause, late := t.late, more := more, rqn := min es.length 64, idx := t.idx,
    tpc := BitVec.ofNat 64 tpc.toNat, taddr := t.addr, tlanes := t.lanes, tinfo := t.info, mask := true, inh := true,
    replay := numbered 0 es, helperHdr := none, handle := 0, opAt := w.nextOp
    saved := some { splits := NMap.mapVal w.splits fun _ sp => sp.settled, parked := w.parkedSplits.map Split.settled,
                    recs := w.recs, preds := w.p, split := split } }

/-- The faults still pending when the entries carry theirs away (R420), and the FWAITs that are performed again. -/
def Wave.pendingAfter (w : Wave) : List LateFault :=
  w.faults.filter fun f => match f.op with
    | some id => !(w.entries.any fun e => e.op.id = id) && !(w.keptLoads.any fun o => o.id = id)
    | none => true

/-- The predicates a handler starts with. The spec sets p0 to p6 aside and does not say what they then read: free
values.
DESIGN CHOICE, safe: log entry 5. -/
def freePreds (n : Nat) : NMap LaneMask :=
  (List.range 7).map fun i => (i, BitVec.ofNat 32 (Config.word (n + i)).toNat)

/-- The wave as its handler starts: one split of every live lane at TVEC, no open record (R410). -/
def Wave.enterHandler (w : Wave) (f : Frame) (tvec : Word64) (n : Nat) : Wave :=
  { w with
    frame := f
    splits := [(0, { pc := BitVec.ofNat 48 tvec.toNat, mask := w.live, state := .ready })]
    parkedSplits := [], recs := [], p := freePreds n, issue := none, parking := false
    loads := w.keptLoads, stores := w.keptStores, faults := w.pendingAfter, heldBack := 0 }

/-- A wave takes a trap (R408): the ONE entry of every issue, instruction and late trap. `split` is the trapping split,
`tpc` where it resumes, `rest` the Rest entries. -/
def takeTrap (s : State) (wid core slot split : Nat) (t : TrapInfo) (tpc : VAddr) (rest : List Replay) : State :=
  match s.wave? wid with
  | none => s
  | some w =>
    let s := s.modCore core fun k => { k with port := k.port.filter fun x => x.2 ≠ slot }
    let tvec := (s.group w.group).tvec
    let helpers := maskOf fun l => (NMap.get? w.helpers l).isSome
    let back := w.serving
    let s := s.modWave wid fun w => (w.abortTx 7 0 allLanes).settleRecs
    let s := releaseLanes s wid helpers
    let s := s.modWave wid fun w => (w.dropLanes helpers).addRejoin back
    if w.frame.inh ∨ tvec = 0 then
      let cause := if w.frame.inh then 180 else t.cause
      let s := s.modWave wid fun w => { w with issue := none }
      match nodeOfWave s wid with
      | some n =>
        let addr := ((s.node? n).map (·.addr)).getD 0
        endGrid (pushEvent s cause (if w.frame.inh then t.cause else t.ocause) core slot 0 addr t.info []) n cause
      | none => endWave s wid
    else
      match s.wave? wid with
      | none => s
      | some w =>
        let f := (w.mergeBut split).trapFrame split t tpc rest (w.pendingAfter ≠ [])
        { s.setWave wid (w.enterHandler f tvec s.free) with free := s.free + 7 }

/-- Charge a trap of helper code to the turnouts of the split's lanes (R393); they take no trap. -/
def faultHelpers (s : State) (wid core slot : Nat) (m : LaneMask) (hdr : VAddr) (t : TrapInfo) : State :=
  let s := s.modWave wid fun w => { w with issue := none }
  let s := s.modCore core fun k => { k with port := k.port.filter fun x => x.2 ≠ slot }
  let first := t.lanes &&& m
  ((lanesOf first) ++ lanesOf (m &&& ~~~first)).foldl (fun s l => helperFault s wid core slot hdr t.cause t.addr l) s

/-- An instruction trap at the instruction in hand (R407); `after` for TRAP and BRK, which are done. -/
def trapNow (c : Ctx) (s : State) (t : TrapInfo) (after : Bool := false) : State :=
  if c.helper then faultHelpers s c.wid c.core c.slot c.iss.mask c.iss.hdr t
  else
    takeTrap s c.wid c.core c.slot c.iss.split { t with idx := c.iw.idx } c.iss.next (c.iss.restEntries after)

/-- The outcome of an instruction trap. -/
def instrTrap (c : Ctx) (s : State) (t : TrapInfo) : Host.Outcome State Fault Refusal := .next (trapNow c s t)

/-- An issue trap of a split at its clause header (R407). -/
def issueTrap (s : State) (wid core slot split : Nat) (hdr : VAddr) (t : TrapInfo) : State :=
  match (s.wave? wid).bind fun w => NMap.get? w.splits split with
  | some sp =>
    if sp.helper then faultHelpers s wid core slot sp.mask hdr t
    else takeTrap s wid core slot split t hdr []
  | none => s

/-- A late fault as the trap that reports it (R420). -/
def LateFault.trap (f : LateFault) : TrapInfo :=
  { cause := f.cause, ocause := f.ocause, late := true, addr := f.addr, lanes := f.lanes, info := f.info }

/-- Report a pending late fault as a late trap (R420). -/
def lateTrap (s : State) (wid core slot split : Nat) (tpc : VAddr) (f : LateFault) (rest : List Replay) : State :=
  let s := s.modWave wid fun w =>
    { w with faults := match f.op with
        | some _ => w.faults
        | none => w.faults.erase f }
  let s := takeTrap s wid core slot split f.trap tpc rest
  if f.cause = 112 then
    s.modWave wid fun w =>
      if w.frame.inh ∧ w.frame.cause = 112 then { w with frame := { w.frame with helperHdr := some f.hdr, handle := f.handle } } else w
  else s

/-! ### Returning (R416) -/

/-- The Rest entries as the words of the clause the trapping split issues. -/
def Frame.restWords (f : Frame) : List IssueWord :=
  (f.replay.filter fun e => e.2.kind = .rest && e.2.op.mask ≠ 0).map fun e =>
    { word := e.2.op.word, hdr := e.2.op.hdr, idx := e.2.op.idx, mask := some e.2.op.mask, rep := e.2.op.rep }

/-- The entries TRET performs again. -/
def Frame.replayed (f : Frame) (k : ReplayKind) : List MemOp :=
  (f.replay.filter fun e => e.2.kind = k && e.2.op.mask ≠ 0).map fun e =>
    { e.2.op with faulted := 0, clobber := 0, done := if e.2.op.ready then e.2.op.mask else 0 }

/-- Give re-injected accesses new numbers in order. -/
def renumber : Nat → List MemOp → List MemOp
  | _, [] => []
  | n, o :: os => { o with id := n } :: renumber (n + 1) os

/-- TRET (R416): restore what R408 set aside, perform the kept entries again, issue the Rest entries.
DEDUCED, unsafe: log entry 53. -/
def returnFromTrap (s : State) (wid core slot : Nat) : State :=
  match s.wave? wid with
  | none => s
  | some w =>
    match w.frame.saved with
    | none => s
    | some sv =>
      let tpc : VAddr := BitVec.ofNat 48 w.frame.tpc.toNat
      let ops := renumber w.nextOp (sortBy (fun a b => a.id ≤ b.id) (w.frame.replayed .load ++ w.frame.replayed .store))
      let isLoad (o : MemOp) : Bool := replaysAsLoad o.instr || o.isAtom
      let words := w.frame.restWords
      let splits := NMap.modify sv.splits sv.split fun sp =>
        { sp with pc := tpc, state := if words = [] then .ready else .issuing }
      let mask := ((NMap.get? sv.splits sv.split).map (·.mask)).getD 0
      let last := if words = [] then w.lastSplit else some sv.split
      let issue : Option Issue := if words = [] then none else
        some { split := sv.split, hdr := (words.headD ⟨0, 0, 0, none, none⟩).hdr, mask := mask, park := false,
               words := words, next := tpc, rest := true, since := s.cycle }
      let w := { w with
        splits := splits, parkedSplits := sv.parked, recs := sv.recs, p := sv.preds, issue := issue, lastSplit := last
        loads := (w.loads.map fun o => if o.id < w.frame.opAt then { o with faulted := 0 } else o) ++ ops.filter isLoad
        stores := w.stores ++ ops.filter (fun o => !isLoad o)
        nextOp := w.nextOp + ops.length
        frame := { w.frame with mask := false, inh := false, saved := none } }
      let s := s.setWave wid w
      let s := if words = [] then s.modCore core fun k => { k with port := k.port.filter fun x => x.2 ≠ slot } else s
      rejoinAll s wid

end Sys2Proof.Machine
end

