-- ==== Sys2Proof/Machine/Flags.lean ====
section
/-! DEFINITION. MODE, SEED and the sticky flags (R105 to R111), and the draws of stochastic rounding (R99, R100). -/

namespace Sys2Proof.Machine

/-! ### MODE fields (R105) -/

def modeRnd (m : Word64) : Nat := m.toNat % 8
def modeFtz (m : Word64) : Bool := bitOf m.toNat 3
def modeVerify (m : Word64) : Bool := bitOf m.toNat 4
def modeXen (m : Word64) : Sticky := BitVec.ofNat 8 (m.toNat / 2 ^ 16)
def modeSticky (m : Word64) : Sticky := BitVec.ofNat 8 (m.toNat / 2 ^ 8)

/-- OR flags into the sticky bits [15:8]. -/
def modeOr (m : Word64) (f : Sticky) : Word64 := m ||| BitVec.ofNat 64 (f.toNat * 2 ^ 8)

/-- The turnout a helper lane serves. -/
def Ctx.turnoutOf (c : Ctx) (s : State) (l : Nat) : Option Turnout :=
  (NMap.get? c.w.helpers l).map fun h => s.turnout h.core h.entry

/-- MODE as the instruction captures it: the group's, or in helper code the recruiter's captured value (R109, R111). -/
def Ctx.mode (c : Ctx) (s : State) (l : Nat) : Word64 :=
  if c.helper then ((c.turnoutOf s l).map (·.mode)).getD 1 else (s.group c.w.group).mode

def Ctx.seed (c : Ctx) (s : State) (l : Nat) : Word64 :=
  if c.helper then ((c.turnoutOf s l).map (·.seed)).getD 0 else (s.group c.w.group).seed

/-- The rounding mode an RND field selects, DYN resolved (R94). -/
def resolveRnd (r : Rnd) (mode : Word64) : Nat := if r = .dyn then modeRnd mode else r.code.toNat

/-! ### Stochastic draws (R99, R100) -/

/-- The mixing function of R99, mod 2^64. -/
def mix (z : Word64) : Word64 :=
  let z := z ^^^ (z >>> 30)
  let z := z * 0xBF58476D1CE4E5B9#64
  let z := z ^^^ (z >>> 27)
  let z := z * 0x94D049BB133111EB#64
  z ^^^ (z >>> 31)

/-- The 32-bit draw u (R99). -/
def drawU (seed a b c : Word64) : Nat := (mix (mix (mix (seed ^^^ a) ^^^ b) ^^^ c)).toNat / 2 ^ 32

def groupIdOf (s : State) (w : Wave) : Nat := (s.group w.group).gid
def gangIdOf (s : State) (w : Wave) : Nat := ((s.gang? (s.group w.group).gang).map (·.gangid)).getD 0

/-- The recruiter wave of a turnout. -/
def Turnout.recruiter (t : Turnout) (s : State) : Option Wave := s.wave? t.wave

/-- RSTO roundings a lane has made before: LSEQ, or the iteration's count in helper code (R100). -/
def Ctx.rstoCount (c : Ctx) (l : Nat) : Nat :=
  if c.helper then ((NMap.get? c.w.helpers l).map (·.rsto)).getD 0 else (c.w.lseqAt l).toNat

/-- Word b of a lane's rounding (R100): tag 1 in a wave, tag 0 in a helper lane. -/
def Ctx.drawB (c : Ctx) (s : State) (l e : Nat) : Word64 :=
  match c.helper, NMap.get? c.w.helpers l with
  | true, some h =>
    let t := s.turnout h.core h.entry
    let rw := t.recruiter s
    let gid := (rw.map (groupIdOf s)).getD 0
    let wid := (rw.map (·.waveid)).getD 0
    BitVec.ofNat 64 (e * 2 ^ 60 + gid * 2 ^ 42 + wid * 2 ^ 37 + t.lane * 2 ^ 32 + h.iter % 2 ^ 32)
  | _, _ =>
    BitVec.ofNat 64 (2 ^ 62 + e * 2 ^ 16 + groupIdOf s c.w * 2 ^ 10 + c.w.waveid * 2 ^ 5 + l)

/-- The draw for element e of a lane's result. -/
def Ctx.draw (c : Ctx) (s : State) (l e : Nat) : Nat :=
  drawU (c.seed s l) (BitVec.ofNat 64 (gangIdOf s c.w)) (c.drawB s l e) (BitVec.ofNat 64 (c.rstoCount l + e))

/-- The rounding environment of element e in lane l. -/
def Ctx.rmode (c : Ctx) (s : State) (r : Rnd) (l e : Nat) : RMode :=
  let m := c.mode s l
  let k := resolveRnd r m
  { rnd := k, ftz := modeFtz m, u := if k = 6 then c.draw s l e else 0 }

/-- Count n RSTO roundings in a lane (R100). -/
def Wave.countRsto (w : Wave) (helper : Bool) (l n : Nat) : Wave :=
  if helper then { w with helpers := NMap.modify w.helpers l fun h => { h with rsto := h.rsto + n } }
  else { w with lseq := NMap.set w.lseq l (w.lseqAt l + BitVec.ofNat 64 n) }

/-! ### Raising flags (R96, R109, R110) -/

/-- The lowest flag of a set. -/
def lowestFlag (f : Sticky) : Nat := ((List.range 8).find? fun i => f.getLsbD i).getD 8

/-- The exception trap that flags raised per lane would cause, if XEN names one of them (R110). The cause names the
lowest enabled flag and TLANES the lanes that raise it. DEDUCED: log entry 6. -/
def xenTrap (c : Ctx) (s : State) (fs : List (Nat × Sticky)) : Option TrapInfo :=
  let all := fs.foldl (fun a x => a ||| x.2) (0 : Sticky)
  let en := fs.foldl (fun a x => a ||| (x.2 &&& modeXen (c.mode s x.1))) (0 : Sticky)
  if en = 0 then none
  else
    let n := lowestFlag en
    some { cause := BitVec.ofNat 8 (67 + n), info := BitVec.ofNat 64 all.toNat,
           lanes := maskOf fun l => fs.any fun x => x.1 = l && x.2.getLsbD n }

/-- Set sticky bits at write-back: in the group's MODE, or held with the chunk in helper code (R109, R111). -/
def raiseFlags (c : Ctx) (s : State) (fs : List (Nat × Sticky)) : State :=
  let all := fs.foldl (fun a x => a ||| x.2) (0 : Sticky)
  if all = 0 then s
  else if c.helper then
    s.modWave c.wid fun w => { w with
      helpers := fs.foldl (fun hs x => NMap.modify hs x.1 fun h => { h with sticky := h.sticky ||| x.2 }) w.helpers }
  else s.modGroup c.w.group fun g => { g with mode := modeOr g.mode all }

end Sys2Proof.Machine
end

