-- ==== Sys2Proof/Machine/Operands.lean ====
section
/-! DEFINITION. The operand forms: reading the operand space (R68, R70), popping queues (R203), the residue checks of
R129, and writing results with their codes (R126, R128). -/

namespace Sys2Proof.Machine

/-- An operand as read: up to 64 bits, with the residue code of each half. -/
structure OpVal where
  val : Word64 := 0
  lo : BitVec 4 := 0
  hi : BitVec 4 := 0
  deriving DecidableEq, Repr

/-- A value with generated codes (R128). -/
def OpVal.of (x : Word64) : OpVal := ⟨x, resCode (lo32 x), resCode (hi32 x)⟩

def OpVal.nat (n : Nat) : OpVal := .of (BitVec.ofNat 64 n)

def OpVal.ok (v : OpVal) : Bool := v.lo = resCode (lo32 v.val) && v.hi = resCode (hi32 v.val)

/-- The codes of the halves an operand of this width uses are right. -/
def OpVal.okAt (v : OpVal) (w64 : Bool) : Bool := v.lo = resCode (lo32 v.val) && (!w64 || v.hi = resCode (hi32 v.val))

def Scalar.opVal (r : Scalar) : OpVal := ⟨r.val, r.codeLo, r.codeHi⟩

/-- A vector register, or an even pair, in one lane. -/
def Wave.vVal (w : Wave) (n l : Nat) (w64 : Bool) : OpVal :=
  let a := w.vAt n l
  if w64 then ⟨pair64 a.val (w.vAt (n + 1) l).val, a.code, (w.vAt (n + 1) l).code⟩
  else ⟨BitVec.ofNat 64 a.val.toNat, a.code, 0⟩

/-- The value a bound register holds (R206). -/
def bndVal (s : State) (core n : Nat) : Word64 := NMap.getD (s.cluster (clusterOf core)).bnd n 0x7FFFFFFFFFFFFFFF#64

/-- A source: an operand of a width, or an immediate. -/
inductive Src where
  | op (o : Operand) (w64 : Bool)
  | imm (x : Word64)
  deriving DecidableEq, Repr

def Src.perLane : Src → Bool
  | .op o _ => o.perLane
  | .imm _ => false

def SrcB.src (b : SrcB) (w64 : Bool) : Src :=
  match b with
  | .reg o => .op o w64
  | .imm i => .imm (BitVec.signExtend 64 i)

/-- The i-th window register of the turnout a helper lane serves (R385). -/
def Ctx.window (c : Ctx) (s : State) (l i : Nat) (w64 : Bool) : OpVal :=
  match c.turnoutOf s l with
  | some t =>
    let a := t.window.getD i {}
    if t.winVec && w64 then
      ⟨pair64 (lo32 a.val) (lo32 (t.window.getD (i + 1) {}).val), a.codeLo, (t.window.getD (i + 1) {}).codeLo⟩
    else a.opVal
  | none => {}

/-- The wave whose names a lane reads: in helper code that of its turnout's recruiter (R383). -/
def Ctx.named? (c : Ctx) (s : State) (l : Nat) : Wave :=
  if c.helper then ((c.turnoutOf s l).bind fun t => s.wave? t.wave).getD c.w else c.w

/-- Read an operand in lane l (R68, R70); `q` gives the words popped from a queue. -/
def Ctx.read (c : Ctx) (s : State) (q : Nat → Word32) (l : Nat) : Src → OpVal
  | .imm x => .of x
  | .op o w64 =>
    match o with
    | .v n => c.w.vVal n.val l w64
    | .s n => (c.w.sAt n.val).opVal
    | .win n => c.window s l n.val w64
    | .zero => .of 0
    | .laneid => .nat l
    | .quadid => .nat (l / 4)
    | .waveid => .nat (c.named? s l).waveid
    | .groupid => .nat (groupIdOf s c.w)
    | .gangid => .nat (gangIdOf s c.w)
    | .role => .nat (c.named? s l).role
    | .hrank =>
      match c.helper, NMap.get? c.w.helpers l with
      | true, some h => .nat (h.iter % 2 ^ 32)
      | _, _ => .nat 0xFFFFFFFF
    | .q _ => .nat (q l).toNat
    | .bnd n => .of (bndVal s c.core n.val)

/-- Read an operand that is no queue. -/
def Ctx.get (c : Ctx) (s : State) (l : Nat) (o : Operand) (w64 : Bool) : OpVal := c.read s (fun _ => 0) l (.op o w64)

/-- A scalar register whole. -/
def Ctx.sVal (c : Ctx) (n : Fin 32) : Word64 := (c.w.sAt n.val).val

/-! ### Queues as sources (R202, R203) -/

def Src.queue : Src → Option Nat
  | .op (.q n) _ => some n.val
  | _ => none

/-- A pop in progress: which queue, the words lanes receive, and the lanes that find it empty. -/
structure Pop where
  q : Option Nat := none
  vals : List (Nat × Word32) := []
  missed : LaneMask := 0
  deriving DecidableEq, Repr

def Pop.word (p : Pop) (l : Nat) : Word32 := NMap.getD p.vals l 0

def State.queue (s : State) (c n : Nat) : WordQueue := NMap.getD (s.core c).queues n {}

/-- A wave that was resumed away from its group's core cannot use what lives there (R376). -/
def Ctx.remote (c : Ctx) : Bool := c.w.remote

/-- Plan the pops of these lanes, ascending: the first lanes take a word each. -/
def popPlan (c : Ctx) (s : State) (srcs : List Src) (ls : List Nat) : Except TrapInfo Pop :=
  match srcs.findSome? Src.queue with
  | none => .ok {}
  | some n =>
    if ls = [] then .ok { q := some n }
    else if (s.queue c.core n).owner ≠ some c.w.group then .error { cause := 128, info := BitVec.ofNat 64 n, lanes := c.mask }
    else
      let ws := (s.queue c.core n).words
      .ok { q := some n, vals := ls.zip ws, missed := maskOf fun l => (ls.drop ws.length).contains l }

/-- Pop the planned words, and make the guard false in the lanes that found none (R203); on the scalar unit in every
active lane. -/
def commitPop (c : Ctx) (s : State) (g : Guard) (p : Pop) (scalar : Bool) : State :=
  match p.q with
  | none => s
  | some n =>
    let s := s.modCore c.core fun k => { k with
      queues := NMap.modify k.queues n fun x => { x with words := x.words.drop p.vals.length } }
    if p.missed = 0 ∨ g.pred = 7 then s
    else s.modWave c.wid fun w => w.setPBits g.pred.val (if scalar then c.mask else p.missed) (if g.neg then allLanes else 0)

/-- A transaction does not outlive these instructions (R194): Open lanes of Eff are Doomed with code 4. -/
def abortOpen (c : Ctx) (s : State) (m : LaneMask) : State := s.modWave c.wid fun w => w.abortTx 4 0 m

/-! ### Residue checks (R129) -/

/-- The code of an operand as R427 and R428 print it. -/
def codeInfo (o : Operand) : Word64 := BitVec.ofNat 64 o.code.toNat

/-- The lanes in which a register's residue code does not match, in the halves that are used. -/
def badLanes (c : Ctx) (s : State) (o : Operand) (w64 : Bool) (ls : List Nat) : LaneMask :=
  maskOf fun l => ls.contains l && !(c.get s l o w64).okAt w64

/-- The trap of the first of these registers that fails its check (R129). -/
def residueTrap (c : Ctx) (s : State) (ls : List Nat) : List (Operand × Bool) → Option TrapInfo
  | [] => none
  | (o, w64) :: rest =>
    let bad := badLanes c s o w64 ls
    if bad ≠ 0 then some { cause := 64, lanes := bad, info := codeInfo o } else residueTrap c s ls rest

/-! ### Writing results -/

/-- How a 32-bit result is extended in a scalar (R126). -/
inductive Ext where
  | sign | zero
  deriving DecidableEq, Repr

/-- Write a result to its destination in lane l: a vector element or pair, or a scalar (R126, R128). -/
def Wave.writeDst (w : Wave) (d : Operand) (w64 : Bool) (ext : Ext) (l : Nat) (v : OpVal) : Wave :=
  match d with
  | .v n =>
    let w := w.setV n.val l ⟨lo32 v.val, v.lo⟩
    if w64 then w.setV (n.val + 1) l ⟨hi32 v.val, v.hi⟩ else w
  | .s n =>
    if w64 then w.setS n.val ⟨v.val, v.lo, v.hi, false⟩
    else
      let x : Word64 := match ext with
        | .sign => BitVec.signExtend 64 (lo32 v.val)
        | .zero => BitVec.ofNat 64 (lo32 v.val).toNat
      w.setS n.val ⟨x, v.lo, resCode (hi32 x), false⟩
  | _ => w

/-- One lane's result. -/
structure LaneOut where
  l : Nat
  v : OpVal
  fl : Sticky := 0
  deriving DecidableEq, Repr

def Wave.writeOuts (w : Wave) (d : Operand) (w64 : Bool) (ext : Ext) (outs : List LaneOut) : Wave :=
  outs.foldl (fun w o => w.writeDst d w64 ext o.l o.v) w

/-- The lanes a pass covers: those of Eff, or on the scalar unit its lowest lane, once. -/
def passLanes (eff : LaneMask) (scalar : Bool) : List Nat :=
  if scalar then (if eff = 0 then [] else [lowestLane eff]) else lanesOf eff

/-! ### The shape of an arithmetic instruction -/

/-- Where a result goes: a register of a width, with the extension of a 32-bit scalar result, or a predicate. -/
inductive Dest where
  | reg (d : Operand) (w64 : Bool) (ext : Ext)
  | pred (p : Fin 8)
  deriving DecidableEq, Repr

def Dest.perLane : Dest → Bool
  | .reg d _ _ => d.perLane
  | .pred _ => false

/-- What one arithmetic instruction is: its guard, destination and sources, its result and flags in a lane, the lanes
whose operands it traps on (R143), how many RSTO roundings it counts in a lane (R100), and whether VERIFY issues it twice
(R130). -/
structure AluOp where
  g : Guard
  dst : Dest
  srcs : List Src
  f : Ctx → State → Nat → List OpVal → OpVal × Sticky
  bad : List OpVal → Bool := fun _ => false
  count : Word64 → Nat := fun _ => 0
  float : Bool := false

/-- The instruction runs on the scalar unit (R70, R126). -/
def AluOp.scalar (a : AluOp) : Bool := !a.dst.perLane && !(a.srcs.any Src.perLane)

/-- The sources of a lane as read. -/
def AluOp.vals (a : AluOp) (c : Ctx) (s : State) (p : Pop) (l : Nat) : List OpVal := a.srcs.map (c.read s p.word l)

/-- The results of the lanes of a pass. -/
def AluOp.outs (a : AluOp) (c : Ctx) (s : State) (p : Pop) (ls : List Nat) : List LaneOut :=
  ls.map fun l =>
    let r := a.f c s l (a.vals c s p l)
    ⟨l, r.1, r.2⟩

/-- Write the results of a pass; a predicate written on the scalar unit is written in every active lane (R139). -/
def AluOp.write (a : AluOp) (c : Ctx) (w : Wave) (outs : List LaneOut) : Wave :=
  match a.dst with
  | .reg d w64 ext => w.writeOuts d w64 ext outs
  | .pred p =>
    outs.foldl (fun w o =>
      w.setPBits p.val (if a.scalar then c.mask else laneBit o.l) (if o.v.val = 0 then 0 else allLanes)) w

/-- Count the RSTO roundings of a pass (R100). -/
def AluOp.countAll (a : AluOp) (c : Ctx) (s : State) (w : Wave) (outs : List LaneOut) : Wave :=
  outs.foldl (fun w o => if a.count (c.mode s o.l) = 0 then w else w.countRsto c.helper o.l (a.count (c.mode s o.l))) w

/-- Write-back of an arithmetic instruction: results, RSTO counts, flags, then the pops (R109, R131, R203). -/
def AluOp.commit (a : AluOp) (c : Ctx) (s : State) (p : Pop) (outs : List LaneOut) : State :=
  let t := s.modWave c.wid fun w => a.countAll c s (a.write c w outs) outs
  commitPop c (raiseFlags c t (outs.map fun o => (o.l, o.fl))) a.g p a.scalar

/-- The trap of a float instruction whose second issue under VERIFY differs from its first: in the lanes that an error strikes
(R130). DEDUCED, safe: log entry 50. -/
def AluOp.verifyTrap (a : AluOp) (c : Ctx) (s : State) (eff : LaneMask) : Option TrapInfo :=
  let m := c.w.upset &&& maskOf fun l => a.float && eff.getLsbD l && modeVerify (c.mode s l)
  if m = 0 then none else some { cause := 65, lanes := if a.scalar then eff else m, info := c.iw.word }

/-- Run an arithmetic instruction (R131): plan the pops, compute every lane from the sources as they stand, trap before
any write on a bad operand, a verify mismatch or an enabled exception, else write back and issue on. A queue read ends transactions (R194). -/
def AluOp.run (a : AluOp) (s : State) : Host.Outcome State Fault Refusal :=
  withCtx s fun c =>
    let eff := c.eff a.g
    let ls := passLanes eff a.scalar
    match popPlan c s a.srcs ls with
    | .error t => instrTrap c s t
    | .ok p =>
      let bad := ls.filter fun l => a.bad (a.vals c s p l)
      if bad ≠ [] then
        instrTrap c s { cause := 66, lanes := if a.scalar then eff else maskOf fun l => bad.contains l }
      else
        match a.verifyTrap c s eff with
        | some t => instrTrap c (s.modWave c.wid fun w => { w with upset := 0 }) t
        | none =>
          let outs := a.outs c s p ls
          match xenTrap c s (outs.map fun o => (o.l, o.fl)) with
          | some t => instrTrap c s (if a.scalar then { t with lanes := eff } else t)
          | none =>
            let s := if a.srcs.any fun x => x.queue.isSome then abortOpen c s eff else s
            .next ((a.commit c s p outs).advance c.wid)

end Sys2Proof.Machine
end

