-- ==== Sys2Proof/Machine/Alu.lean ====
section
/-! DEFINITION. The arithmetic of majors 0x00 to 0x23 (R133 to R147). -/

namespace Sys2Proof.Machine

/-! ### Elements (R65, R131) -/

/-- W and N of an integer TYPE. -/
def IntTy.shape : IntTy → Nat × Nat
  | .s32 | .z32 => (32, 1)
  | .s64 | .z64 => (64, 1)
  | .s16x2 | .z16x2 => (16, 2)
  | .s8x4 | .z8x4 => (8, 4)

/-- How a scalar receives a result of this TYPE (R126). -/
def IntTy.ext (t : IntTy) : Ext := if t.signed then .sign else .zero

/-- Element e of a packed value, unsigned. -/
def elemU (w e x : Nat) : Nat := x / 2 ^ (w * e) % 2 ^ w

/-- A w-bit number read as signed. -/
def signed (w x : Nat) : Int := if x < 2 ^ (w - 1) then x else (x : Int) - 2 ^ w

/-- Element e as TYPE reads it. -/
def IntTy.elem (t : IntTy) (e x : Nat) : Int :=
  let u := elemU (IntTy.shape t).1 e x
  if t.signed then signed (IntTy.shape t).1 u else u

/-- The ends of the range of TYPE's elements (R85). -/
def IntTy.lo (t : IntTy) : Int := if t.signed then -2 ^ ((IntTy.shape t).1 - 1) else 0
def IntTy.hi (t : IntTy) : Int := if t.signed then 2 ^ ((IntTy.shape t).1 - 1) - 1 else 2 ^ (IntTy.shape t).1 - 1

/-- x mod 2^w. -/
def wrapTo (w : Nat) (x : Int) : Nat := (x % 2 ^ w).toNat

/-- Pack elements of w bits, element 0 lowest. -/
def packElems (w : Nat) : List Nat → Nat
  | [] => 0
  | x :: xs => x + 2 ^ w * packElems w xs

/-- Apply a function to each element of the operands. -/
def IntTy.map (t : IntTy) (g : List Int → Nat) (vs : List OpVal) : Word64 :=
  BitVec.ofNat 64 (packElems (IntTy.shape t).1
    ((List.range (IntTy.shape t).2).map fun e => g (vs.map fun v => IntTy.elem t e v.val.toNat)))

/-- The same over unsigned elements of width w, with the width. -/
def IntTy.mapU (t : IntTy) (g : Nat → List Nat → Nat) (vs : List OpVal) : Word64 :=
  let w := (IntTy.shape t).1
  BitVec.ofNat 64 (packElems w ((List.range (IntTy.shape t).2).map fun e => g w (vs.map fun v => elemU w e v.val.toNat)))

def arg (xs : List α) (i : Nat) [Inhabited α] : α := xs.getD i default

/-! ### Residue codes of results (R128) -/

/-- A result whose code is generated. -/
def plain (x : Word64) : OpVal × Sticky := (.of x, 0)

/-- TYPEs whose codes are predicted in IADD, ISUB, IMUL, IMAD and MOV (R128). -/
def IntTy.predicts : IntTy → Bool
  | .s32 | .z32 => true
  | _ => false

/-- A 32-bit result with a predicted code: the code the operands' codes give for the exact result, less one for each
2^32 that the width drops, since 2^32 mod 15 is 1 (DEDUCED: log entry 8). -/
def predicted (x : Word64) (code : Int) (exact : Int) : OpVal × Sticky :=
  let c := (code - exact / 2 ^ 32) % 15
  (⟨x, BitVec.ofNat 4 c.toNat, resCode (hi32 x)⟩, 0)

def OpVal.u32 (v : OpVal) : Int := v.val.toNat % 2 ^ 32
def OpVal.code (v : OpVal) : Int := v.lo.toNat

/-- Exact arithmetic on unsigned operands and on their codes alike. -/
def IntTy.arith (t : IntTy) (g : List Int → Int) (vs : List OpVal) : OpVal × Sticky :=
  let x := IntTy.map t (fun xs => wrapTo (IntTy.shape t).1 (g xs)) vs
  if IntTy.predicts t then predicted x (g (vs.map OpVal.code)) (g (vs.map OpVal.u32)) else plain x

/-! ### Integer instructions -/

def AluI.srcs (f : AluI) : List Src := [.op f.a f.ty.w64, SrcB.src f.b f.ty.w64]
def AluI3.srcs (f : AluI3) : List Src := [.op f.a f.ty.w64, .op f.b f.ty.w64, .op f.c f.ty.w64]

def intDest (d : Operand) (t : IntTy) : Dest := .reg d t.w64 (IntTy.ext t)

/-- An integer instruction D, A, B. -/
def AluI.op (f : AluI) (g : List OpVal → OpVal × Sticky) : AluOp :=
  { g := f.g, dst := intDest f.d f.ty, srcs := AluI.srcs f, f := fun _ _ _ vs => g vs }

def AluI1.op (f : AluI1) (g : List OpVal → OpVal × Sticky) : AluOp :=
  { g := f.g, dst := intDest f.d f.ty, srcs := [.op f.a f.ty.w64], f := fun _ _ _ vs => g vs }

def AluI3.op (f : AluI3) (g : List OpVal → OpVal × Sticky) : AluOp :=
  { g := f.g, dst := intDest f.d f.ty, srcs := AluI3.srcs f, f := fun _ _ _ vs => g vs }

/-- IADD (R133). -/
def execIadd (f : AluI) (s : State) : Host.Outcome State Fault Refusal :=
  (AluI.op f (IntTy.arith f.ty fun xs => arg xs 0 + arg xs 1)).run s

/-- ISUB (R133). -/
def execIsub (f : AluI) (s : State) : Host.Outcome State Fault Refusal :=
  (AluI.op f (IntTy.arith f.ty fun xs => arg xs 0 - arg xs 1)).run s

/-- A saturating result: clamped elements set SAT (R133). -/
def IntTy.clamped (t : IntTy) (g : List Int → Int) (vs : List OpVal) : OpVal × Sticky :=
  let x := IntTy.map t (fun xs => wrapTo (IntTy.shape t).1 (max (IntTy.lo t) (min (IntTy.hi t) (g xs)))) vs
  let out := (List.range (IntTy.shape t).2).any fun e =>
    let y := g (vs.map fun v => IntTy.elem t e v.val.toNat)
    y < IntTy.lo t || IntTy.hi t < y
  (.of x, if out then fSAT else 0)

/-- IADDS (R133). -/
def execIadds (f : AluI) (s : State) : Host.Outcome State Fault Refusal :=
  (AluI.op f (IntTy.clamped f.ty fun xs => arg xs 0 + arg xs 1)).run s

/-- ISUBS (R133). -/
def execIsubs (f : AluI) (s : State) : Host.Outcome State Fault Refusal :=
  (AluI.op f (IntTy.clamped f.ty fun xs => arg xs 0 - arg xs 1)).run s

/-- IMUL (R133). -/
def execImul (f : AluI) (s : State) : Host.Outcome State Fault Refusal :=
  (AluI.op f (IntTy.arith f.ty fun xs => arg xs 0 * arg xs 1)).run s

/-- IMULH: the floor quotient of the product by 2^W (R133). -/
def execImulh (f : AluI) (s : State) : Host.Outcome State Fault Refusal :=
  (AluI.op f fun vs => plain (IntTy.map f.ty (fun xs =>
    wrapTo (IntTy.shape f.ty).1 (arg xs 0 * arg xs 1 / 2 ^ (IntTy.shape f.ty).1)) vs)).run s

/-- IMAD (R133). -/
def execImad (f : AluI3) (s : State) : Host.Outcome State Fault Refusal :=
  (AluI3.op f (IntTy.arith f.ty fun xs => arg xs 0 * arg xs 1 + arg xs 2)).run s

/-- A function of elements written mod 2^W with a generated code. -/
def IntTy.wrapped (t : IntTy) (g : List Int → Int) (vs : List OpVal) : OpVal × Sticky :=
  plain (IntTy.map t (fun xs => wrapTo (IntTy.shape t).1 (g xs)) vs)

/-- IMIN (R133). -/
def execImin (f : AluI) (s : State) : Host.Outcome State Fault Refusal :=
  (AluI.op f (IntTy.wrapped f.ty fun xs => min (arg xs 0) (arg xs 1))).run s

/-- IMAX (R133). -/
def execImax (f : AluI) (s : State) : Host.Outcome State Fault Refusal :=
  (AluI.op f (IntTy.wrapped f.ty fun xs => max (arg xs 0) (arg xs 1))).run s

/-- IABS: Lo gives Lo (R133). -/
def execIabs (f : AluI1) (s : State) : Host.Outcome State Fault Refusal :=
  (AluI1.op f (IntTy.wrapped f.ty fun xs => if arg xs 0 < 0 then -arg xs 0 else arg xs 0)).run s

/-- INEG (R133). -/
def execIneg (f : AluI1) (s : State) : Host.Outcome State Fault Refusal :=
  (AluI1.op f (IntTy.wrapped f.ty fun xs => -arg xs 0)).run s

/-! ### Logic and shifts (R134, R135) -/

/-- The value of an operand, all 64 bits. -/
def bitsOf (vs : List OpVal) (i : Nat) : Word64 := (vs.getD i {}).val

/-- AND (R134). -/
def execAnd (f : AluI) (s : State) : Host.Outcome State Fault Refusal :=
  (AluI.op f fun vs => plain (bitsOf vs 0 &&& bitsOf vs 1)).run s

/-- OR (R134). -/
def execOr (f : AluI) (s : State) : Host.Outcome State Fault Refusal :=
  (AluI.op f fun vs => plain (bitsOf vs 0 ||| bitsOf vs 1)).run s

/-- XOR (R134). -/
def execXor (f : AluI) (s : State) : Host.Outcome State Fault Refusal :=
  (AluI.op f fun vs => plain (bitsOf vs 0 ^^^ bitsOf vs 1)).run s

/-- ANDN: a and not b (R134). -/
def execAndn (f : AluI) (s : State) : Host.Outcome State Fault Refusal :=
  (AluI.op f fun vs => plain (bitsOf vs 0 &&& ~~~(bitsOf vs 1))).run s

/-- NOT (R134). -/
def execNot (f : AluI1) (s : State) : Host.Outcome State Fault Refusal :=
  (AluI1.op f fun vs => plain (~~~(bitsOf vs 0))).run s

/-- A shift of each element by the matching element of B, mod W; an immediate shifts every element alike (R135). -/
def AluI.shift (f : AluI) (g : Nat → Nat → Nat → Nat) : AluOp :=
  AluI.op f fun vs =>
    let w := (IntTy.shape f.ty).1
    plain (IntTy.mapU f.ty (fun w xs => g w (arg xs 0) (arg xs 1 % w)) [vs.getD 0 {}, vs.getD 1 {}] &&&
      (if w = 64 then BitVec.allOnes 64 else 0xFFFFFFFF))

/-- SHL (R135). -/
def execShl (f : AluI) (s : State) : Host.Outcome State Fault Refusal :=
  (AluI.shift f fun w a k => a * 2 ^ k % 2 ^ w).run s

/-- SHR (R135). -/
def execShr (f : AluI) (s : State) : Host.Outcome State Fault Refusal := (AluI.shift f fun _ a k => a / 2 ^ k).run s

/-- SAR (R135). -/
def execSar (f : AluI) (s : State) : Host.Outcome State Fault Refusal :=
  (AluI.shift f fun w a k => wrapTo w (signed w a / 2 ^ k)).run s

/-- ROT, to the left (R135). -/
def execRot (f : AluI) (s : State) : Host.Outcome State Fault Refusal :=
  (AluI.shift f fun w a k => (a * 2 ^ k + a / 2 ^ (w - k)) % 2 ^ w).run s

/-! ### Bit fields and bytes (R136 to R138) -/

/-- BFX and BFI: offset and length are unsigned 32-bit values. -/
def u32At (vs : List OpVal) (i : Nat) : Nat := (bitsOf vs i).toNat % 2 ^ 32

/-- The field BFX extracts. -/
def bfx (t : IntTy) (a off len : Nat) : Nat :=
  let w := (IntTy.shape t).1
  let off := min off w
  let len := min len w
  if len = 0 then 0
  else
    let f := (IntTy.elem t 0 a / 2 ^ off % 2 ^ len).toNat
    if t.signed then wrapTo w (signed len f) else f

/-- BFX (R136). -/
def execBfx (f : AluI3) (s : State) : Host.Outcome State Fault Refusal :=
  AluOp.run { g := f.g, dst := intDest f.d f.ty, srcs := [.op f.a f.ty.w64, .op f.b false, .op f.c false],
              f := fun _ _ _ vs => plain (BitVec.ofNat 64 (bfx f.ty (bitsOf vs 0).toNat (u32At vs 1) (u32At vs 2))) } s

/-- The mask of a BFI field of a W-bit word. -/
def bfiMask (w off len : Nat) : Word64 :=
  let off := min off w
  BitVec.ofNat 64 ((2 ^ (min len (w - off)) - 1) * 2 ^ off)

/-- BFI, with D as its base (R136). -/
def execBfi (f : AluI3) (s : State) : Host.Outcome State Fault Refusal :=
  let w := (IntTy.shape f.ty).1
  AluOp.run { g := f.g, dst := intDest f.d f.ty,
              srcs := [.op f.a f.ty.w64, .op f.b false, .op f.c false, .op f.d f.ty.w64],
              f := fun _ _ _ vs =>
                let m := bfiMask w (u32At vs 1) (u32At vs 2)
                plain ((bitsOf vs 3 &&& ~~~m) ||| ((bitsOf vs 0 <<< min (u32At vs 1) w) &&& m)) } s

/-- The zero bits above the highest 1 of a w-bit number. -/
def clzOf (w x : Nat) : Nat := w - bitLen x

/-- CLZ (R137). -/
def execClz (f : AluI1) (s : State) : Host.Outcome State Fault Refusal :=
  (AluI1.op f fun vs => plain (IntTy.mapU f.ty (fun w xs => clzOf w (arg xs 0)) vs)).run s

/-- The 1 bits among the low w. -/
def popOf (w x : Nat) : Nat := ((List.range w).filter fun i => bitOf x i).length

/-- POPC (R137). -/
def execPopc (f : AluI1) (s : State) : Host.Outcome State Fault Refusal :=
  (AluI1.op f fun vs => plain (IntTy.mapU f.ty (fun w xs => popOf w (arg xs 0)) vs)).run s

/-- Bit i to bit w-1-i. -/
def revOf (w x : Nat) : Nat := (List.range w).foldl (fun a i => if bitOf x i then a + 2 ^ (w - 1 - i) else a) 0

/-- BREV (R137). -/
def execBrev (f : AluI1) (s : State) : Host.Outcome State Fault Refusal :=
  (AluI1.op f fun vs => plain (IntTy.mapU f.ty (fun w xs => revOf w (arg xs 0)) vs)).run s

/-- One byte of PERMB. -/
def permByte (a b i : Nat) : Nat :=
  let n := b / 2 ^ (4 * i) % 16
  let y := a / 2 ^ (8 * (n % 4)) % 256
  if bitOf n 3 then 0 else if bitOf n 2 then (if 128 ≤ y then 255 else 0) else y

/-- PERMB (R138). -/
def execPermb (f : AluI) (s : State) : Host.Outcome State Fault Refusal :=
  (AluI.op f fun vs =>
    plain (BitVec.ofNat 64 (packElems 8 ((List.range 4).map (permByte (u32At vs 0) (u32At vs 1)))))).run s

/-! ### Compare, select, move (R139 to R142) -/

def ICond.holds : ICond → Int → Int → Bool
  | .eq, a, b => a = b
  | .ne, a, b => a ≠ b
  | .lt, a, b => a < b
  | .le, a, b => a ≤ b
  | .gt, a, b => b < a
  | .ge, a, b => b ≤ a

def flagVal (b : Bool) : OpVal := .nat (if b then 1 else 0)

/-- ICMP (R139). -/
def execIcmp (cc : ICond) (g : Guard) (ty : IntTy) (pd : Fin 8) (a : Operand) (b : SrcB) (s : State) :
    Host.Outcome State Fault Refusal :=
  AluOp.run { g := g, dst := .pred pd, srcs := [.op a ty.w64, SrcB.src b ty.w64],
              f := fun _ _ _ vs => (flagVal (ICond.holds cc (IntTy.elem ty 0 (bitsOf vs 0).toNat)
                (IntTy.elem ty 0 (bitsOf vs 1).toNat)), 0) } s

/-- Quiet float comparison: -0 equals +0, a NaN is unordered (R140). -/
def FCond.holds (cc : FCond) (a b : FV) : Bool :=
  let uno := a.isNaN || b.isNaN
  match cc with
  | .eq => !uno && a.eq b
  | .ne => uno || !a.eq b
  | .lt => !uno && a.lt b
  | .le => !uno && !b.lt a
  | .gt => !uno && b.lt a
  | .ge => !uno && !a.lt b
  | .uno => uno
  | .ord => !uno

/-- FCMP (R140). -/
def execFcmp (cc : FCond) (g : Guard) (_ty : FloatTy) (_rnd : Rnd) (pd : Fin 8) (a : Operand) (b : SrcB) (s : State) :
    Host.Outcome State Fault Refusal :=
  AluOp.run { g := g, dst := .pred pd, srcs := [.op a false, SrcB.src b false],
              f := fun c s l vs =>
                let ftz := modeFtz (c.mode s l)
                let x := fp32.read ftz (u32At vs 0)
                let y := fp32.read ftz (u32At vs 1)
                (flagVal (FCond.holds cc x y), sigFlag [x, y]), float := true } s

/-- SEL: the lane's predicate bit chooses; on the scalar unit the lane that counts is the lowest of Eff (R141). -/
def execSel (g : Guard) (ty : IntTy) (d a b : Operand) (p : Fin 8) (neg : Bool) (s : State) :
    Host.Outcome State Fault Refusal :=
  AluOp.run { g := g, dst := intDest d ty, srcs := [.op a ty.w64, .op b ty.w64],
              f := fun c _ l vs =>
                plain (if (c.w.pAt p.val).getLsbD l != neg then bitsOf vs 0 else bitsOf vs 1) } s

/-- MOV: a register source hands on its residue code in types s32 and z32 (R128, R142). -/
def execMov (g : Guard) (ty : IntTy) (d : Operand) (b : SrcB) (s : State) : Host.Outcome State Fault Refusal :=
  AluOp.run { g := g, dst := intDest d ty, srcs := [SrcB.src b ty.w64],
              f := fun _ _ _ vs =>
                let v := vs.getD 0 {}
                if IntTy.predicts ty then (v, 0) else plain v.val } s

/-! ### Modular arithmetic (R143, R144) -/

def badModulus (m : Nat) : Bool := m < 2 || 2 ^ 31 - 1 < m

/-- A modular instruction with its modulus in C. -/
def AluI3.modOp (f : AluI3) (g : Int → Int → Int) : AluOp :=
  { AluI3.op f (fun vs =>
      let m := u32At vs 2
      plain (BitVec.ofNat 64
        ((g (IntTy.elem f.ty 0 (bitsOf vs 0).toNat) (IntTy.elem f.ty 0 (bitsOf vs 1).toNat)) % (m : Int)).toNat)) with
    bad := fun vs => badModulus (u32At vs 2) }

/-- MODMUL (R143). -/
def execModmul (f : AluI3) (s : State) : Host.Outcome State Fault Refusal := (AluI3.modOp f fun a b => a * b).run s

/-- MODADD (R143). -/
def execModadd (f : AluI3) (s : State) : Host.Outcome State Fault Refusal := (AluI3.modOp f fun a b => a + b).run s

/-- MODSUB (R143). -/
def execModsub (f : AluI3) (s : State) : Host.Outcome State Fault Refusal := (AluI3.modOp f fun a b => a - b).run s

/-- Extended Euclid: from r0 and r1 with coefficients t0 and t1 to the last nonzero remainder and its coefficient. -/
def euclid : Nat → Int → Int → Int → Int → Int × Int
  | 0, r0, _, t0, _ => (r0, t0)
  | n + 1, r0, r1, t0, t1 => if r1 = 0 then (r0, t0) else euclid n r1 (r0 % r1) t1 (t0 - r0 / r1 * t1)

/-- The inverse of a mod m, or 0 if there is none. -/
def modInverse (a m : Int) : Nat :=
  let r := euclid 64 m (a % m) 0 1
  if r.1 = 1 then (r.2 % m).toNat else 0

/-- MODRCP, with its modulus in B (R144). -/
def execModrcp (f : AluI) (s : State) : Host.Outcome State Fault Refusal :=
  AluOp.run { AluI.op f (fun vs =>
      plain (BitVec.ofNat 64 (modInverse (IntTy.elem f.ty 0 (bitsOf vs 0).toNat) (u32At vs 1)))) with
    bad := fun vs => badModulus (u32At vs 1) } s

end Sys2Proof.Machine
end

