-- ==== Sys2Proof/Machine/AluFloat.lean ====
section
/-! DEFINITION. Float arithmetic, the correctly rounded functions and conversion (R145 to R147, R98). -/

namespace Sys2Proof.Machine

/-! ### Elements -/

/-- The format of a float TYPE's elements, and how many there are (R65). -/
def FloatTy.fmt : FloatTy → FFmt
  | .f32 => fp32
  | .f16x2 => fp16
  | .bf16x2 => bf16

def FloatTy.elems : FloatTy → Nat
  | .f32 => 1
  | .f16x2 | .bf16x2 => 2

def FFmt.width (f : FFmt) : Nat := f.p + f.expBits

/-- How many RSTO roundings an instruction of n elements counts in a lane (R100). -/
def rstoCounts (r : Rnd) (n : Nat) (mode : Word64) : Nat := if resolveRnd r mode = 6 then n else 0

/-- Apply a float function to each element, rounding each once (R145). -/
def FloatTy.map (t : FloatTy) (r : Rnd) (g : RMode → List FV → Pre × Sticky) (c : Ctx) (s : State) (l : Nat)
    (vs : List OpVal) : OpVal × Sticky :=
  let f := FloatTy.fmt t
  let rs := (List.range (FloatTy.elems t)).map fun e =>
    let m := c.rmode s r l e
    let p := g m (vs.map fun v => f.read m.ftz (elemU f.width e v.val.toNat))
    let x := f.round m p.1
    (x.1, p.2 ||| x.2)
  (.nat (packElems f.width (rs.map (·.1))), rs.foldl (fun a x => a ||| x.2) 0)

def floatDest (d : Operand) : Dest := .reg d false .zero

def AluF.srcs (f : AluF) : List Src := [.op f.a false, SrcB.src f.b false]

/-- A float instruction D, A, B. -/
def AluF.op (f : AluF) (g : RMode → List FV → Pre × Sticky) : AluOp :=
  { g := f.g, dst := floatDest f.d, srcs := AluF.srcs f, f := FloatTy.map f.ty f.rnd g,
    count := rstoCounts f.rnd (FloatTy.elems f.ty), float := true }

/-- The i-th operand of an element. -/
def fArg (vs : List FV) (i : Nat) : FV := vs.getD i (.fin false 0 0)

/-- FADD (R145). -/
def execFadd (f : AluF) (s : State) : Host.Outcome State Fault Refusal :=
  (AluF.op f fun m vs => fAddPre m (fArg vs 0) (fArg vs 1)).run s

/-- FSUB: a - b (R145). -/
def execFsub (f : AluF) (s : State) : Host.Outcome State Fault Refusal :=
  (AluF.op f fun m vs => fAddPre m (fArg vs 0) (fArg vs 1).negate).run s

/-- FMUL (R145). -/
def execFmul (f : AluF) (s : State) : Host.Outcome State Fault Refusal :=
  (AluF.op f fun _ vs => fMulPre (fArg vs 0) (fArg vs 1)).run s

/-- FFMA: one rounding of a·b + c (R145). -/
def execFfma (f : AluF3) (s : State) : Host.Outcome State Fault Refusal :=
  AluOp.run { g := f.g, dst := floatDest f.d, srcs := [.op f.a false, .op f.b false, .op f.c false],
              f := FloatTy.map f.ty f.rnd fun m vs =>
                fSumPre m [fProd (fArg vs 0) (fArg vs 1)] (fArg vs 2) (sigFlag vs),
              count := rstoCounts f.rnd (FloatTy.elems f.ty), float := true } s

/-- FMIN and FMAX deliver an operand without rounding (R145). -/
def FloatTy.minMax (t : FloatTy) (isMax : Bool) (c : Ctx) (s : State) (l : Nat) (vs : List OpVal) : OpVal × Sticky :=
  let f := FloatTy.fmt t
  let ftz := modeFtz (c.mode s l)
  let rs := (List.range (FloatTy.elems t)).map fun e =>
    let xs := vs.map fun v => f.read ftz (elemU f.width e v.val.toNat)
    let x := fMinMax isMax (fArg xs 0) (fArg xs 1)
    (f.put x.1, x.2)
  (.nat (packElems f.width (rs.map (·.1))), rs.foldl (fun a x => a ||| x.2) 0)

/-- FMIN (R145). -/
def execFmin (f : AluF) (s : State) : Host.Outcome State Fault Refusal :=
  AluOp.run { g := f.g, dst := floatDest f.d, srcs := AluF.srcs f, f := FloatTy.minMax f.ty false,
              count := rstoCounts f.rnd (FloatTy.elems f.ty), float := true } s

/-- FMAX (R145). -/
def execFmax (f : AluF) (s : State) : Host.Outcome State Fault Refusal :=
  AluOp.run { g := f.g, dst := floatDest f.d, srcs := AluF.srcs f, f := FloatTy.minMax f.ty true,
              count := rstoCounts f.rnd (FloatTy.elems f.ty), float := true } s

/-- FDOT2: a0·b0 + a1·b1 + c, rounded once to FP32 (R145). -/
def execFdot2 (f : AluF3) (s : State) : Host.Outcome State Fault Refusal :=
  AluOp.run { g := f.g, dst := floatDest f.d, srcs := [.op f.a false, .op f.b false, .op f.c false],
              f := fun c s l vs =>
                let t := FloatTy.fmt f.ty
                let m := c.rmode s f.rnd l 0
                let x (i e : Nat) := t.read m.ftz (elemU t.width e (bitsOf vs i).toNat)
                let z := fp32.read m.ftz (u32At vs 2)
                let p := fSumPre m [fProd (x 0 0) (x 1 0), fProd (x 0 1) (x 1 1)] z
                  (sigFlag [x 0 0, x 1 0, x 0 1, x 1 1, z])
                let y := fp32.round m p.1
                (.nat y.1, p.2 ||| y.2),
              count := rstoCounts f.rnd 1, float := true } s

/-! ### Functions (R146) -/

/-- A function instruction D, A of FP32. -/
def AluF1.op (f : AluF1) (g : FV → Pre × Sticky) : AluOp :=
  { g := f.g, dst := floatDest f.d, srcs := [.op f.a false],
    f := FloatTy.map .f32 f.rnd fun _ vs => g (fArg vs 0), count := rstoCounts f.rnd 1, float := true }

/-- The exact value 1. -/
def preOne : Pre := .num false ⟨1, 0, false⟩

/-- 1/x. -/
def recipPre : FV → Pre × Sticky
  | .nan sg => (.nan, if sg then fNV else 0)
  | .inf n => (.zero n, 0)
  | .fin n 0 _ => (.inf n, fDZ)
  | .fin n m e => (.num n (recipMag m e), 0)

/-- 1/sqrt(x). -/
def rsqrtPre : FV → Pre × Sticky
  | .nan sg => (.nan, if sg then fNV else 0)
  | .inf n => if n then (.nan, fNV) else (.zero false, 0)
  | .fin n 0 _ => (.inf n, fDZ)
  | .fin n m e => if n then (.nan, fNV) else (.num false (rsqrtMag m e), 0)

/-- m·2^e as an integer, if it is one. -/
def intOf (m : Nat) (e : Int) : Option Nat :=
  if 0 ≤ e then some (m * 2 ^ e.toNat) else if m % 2 ^ (-e).toNat = 0 then some (m / 2 ^ (-e).toNat) else none

/-- 2^x. -/
def exp2Pre : FV → Pre × Sticky
  | .nan sg => (.nan, if sg then fNV else 0)
  | .inf n => (if n then .zero false else .inf false, 0)
  | .fin n m e =>
    if m = 0 then (preOne, 0)
    else if 4096 ≤ m * 2 ^ e.toNat / 2 ^ (-e).toNat then
      (.num false ⟨2 ^ 63, if n then -5063 else 4937, true⟩, 0)      -- beyond every range: only its size counts
    else
      match intOf m e with
      | some k => (.num false ⟨1, if n then -(k : Int) else k, false⟩, 0)
      | none => (ziv (exp2Fix n m e) 8 192, 0)

/-- log2 x. -/
def log2Pre : FV → Pre × Sticky
  | .nan sg => (.nan, if sg then fNV else 0)
  | .inf n => if n then (.nan, fNV) else (.inf false, 0)
  | .fin n m e =>
    if m = 0 then (.inf true, fDZ)
    else if n then (.nan, fNV)
    else if m = 2 ^ (bitLen m - 1) then
      let k : Int := (bitLen m : Int) - 1 + e
      (if k = 0 then .zero false else .num (k < 0) ⟨k.natAbs, 0, false⟩, 0)
    else (ziv (log2Fix m e) 8 192, 0)

/-- sin x and cos x. -/
def trigPre (cos : Bool) : FV → Pre × Sticky
  | .nan sg => (.nan, if sg then fNV else 0)
  | .inf _ => (.nan, fNV)
  | .fin n m e =>
    if m = 0 then (if cos then preOne else .zero n, 0) else (ziv (trigFix cos n m e) 8 256, 0)

/-- FRCP (R146). -/
def execFrcp (f : AluF1) (s : State) : Host.Outcome State Fault Refusal := (AluF1.op f recipPre).run s

/-- FRSQ (R146). -/
def execFrsq (f : AluF1) (s : State) : Host.Outcome State Fault Refusal := (AluF1.op f rsqrtPre).run s

/-- FEXP2 (R146). -/
def execFexp2 (f : AluF1) (s : State) : Host.Outcome State Fault Refusal := (AluF1.op f exp2Pre).run s

/-- FLOG2 (R146). -/
def execFlog2 (f : AluF1) (s : State) : Host.Outcome State Fault Refusal := (AluF1.op f log2Pre).run s

/-- FSIN (R146). -/
def execFsin (f : AluF1) (s : State) : Host.Outcome State Fault Refusal := (AluF1.op f (trigPre false)).run s

/-- FCOS (R146). -/
def execFcos (f : AluF1) (s : State) : Host.Outcome State Fault Refusal := (AluF1.op f (trigPre true)).run s

/-! ### Conversion (R98, R147) -/

/-- Width and signedness of an integer format (R85). -/
def Fmt.int? : Fmt → Option (Nat × Bool)
  | .i4 => some (4, true) | .u4 => some (4, false) | .i8 => some (8, true) | .u8 => some (8, false)
  | .i16 => some (16, true) | .u16 => some (16, false) | .i32 => some (32, true) | .u32 => some (32, false)
  | .i64 => some (64, true) | .u64 => some (64, false)
  | _ => none

/-- A float format. -/
def Fmt.float? : Fmt → Option FFmt
  | .f32 => some fp32 | .f16 => some fp16 | .bf16 => some bf16
  | _ => none

/-- The ends of an integer range (R85). -/
def rangeLo (w : Nat) (sg : Bool) : Int := if sg then -2 ^ (w - 1) else 0
def rangeHi (w : Nat) (sg : Bool) : Int := if sg then 2 ^ (w - 1) - 1 else 2 ^ w - 1

/-- A value clamped to an integer range. -/
def clampTo (w : Nat) (sg : Bool) (x : Int) : Int := max (rangeLo w sg) (min (rangeHi w sg) x)

/-- An integer to an integer: wrapped, or clamped with SAT. -/
def intToInt (w : Nat) (sg sat : Bool) (x : Int) : Int × Sticky :=
  let y := clampTo w sg x
  if y = x then (x, 0)
  else if sat then (y, fSAT)
  else (if sg then signed w (wrapTo w x) else wrapTo w x, 0)

/-- Round an exact value to a float format; under saturation an overflow gives ±L and SAT. -/
def FFmt.convert (f : FFmt) (r : RMode) (sat : Bool) : Pre → Nat × Sticky
  | .num neg x =>
    let y := f.roundMag r neg x
    if sat && y.2.2 then (f.maxBits neg, y.2.1 ||| fSAT) else (y.1, y.2.1)
  | .inf neg => if sat then (f.maxBits neg, fOF ||| fNX ||| fSAT) else (f.infBits neg, 0)
  | p => f.round r p

/-- An exact integer as a value to round. -/
def intPre (x : Int) : Pre := if x = 0 then .zero false else .num (x < 0) ⟨x.natAbs, 0, false⟩

/-- A float operand as a value to round. -/
def FV.pre : FV → Pre
  | .nan _ => .nan
  | .inf n => .inf n
  | .fin n m e => if m = 0 then .zero n else .num n ⟨m, e, false⟩

/-- A float to an integer (R98): rounded by the mode, with the NX of `Round` (R97); out of range it also clamps and raises NV;
a NaN gives 0 and NV. -/
def floatToInt (w : Nat) (sg sat : Bool) (r : RMode) (v : FV) : Int × Sticky :=
  let beyond (neg : Bool) : Int × Sticky :=
    (if neg then rangeLo w sg else rangeHi w sg, if sat then fNV ||| fSAT else fNV)
  match v with
  | .nan _ => (0, fNV)
  | .inf n => beyond n
  | .fin n m e =>
    if m = 0 then (0, 0)
    else
      let k := r.pick n ⟨m, e, false⟩ 0
      let x : Int := if n then -(k.1 : Int) else k.1
      let nx : Sticky := if k.2 then 0 else fNX
      if x < rangeLo w sg ∨ rangeHi w sg < x then ((beyond n).1, (beyond n).2 ||| nx) else (x, nx)

/-- The bits of an integer result: 64 of them, or 32 with a narrower one extended by its format. -/
def intBits (w : Nat) (x : Int) : Nat := if w = 64 then wrapTo 64 x else wrapTo 32 x

/-- One conversion, from the register bits of the source to those of the result (R98, R147). -/
def convert (sat : Bool) (dst src : Fmt) (r : RMode) (x : Nat) : Nat × Sticky :=
  match Fmt.int? src, Fmt.float? src, Fmt.int? dst, Fmt.float? dst with
  | some (w, sg), _, some (w', sg'), _ =>
    let y := intToInt w' sg' sat (if sg then signed w (x % 2 ^ w) else (x % 2 ^ w : Nat))
    (intBits w' y.1, y.2)
  | some (w, sg), _, _, some f => f.convert r sat (intPre (if sg then signed w (x % 2 ^ w) else (x % 2 ^ w : Nat)))
  | _, some f, some (w', sg'), _ =>
    let y := floatToInt w' sg' sat r (f.read r.ftz (x % 2 ^ f.width))
    (intBits w' y.1, y.2)
  | _, some f, _, some f' =>
    let v := f.read r.ftz (x % 2 ^ f.width)
    let y := f'.convert r sat v.pre
    (y.1, sigFlag [v] ||| y.2)
  | _, _, _, _ => (0, 0)

/-- How a scalar receives a converted result (R126). -/
def Fmt.ext (f : Fmt) : Ext :=
  match Fmt.int? f with
  | some (_, true) => .sign
  | _ => .zero

/-- A format whose conversions VERIFY issues twice (R130). -/
def Fmt.verified (f : Fmt) : Bool := f = .f32 || f = .f16 || f = .bf16

/-- A conversion instruction. -/
def CvtForm.op (f : CvtForm) (sat : Bool) : AluOp :=
  { g := f.g, dst := .reg f.d f.dst.w64 (Fmt.ext f.dst), srcs := [.op f.a f.src.w64],
    f := fun c s l vs =>
      let y := convert sat f.dst f.src (c.rmode s f.rnd l 0) (bitsOf vs 0).toNat
      (.nat y.1, y.2),
    count := rstoCounts f.rnd 1
    float := Fmt.verified f.dst || Fmt.verified f.src }

/-- CVT (R147). -/
def execCvt (f : CvtForm) (s : State) : Host.Outcome State Fault Refusal := (CvtForm.op f false).run s

/-- CVT.sat (R147). -/
def execCvtSat (f : CvtForm) (s : State) : Host.Outcome State Fault Refusal := (CvtForm.op f true).run s

end Sys2Proof.Machine
end

