-- ==== Sys2Proof/Machine/Place.lean ====
section
/-! DEFINITION. Where waves, groups and gangs stand (R358 to R366, R373 to R375, R421 to R424): room on cores, eviction,
restore, joining, suspension and resumption. -/

namespace Sys2Proof.Machine

/-! ### Room (R115, R116, R209, R246, R358) -/

def quarterSlots (q : Nat) : List Nat := (List.range 16).map fun i => 16 * q + i

/-- The resident waves of a quarter. -/
def quarterWaves (s : State) (c q : Nat) : List Wave :=
  (quarterSlots q).filterMap fun sl => (NMap.get? (s.core c).slots sl).bind s.wave?

/-- Registers of a quarter pool that no wave and no group pool holds (R115, R116). -/
def freeRegs (s : State) (c q : Nat) : Nat :=
  let waves := (quarterWaves s c q).foldl (fun n w => n + w.allot + if w.scalPool then 2 else 0) 0
  let pools := s.groups.foldl (fun n g => n + 8 * NMap.getD g.2.pools (4 * c + q) 0) 0
  1024 - (waves + pools)

/-- A free scalar set remains in the quarter (R115). -/
def scalarSetFree (s : State) (c q : Nat) : Bool :=
  ((quarterWaves s c q).filter fun w => !w.helperWave && !w.scalPool).length < 8

/-- Take blocks out of a pool. -/
def dropBlocks (pools : NMap Nat) (key n : Nat) : NMap Nat := NMap.set pools key (NMap.getD pools key 0 - n)

/-- Take up to this many registers from the group pools of a quarter, group by group (R116). -/
def drainPools (key : Nat) : List (Nat × Group) → Nat → List (Nat × Group)
  | [], _ => []
  | (i, g) :: gs, need =>
    let n := min (NMap.getD g.pools key 0) ((need + 7) / 8)
    (i, if n = 0 then g else { g with pools := dropBlocks g.pools key n }) :: drainPools key gs (need - 8 * n)

/-- Registers of a quarter for incoming work: the free ones, then the blocks of group pools (R116). -/
def claimRegs (s : State) (c q need : Nat) : State :=
  if need ≤ freeRegs s c q then s
  else { s with groups := drainPools (4 * c + q) s.groups (need - freeRegs s c q) }

/-- Registers a quarter can give, group pools included. -/
def givableRegs (s : State) (c q : Nat) : Nat :=
  freeRegs s c q + s.groups.foldl (fun n g => n + 8 * NMap.getD g.2.pools (4 * c + q) 0) 0

def slotFree (s : State) (c sl : Nat) : Bool := sl < 64 && (NMap.get? (s.core c).slots sl).isNone

/-- A slot can take a wave with this allotment. -/
def slotFits (s : State) (c sl regs : Nat) : Bool :=
  slotFree s c sl &&
    regs + (if scalarSetFree s c (quarterOf sl) then 0 else 2) ≤ givableRegs s c (quarterOf sl)

/-- Some slot of a core can take a wave with this allotment. -/
def coreFits (s : State) (c regs : Nat) : Bool := (List.range 64).any fun sl => slotFits s c sl regs

/-- Put a wave into a slot that fits it. -/
def seatWave (s : State) (w c sl : Nat) : State :=
  match s.wave? w with
  | some x =>
    let pool := !scalarSetFree s c (quarterOf sl)
    let s := claimRegs s c (quarterOf sl) (x.allot + if pool then 2 else 0)
    (s.modCore c fun k => { k with slots := NMap.set k.slots sl w }).modWave w fun x =>
      { x with place := .resident c sl, scalPool := pool }
  | none => s

def tilesUsed (s : State) (c : Nat) : Nat := (coreGroups s c).foldl (fun n g => n + g.2.tiles.length) 0

def barFree (s : State) (c n : Nat) : Bool := (s.bar c n).owner.isNone

def queueFree (s : State) (c n : Nat) : Bool := ((NMap.get? (s.core c).queues n).bind (·.owner)).isNone

/-- The most banks the scratchpad may take while banks are requested or gated: up to the lowest of them above it (R502). -/
def bankLimit (s : State) (c : Nat) : Nat :=
  let k := s.core c
  ((List.range 8).find? fun i => k.scratchBanks ≤ i && (k.bankReq ||| k.bankGated).getLsbD i).getD 7

/-- Everything but slots and registers that a group needs on a core (R358, R502). -/
def groupFits (s : State) (c scratch ntile : Nat) (bmask : BitVec 16) (qmask : BitVec 4) : Bool :=
  scratchUsed s c + scratch ≤ 458752 && banksFor (scratchUsed s c + scratch) ≤ bankLimit s c && tilesUsed s c + ntile ≤ 16 &&
    (List.range 16).all (fun n => !bmask.getLsbD n || barFree s c n) &&
    (List.range 4).all (fun n => !qmask.getLsbD n || queueFree s c n)

/-- A list of slots of one core that its waves can take together: each fits once those before it are taken. -/
def slotsFit (s : State) (c : Nat) : List (Nat × Nat) → Bool
  | [] => true
  | (sl, regs) :: rest =>
    slotFits s c sl regs &&
      slotsFit (s.setWave (NMap.fresh s.waves) { group := 0, waveid := 0, allot := regs } |> fun t =>
        seatWave t (NMap.fresh s.waves) c sl) c rest

/-- The priority of the grid a wave belongs to. -/
def wavePrio (s : State) (w : Nat) : Nat := (((nodeOfWave s w).bind s.node?).map (·.prio)).getD 0

def gangPrio (s : State) (g : Nat) : Nat := (((s.gang? g).bind fun x => s.node? x.node).map (·.prio)).getD 0

/-- The core of a wave's group. -/
def homeCore (s : State) (w : Wave) : Nat := (s.group w.group).core

/-- The slot and registers of a wave are held (R366). -/
def WavePlace.onCore : WavePlace → Bool
  | .resident .. => true
  | _ => false

/-- A context of the wave is saved (R366). -/
def WavePlace.saved : WavePlace → Bool
  | .evicted _ | .joining | .suspended _ => true
  | .resident .. | .damaged | .ended => false

/-! ### The context pool (R422 to R424) -/

/-- Blocks of a wave's context, by `REGS` of its kernel descriptor. -/
def waveBlocks (s : State) (w : Nat) : Nat :=
  12 + (144 * (((nodeOfWave s w).bind s.node?).map fun nd => recNat nd.kd 8 2).getD 0 + 507) / 508

def groupBlocks (g : Group) : Nat := 16 + (g.scratchSize + 507) / 508 + 194 * g.tiles.length

/-- Blocks of the pools that hold a context. -/
def usedBlocks (s : State) : List Nat :=
  (s.waves.flatMap fun w => if w.2.place.saved then w.2.ctx else []) ++
    s.groups.flatMap fun g => if g.2.live then g.2.ctx else []

/-- Blocks of a tower's pool that hold nothing, lowest address first. -/
def freeBlocks (s : State) (t : Nat) : List Nat :=
  let used := usedBlocks s
  ((List.range ((s.tower t).ctxSize.toNat / 512)).map fun i => (s.tower t).ctxBase.toNat + 512 * i).filter fun a => !used.contains a

/-- Blocks that the requests pending in a tower will need (R421). -/
def pendingBlocks (s : State) (t : Nat) : Nat :=
  let asked (gi : Nat) : Bool := ((s.gang? gi).map (·.suspendReq)).getD false
  let ws := s.waves.filter fun w => w.2.place.onCore && !w.2.helperWave && towerOf (homeCore s w.2) = t &&
    (w.2.evictReq || asked (s.group w.2.group).gang)
  let gs := s.groups.filter fun g => g.2.live && towerOf g.2.core = t && asked g.2.gang
  ws.foldl (fun n w => n + waveBlocks s w.1) 0 + gs.foldl (fun n g => n + groupBlocks g.2) 0

/-- The pool has room for this many blocks more. -/
def poolFits (s : State) (t n : Nat) : Bool := pendingBlocks s t + n ≤ (freeBlocks s t).length

/-- Write one block: 508 bytes that the spec does not lay out, and their CRC-32C (R423).
DEDUCED, unsafe: log entry 21. -/
def writeCtx (s : State) (a : Nat) : State :=
  let bs := ((List.range 64).flatMap fun i => leBytes (Config.word (s.free + i)).toNat 8).take 508
  let all := bs ++ leBytes (crc32c bs) 4
  (List.range 8).foldl (fun s i => homeWrite s (a + 64 * i) ((all.drop (64 * i)).take 64)) { s with free := s.free + 64 }

/-- Write the context of a wave to the lowest free blocks of its tower's pool (R422, R423). -/
def saveContext (s : State) (w : Nat) : State :=
  match s.wave? w with
  | none => s
  | some x =>
    let bs := (freeBlocks s (towerOf (homeCore s x))).take (waveBlocks s w)
    (bs.foldl writeCtx s).modWave w fun x => { x with ctx := bs }

/-- A block has an uncorrectable error, or its tag does not match (R424). -/
def blockBad (s : State) (a : Nat) : Bool :=
  (List.range 8).any (fun i => lineBad s (a + 64 * i)) ||
    crc32c (Memory.readBytes s.mem a 508) ≠ Memory.readNat s.mem (a + 508) 4

/-- The block that fails as a context is restored: one that this read finds uncorrectable, else the first that is bad. -/
def damagedBlock (s : State) (ctx : List Nat) (found : Option Nat) : Option Nat :=
  (found.filter fun b => ctx.contains b) <|> ctx.find? (blockBad s)

/-- Phase records of a cluster; its control die holds 64 of them (R374). -/
def phaseRecords (s : State) (k : Nat) : Nat :=
  (s.waves.filter fun x => clusterOf (homeCore s x.2) = k && (x.2.place = .joining || x.2.place = .suspended true)).length

/-! ### Leaving a core -/

/-- A napping split is restored Ready (R167), and the words fetched for a Held one are fetched anew. -/
def Split.endNap (sp : Split) : Split :=
  match sp.state with
  | .held (.nap _) => { sp with state := .ready, fetched := none }
  | _ => { sp with fetched := none }

/-- A wave stops at a clause boundary and gives up its slot and registers (R196, R394, R395). -/
def leaveCore (s : State) (w : Nat) (place : WavePlace) : State :=
  match s.wave? w with
  | some x =>
    match x.place with
    | .resident c sl =>
      let helpers := maskOf fun l => (NMap.get? x.helpers l).isSome
      let back := x.serving
      let s := s.modWave w fun x => x.abortTx 7 0 allLanes
      let s := releaseLanes s w helpers
      let s := freeSlot s c sl
      s.modWave w fun x => { x.addRejoin back with
        place := place, issue := none, evictReq := false, scalPool := false
        frame := { x.frame with ovd := false }
        splits := NMap.mapVal x.splits fun _ sp => sp.endNap, parkedSplits := x.parkedSplits.map Split.endNap }
    | _ => s
  | none => s

/-- Eviction of a wave that is between clauses (R363). -/
def evictNow (s : State) (w : Nat) : State := (saveContext (leaveCore s w (.evicted s.stamp)) w).bump

/-- The wave may stop now: it is resident, between clauses, with no chunk that is to commit first, and its mask is clear (R54,
R406, R421). -/
def Wave.canStop (x : Wave) : Bool :=
  x.issue.isNone && x.splits.all (fun sp => sp.2.cont.isNone) && x.parkedSplits.all (fun sp => sp.cont.isNone) &&
    x.helpers.all (fun h => !h.2.keep) && !x.frame.mask && match x.place with
    | .resident .. => true
    | _ => false

/-- An eviction or suspension request arrives and pends (R421). -/
def Wave.pend (x : Wave) (now : Nat) : Wave :=
  if x.evictReq then x else { x with evictReq := true, reqAt := now, frame := { x.frame with ovd := false } }

/-! ### Joining (R373 to R375) -/

/-- The carry registers of the kernel a wave runs (R347). -/
def carrySet (s : State) (w : Nat) : List Nat :=
  match (nodeOfWave s w).bind s.node? with
  | some nd => ((nd.kd.drop 16).take 16).filterMap fun b => if b.toNat < 192 then some b.toNat else none
  | none => []

/-- A wave parks on its join counter: its carry registers and control state stay, its slot and registers go (R373). -/
def parkJoin (s : State) (w pa : Nat) (va : Word64) : State :=
  match s.wave? w with
  | some x =>
    match x.place with
    | .resident c sl =>
      let full := 64 ≤ phaseRecords s (clusterOf (homeCore s x))
      let s := leaveCore s w .joining
      let s := if full then saveContext s w else s
      let keep := carrySet s w
      let s := s.modWave w fun x => { x with
        joinAddr := some (pa, va), joinZero := false, woken := none, v := x.v.filter fun e => keep.contains (e.1 / 32) }
      checkBars (s.modGroup x.group fun g => { g with pools := addBlocks g.pools c sl (x.allot / 8) }) x.group
    | _ => s
  | none => s

/-- A woken wave resumes on a core of its cluster (R375, R376). -/
def resumeJoin (s : State) (w c sl : Nat) : State :=
  let keep := carrySet s w
  let s := s.modWave w fun x => { x with
    v := x.v.filter fun e => keep.contains (e.1 / 32)
    joinAddr := none, joinZero := false, woken := none, rejoined := true, remote := c ≠ homeCore s x, ctx := [] }
  rejoinAll (acquireDevice (seatWave s w c sl) c) w

/-! ### Suspension and resumption of gangs (R365, R397, R421) -/

/-- No wave of the gang is still on a core. -/
def gangOff (s : State) (g : Gang) : Bool :=
  !(s.waves.any fun c => g.groups.contains c.2.group && !c.2.helperWave && match c.2.place with
    | .resident .. | .evicted _ | .joining => true
    | _ => false)

/-- The turnouts of a group on its core, by entry. -/
def groupTurnouts (s : State) (gk c : Nat) : NMap Turnout :=
  (s.core c).turnouts.filter fun t => t.2.st ≠ .free && ((s.wave? t.2.wave).map (·.group)) = some gk

/-- The blocks of a sluice command that its decompressor queue holds (R326). -/
def State.pendingDecos (s : State) (c cmd : Nat) : List DecoBlock :=
  (NMap.getD (s.cluster (clusterOf c)).decoQ (c % 4) []).filter fun b => b.cmd = cmd

/-- A lock of a sluice command. -/
def LockOwner.ofCmd (cmd : Nat) : LockOwner → Bool
  | .sluice _ x | .deco _ x _ => x = cmd
  | _ => false

/-- Release every lock of a sluice command, in every core's table (R257, R335). -/
def dropCmdLocks (s : State) (cmd : Nat) : State :=
  if s.cores.any fun k => k.2.locks.any fun l => l.owner.ofCmd cmd then
    { s with cores := NMap.mapVal s.cores fun _ k => { k with locks := k.locks.filter fun l => !l.owner.ofCmd cmd } }
  else s

/-- Release the entries of one owner in every core's table. -/
def dropCmdOwner (s : State) (o : LockOwner) : State :=
  if s.cores.any fun k => k.2.locks.any fun l => l.owner = o then
    { s with cores := NMap.mapVal s.cores fun _ k => { k with locks := k.locks.filter fun l => l.owner ≠ o } }
  else s

/-- A program stands at an instruction boundary, or before the next granule of its destination (R339). -/
def SluiceProg.atBoundary (p : SluiceProg) : Bool :=
  match p.xfer with
  | some x => !x.mid
  | none => true

/-- The engines have come to rest for a group: no started matrix entry, no decompressor block, no serving helper, and
the sluice program at an instruction boundary or between elements (R261, R341, R394). -/
def groupAtRest (s : State) (gk : Nat) : Bool :=
  let g := s.group gk
  !g.mq.any (fun e => e.state = .running) &&
    (match (s.core g.core).sluice with
      | some p => p.cmd.group ≠ some gk || (s.pendingDecos g.core p.cmd.id = [] && p.atBoundary && !p.stop)
      | none => true) &&
    (groupTurnouts s gk g.core).all fun t => servers s g.core t.1 = []

/-- Save what a group holds on its core, and free it (R25, R202, R261, R341, R397, R422). The free blocks of its pools go back
to the core, and the pools are empty on its resumption.
DESIGN CHOICE, unsafe: log entry 66. -/
def saveGroup (s : State) (gk : Nat) : State :=
  let g := s.group gk
  let c := g.core
  let k := s.core c
  let bars := k.bars.filter fun b => b.2.owner = some gk
  let queues := k.queues.filter fun q => q.2.owner = some gk
  let ts := groupTurnouts s gk c
  let prog := match k.sluice with
    | some p => if p.cmd.group = some gk then some { p with resumed := true } else none
    | none => none
  let mine (o : LockOwner) : Bool := match o with
    | .matrix x _ => x = gk
    | _ => false
  let s := s.modCore c fun k => { k with
    bars := NMap.mapVal k.bars fun _ b => if b.owner = some gk then {} else b
    queues := k.queues.filter fun q => q.2.owner ≠ some gk
    turnouts := NMap.mapVal k.turnouts fun e t => if (NMap.get? ts e).isSome then { t with st := .free } else t
    sluice := if prog.isSome then none else k.sluice
    sluiceQ := k.sluiceQ.filter fun q => q.group ≠ some gk
    locks := k.locks.filter fun l => !mine l.owner }
  let s := (prog.map fun p => dropCmdLocks s p.cmd.id).getD s
  let bs := (freeBlocks s (towerOf c)).take (groupBlocks g)
  (bs.foldl writeCtx s).modGroup gk fun g => { g with
    ctx := bs, savedBars := bars, savedQueues := queues.map fun q => (q.1, q.2.words), savedTurnouts := ts
    savedProg := prog <|> g.savedProg
    savedCmds := k.sluiceQ.filter fun q => q.group = some gk && (g.savedProg.map fun p => p.cmd.id) ≠ some q.id
    pools := [] }

/-- A suspension takes hold once every wave has stopped and the engines are at rest (R365).
DEDUCED, unsafe: log entry 47. -/
def settleSuspend (s : State) (gi : Nat) : State :=
  match s.gang? gi with
  | some g =>
    if g.suspendReq ∧ g.suspended.isNone ∧ gangOff s g ∧ g.groups.all (groupAtRest s) then
      let s := g.groups.foldl saveGroup s
      (s.modGang gi fun x => { x with suspendReq := false, suspended := some s.stamp }).bump
    else s
  | none => s

/-- One wave of a gang under suspension stops where it can; the turnouts of its group release their helpers (R394). -/
def suspendWave (s : State) (w : Nat) : State :=
  match s.wave? w with
  | some x =>
    match x.place with
    | .resident .. =>
      if x.canStop then saveContext (leaveCore s w (.suspended false)) w else s.modWave w fun x => x.pend s.cycle
    | .evicted _ => s.modWave w fun x => { x with place := .suspended false }
    | .joining => s.modWave w fun x => { x with place := .suspended true }
    | _ => s
  | none => s

/-- Ask for the suspension of a gang (R365). -/
def askSuspend (s : State) (gi : Nat) : State :=
  match s.gang? gi with
  | some g =>
    let s := s.modGang gi fun x => { x with suspendReq := true }
    let s := g.groups.foldl (fun s gk =>
      (groupTurnouts s gk (s.group gk).core).foldl (fun s t =>
        markRelease s ((servers s (s.group gk).core t.1).filter fun x => ((s.wave? x.1).map (·.helperWave)).getD false)) s) s
    let ws := s.waves.filter fun c => g.groups.contains c.2.group && !c.2.helperWave
    settleSuspend (ws.foldl (fun s c => suspendWave s c.1) s) gi
  | none => s

/-- The core takes a resumed group (R25, R261, R341, R397). -/
def loadGroup (s : State) (gk c : Nat) : State :=
  let g := s.group gk
  let s := s.modCore c fun k => { k with
    bars := g.savedBars.foldl (fun m b => NMap.set m b.1 b.2) k.bars
    queues := g.savedQueues.foldl (fun m q => NMap.set m q.1 { owner := some gk, words := q.2 }) k.queues
    turnouts := g.savedTurnouts.foldl (fun m t => NMap.set m t.1 t.2) k.turnouts
    sluiceQ := (match g.savedProg with | some p => [p.cmd] | none => []) ++ g.savedCmds ++ k.sluiceQ }
  s.modGroup gk fun g => { g with
    core := c, ctx := [], savedBars := [], savedQueues := [], savedTurnouts := [], savedCmds := [] }

/-- A wave of a resumed gang takes its slot, or waits on its counter again (R366). -/
def resumeWave (s : State) (w c sl : Nat) : State :=
  rejoinAll ((seatWave s w c sl).modWave w fun x => { x with ctx := [] }) w

/-- A context of a node cannot be restored: the host hears of the block, and the grid ends with 144 (R424). -/
def contextLost (s : State) (n : Option Nat) (block : Nat) : State :=
  let s := hostEvent s 144 0 0xFF (BitVec.ofNat 64 block) 0
  match n with
  | some n => endGrid s n 144
  | none => s

/-- The context of a wave cannot be restored: it is Damaged, and the wave leaves its group (R366, R424). -/
def damageWave (s : State) (w block : Nat) : State :=
  match s.wave? w with
  | none => s
  | some x =>
    let s := s.modWave w fun x => { x with
      place := .damaged, v := [], s := [], p := [], splits := [], parkedSplits := [], recs := [], frame := {}, loads := []
      faults := [], joinAddr := none, woken := none, ctx := [] }
    quitGroup (contextLost s (nodeOfWave s w) block) x.group

end Sys2Proof.Machine
end

