-- ==== Sys2Proof/Machine/Checks.lean ====
section
/-! DEFINITION. The checks made at clause issue (R45 to R50, R69, R75, R386 and the like): of a word alone, of its place
in the clause, of what the wave allows, and of the values an engine command reads. -/

namespace Sys2Proof.Machine

/-! ### Targets (R45) -/

/-- The code word at an address, through the core's instruction cache. -/
def codeWord (s : State) (c asid : Nat) (a : VAddr) : State × Except Bad Word64 := fetchWord s c asid a.toNat

/-- Check a branch target (R45): a clause header of class 0 to 3. -/
def checkTarget (s : State) (c asid : Nat) (a : VAddr) (lanes : LaneMask) : State × Option TrapInfo :=
  let bad : TrapInfo := { cause := 3, addr := BitVec.ofNat 64 a.toNat, lanes := lanes }
  if a.toNat % 8 ≠ 0 then (s, some bad)
  else
    match codeWord s c asid a with
    | (s, .error b) => (s, some { bad with cause := b.1, info := b.2 })
    | (s, .ok w) => (s, if isClauseHeader w then none else some bad)

/-- Check a confluence (R160): a clause header whose first instruction is CONF. A fetch that fails, of the header or of the
word after it, gives the fetch's cause with the header's address.
DESIGN CHOICE, unsafe: log entry 59. -/
def checkConf (s : State) (c asid : Nat) (a : VAddr) : State × Option TrapInfo :=
  let at_ : Word64 := BitVec.ofNat 64 a.toNat
  match codeWord s c asid a with
  | (s, .error b) => (s, some { cause := b.1, addr := at_, info := b.2 })
  | (s, .ok w) =>
    if !isClauseHeader w then (s, some { cause := 14, addr := at_ })
    else
      match codeWord s c asid (a + 8) with
      | (s, .error b) => (s, some { cause := b.1, addr := at_, info := b.2 })
      | (s, .ok i) => (s, if !isHeader i && wordOp i = 0x3A then none else some { cause := 14, addr := at_ })

/-- A full 64-bit target: bits [63:48] must be zero. -/
def checkTarget64 (s : State) (c asid : Nat) (a : Word64) (lanes : LaneMask) : State × Option TrapInfo :=
  if a.toNat < 2 ^ 48 then checkTarget s c asid (BitVec.ofNat 48 a.toNat) lanes
  else (s, some { cause := 3, addr := a, lanes := lanes })

/-- Check the addresses that lanes go to, in order; the first bad one gives the trap. -/
def checkTargets (s : State) (c asid : Nat) : List (VAddr × LaneMask) → State × Option TrapInfo
  | [] => (s, none)
  | (a, m) :: rest =>
    match checkTarget s c asid a m with
    | (s, some t) => (s, some t)
    | (s, none) => checkTargets s c asid rest

/-- A word offset from the current clause header. Code addresses are 48 bits wide (R44). -/
def Ctx.wordAt (c : Ctx) (off : BitVec 20) : VAddr := c.iw.hdr + BitVec.ofNat 48 (8 * (BitVec.signExtend 48 off).toNat)

/-- The number of entries on lane l's return stack (R161). -/
def Wave.depth (w : Wave) (l : Nat) : Nat := (NMap.getD w.rets l []).length

/-- Lanes grouped by where they go, in order of the lowest lane. -/
def groupLanes (f : Nat → VAddr) : List Nat → List (VAddr × LaneMask)
  | ls => ls.foldl (fun gs l =>
      if gs.any fun g => g.1 = f l then gs.map fun g => if g.1 = f l then (g.1, g.2 ||| laneBit l) else g
      else gs ++ [(f l, laneBit l)]) []

/-- The lanes of the split whose predicate bit is true. -/
def Ctx.trueLanes (c : Ctx) (g : Guard) : LaneMask := c.w.guardMask g c.iss.mask

/-! ### Jump tables (R58, R162) -/

/-- LENGTH + 1 of a legal table header. -/
def tableLength (h : Word64) : Option Nat :=
  let n := h.toNat
  if isHeader h ∧ n / 2 ^ 60 % 8 = 4 ∧ n / 2 ^ 32 % 2 ^ 8 = 2 ∧ n % 2 ^ 32 = 0 then some (n / 2 ^ 40 % 2 ^ 20 + 1) else none

/-- The target a lane's index selects: an entry, or the default beyond the table. -/
def tableTarget (s : State) (c : Ctx) (hdr dflt : VAddr) (len i : Nat) (m : LaneMask) : State × Except TrapInfo VAddr :=
  if len ≤ i then (s, .ok dflt)
  else
    let e := hdr + BitVec.ofNat 48 (8 * (1 + i))
    let at_ : Word64 := BitVec.ofNat 64 e.toNat
    match codeWord s c.core c.w.asid e with
    | (s, .error b) => (s, .error { cause := b.1, addr := at_, lanes := m, info := b.2 })
    | (s, .ok w) =>
      if w.toNat / 2 ^ 20 ≠ 0 then (s, .error { cause := 5, addr := at_ })
      else (s, .ok (hdr + BitVec.ofNat 48 (8 * (BitVec.signExtend 48 (BitVec.ofNat 20 w.toNat)).toNat)))

/-- The targets of all lanes, by index, in order of the lowest lane. -/
def tableTargets (s : State) (c : Ctx) (hdr dflt : VAddr) (len : Nat) :
    List (Nat × LaneMask) → State × Except TrapInfo (List (VAddr × LaneMask))
  | [] => (s, .ok [])
  | (i, m) :: rest =>
    match tableTarget s c hdr dflt len i m with
    | (s, .error t) => (s, .error t)
    | (s, .ok a) =>
      match tableTargets s c hdr dflt len rest with
      | (s, .error t) => (s, .error t)
      | (s, .ok ds) => (s, .ok ((a, m) :: ds))

/-- Join the lanes that go to one address. -/
def mergeTargets (ds : List (VAddr × LaneMask)) : List (VAddr × LaneMask) :=
  ds.foldl (fun gs d =>
    if gs.any fun g => g.1 = d.1 then gs.map fun g => if g.1 = d.1 then (g.1, g.2 ||| d.2) else g else gs ++ [d]) []

/-! ### The transfer that ends a clause, as it issues (R45, R407) -/

/-- Where the transfer that ends a clause takes its lanes, as far as no earlier instruction of the clause can change it: BANY,
BALL, BNONE and JTB are seen only where they stand alone. -/
def Ctx.goesTo (c : Ctx) (s : State) (alone : Bool) : Instr → State × List (VAddr × LaneMask)
  | .bra t => (s, [(c.wordAt t, c.mask)])
  | .bdiv _ t _ => (s, [(c.wordAt t, c.mask)])
  | .bany g t => (s, if alone && c.trueLanes g ≠ 0 then [(c.wordAt t, c.mask)] else [])
  | .ball g t => (s, if alone && c.trueLanes g = c.mask then [(c.wordAt t, c.mask)] else [])
  | .bnone g t => (s, if alone && c.trueLanes g = 0 then [(c.wordAt t, c.mask)] else [])
  | .call t => (s, if (lanesOf c.mask).any fun l => 32 ≤ c.w.depth l then [] else [(c.wordAt t, c.mask)])
  | .ret =>
    (s, if (lanesOf c.mask).any fun l => c.w.depth l = 0 then []
      else groupLanes (fun l => (NMap.getD c.w.rets l []).headD 0) (lanesOf c.mask))
  | .jtb (.q _) _ _ => (s, [])
  | .jtb a table dflt =>
    if !alone then (s, [])
    else
      match codeWord s c.core c.w.asid (c.wordAt table) with
      | (s, .error _) => (s, [])
      | (s, .ok h) =>
        let idx := groupLanes (fun l => BitVec.ofNat 48 (lo32 (c.get s l a false).val).toNat) (lanesOf c.mask)
        match tableTargets s c (c.wordAt table) (c.wordAt dflt) ((tableLength h).getD 0) (idx.map fun g => (g.1.toNat, g.2)) with
        | (s, .ok ds) => (s, if tableLength h = none then [] else mergeTargets ds)
        | (s, .error _) => (s, [])
  | _ => (s, [])

/-- The issue trap of a bad target (R45, R407); a clause with an EXIT may have no lane left to go there.
DEDUCED, unsafe: log entry 67. -/
def checkTransfer (s : State) (c : Ctx) (ws : List Word64) : State × Option TrapInfo :=
  let is := ws.filterMap decodeWave
  let leaves (i : Instr) : Bool := match i with
    | .exit _ => true
    | _ => false
  match is.getLast? with
  | some i =>
    if is.any leaves then (s, none)
    else
      let r := c.goesTo s (is.length = 1) i
      checkTargets r.1 c.core c.w.asid r.2
  | none => (s, none)

/-! ### One word (R69, R75) -/

/-- The operand code for which R69 rejects a use, given the wave's allotment. -/
def OpUse.rejected (u : OpUse) (allot : Nat) : Option Word64 :=
  match u.o with
  | .v n => if n.val % u.align ≠ 0 ∨ allot < n.val + u.regs then some (codeInfo u.o) else none
  | .s n => if u.kind.writes ∧ 32 < n.val + u.scalars ∧ u.kind ≠ .dataDst then some 0xE0 else none
  | _ => if u.kind.writes then some (codeInfo u.o) else none

/-- The predicate an instruction writes by its own field. -/
def Instr.predDst? : Instr → Option (Fin 8)
  | .icmp _ _ _ pd _ _ | .fcmp _ _ _ _ pd _ _ | .claim _ pd _ | .plop _ _ pd _ _ => some pd
  | .vote _ form _ pd _ _ =>
    match form with
    | .some | .every | .agree => some pd
    | _ => none
  | _ => none

/-- What R69 rejects in an instruction: a use, a write of p7, two queue sources, or a drain row beyond the allotment. -/
def Instr.rejected (i : Instr) (allot : Nat) : Option Word64 :=
  match i.uses.findSome? fun u => OpUse.rejected u allot with
  | some x => some x
  | none =>
    if Instr.predDst? i = some 7 then some 7
    else
      match i.uses.filter fun u => u.o.isQ with
      | _ :: u :: _ => some (codeInfo u.o)
      | _ =>
        match i with
        | .mdrainv _ _ _ _ pair => if allot ≤ 2 * pair.val + 1 then some (BitVec.ofNat 64 (2 * pair.val + 1)) else none
        | _ => none

/-- Read one word: its instruction, or the cause that rejects it (R69 over R75). -/
def readWord (w : Word64) (allot : Nat) : Except (BitVec 8 × Word64) Instr :=
  match decodeHead (Head.unpack w) with
  | none => .error (1, w)
  | some i =>
    if encodeWave i ≠ some w then .error (1, w)
    else
      match Instr.rejected i allot with
      | some x => .error (7, x)
      | none => if i.wf then .ok i else .error (1, w)

/-! ### Kinds of instruction -/

/-- The control transfers (R49). -/
def Instr.transfer : Instr → Bool
  | .bra .. | .bany .. | .ball .. | .bnone .. | .bdiv .. | .call .. | .ret | .jtb .. | .exit .. => true
  | _ => false

def Instr.isConf : Instr → Bool
  | .conf => true
  | _ => false

def Instr.isRep : Instr → Bool
  | .rep _ => true
  | _ => false

/-- What may stand only last in its clause (R49, R168, R275, R373, R402, R403, R470). -/
def Instr.lastOnly : Instr → Bool
  | .bar | .gbar | .cbwt .. | .mwait .. | .joinw .. | .tdoneHelper | .tdoneRecruiter .. | .tjoin .. | .cwait .. | .tret => true
  | i => Instr.transfer i

/-- Load-class instructions (R51, R371). -/
def Instr.loadClass : Instr → Bool
  | .ld .. | .lds .. | .atom .. | .txe .. | .fwait .. | .fpeek .. | .qlen .. | .srd .. | .take .. => true
  | _ => false

/-- Store-class instructions (R183, R370). -/
def Instr.storeClass : Instr → Bool
  | .st .. | .sts .. | .atom .. | .red .. | .ffill .. | .freset .. | .qpush .. | .bndmin .. | .spawn .. => true
  | _ => false

/-- The commands of a group's matrix queue (R8, R254). -/
def Instr.matrixCommand : Instr → Bool
  | .setmod _ | .setmodDefault | .setfmt .. | .mzero .. | .mmac _ | .mmact _ | .mmacu _ | .mpair .. | .msolo => true
  | .mspill .. | .mfill .. | .mdrain .. | .mdrainv .. | .mdigit .. | .mchk .. => true
  | _ => false

/-- A stride may step this field: it names a vector register or a scalar (R132, R164). -/
def Instr.steps (i : Instr) (f : Field) : Bool := i.uses.any fun u => u.fld = f && (u.o.isV || u.o.isS)

/-- The strides of a REP are legal for the instruction they repeat (R118, R132, R164). -/
def RepForm.fits (r : RepForm) (i : Instr) : Bool :=
  (r.sd = 0 || Instr.steps i .d) && (r.sa = 0 || Instr.steps i .a) && (r.sb = 0 || Instr.steps i .b) &&
    (r.sc = 0 || Instr.steps i .c)

/-- Legal in helper code whatever its operands (R118, R167, R168, R188, R236, R237, R386). -/
def Instr.helperKind : Instr → Bool
  | .give .. | .claim .. | .exit .. | .bar | .gbar | .cbar .. | .cbarArm .. | .cbwt .. => false
  | .atom .. | .txb .. | .txe .. | .txa .. | .fwait .. | .qpush .. | .qlen .. | .bndwt .. => false
  | .cctlWb .. | .cctlInv .. | .cctlWbinv .. | .icinv .. => false
  | .tdoneHelper => true
  | i => match encodeWave i with
    | some w => majorClass (wordOp w) = 0
    | none => false

/-- Legal in helper code: no scalar, no queue read (R188, R386). -/
def Instr.helperOk (i : Instr) : Bool := Instr.helperKind i && !(i.uses.any fun u => u.o.isS || u.o.isQ)

/-- Names a window register. -/
def Instr.window (i : Instr) : Option Word64 := (i.uses.find? fun u => u.o.isWin).map fun u => codeInfo u.o

/-- What a remote wave may not use (R376). -/
def Instr.remoteOk (i : Instr) : Bool :=
  !(i.uses.any fun u => u.o.isQ) && match i with
    | .give .. | .claim .. | .cbar .. | .cbwt .. | .cbarArm .. | .slaunch .. | .sstat .. | .sstop .. | .qpush ..
    | .qlen .. | .recruit .. | .joinw .. => false
    | i => match encodeWave i with
      | some w => majorClass (wordOp w) ≠ 1
      | none => true

/-- A window register that an instruction names as a 64-bit or b128 operand at a number R69 rejects: where the window of
some lane's turnout is a vector window, whose pairs are even (R385). -/
def Ctx.oddWindow (c : Ctx) (s : State) (i : Instr) : Option Word64 :=
  let vec := (lanesOf c.mask).any fun l => ((c.turnoutOf s l).map (·.winVec)).getD false
  ((i.uses.find? fun u => match u.o with
    | .win n => n.val % u.align ≠ 0
    | _ => false).filter fun _ => c.helper && vec).map fun u => codeInfo u.o

/-! ### Values (R118, R129, R260, R296, R302, R337, R367, R373, R400, R469) -/

/-- The live lanes of the wave are exactly the split's (R118, R416). -/
def Ctx.whole (c : Ctx) : Bool := c.iss.mask = c.w.live

/-- An MDRAINV of the wave stands in the group's open batch and names a register from `lo` up (R118, R298). -/
def openDrain (s : State) (gk w lo : Nat) : Bool :=
  (s.group gk).mq.any fun e => e.wave = w && e.batch = some (s.group gk).openSeq && match e.instr with
    | .mdrainv _ _ _ _ pair => lo ≤ 2 * pair.val + 1
    | _ => false

/-- The lanes of a wave that hold a turnout neither joined nor freed, among `m` (R167, R373). -/
def openTurnouts (s : State) (w : Nat) (m : LaneMask) : LaneMask :=
  maskOf fun l => m.getLsbD l && s.cores.any fun c => c.2.turnouts.any fun t =>
    t.2.wave = w && t.2.lane = l && t.2.st ≠ .free && t.2.st ≠ .releasing

/-- The groups of the wave's gang. -/
def Ctx.gangSize (c : Ctx) (s : State) : Nat := ((s.gang? (s.group c.w.group).gang).map (·.groups.length)).getD 0

/-- A scratchpad address of an engine command (R181, R260). -/
def padCheck (c : Ctx) (s : State) (align : Nat) (a : Word64) : Option TrapInfo :=
  if 2 ^ 21 ≤ a.toNat ∨ c.gangSize s ≤ a.toNat / 2 ^ 19 then some { cause := 39, addr := a, lanes := c.mask }
  else if a.toNat % align ≠ 0 then some { cause := 40, addr := a, lanes := c.mask }
  else none

/-- A drain destination (R296). -/
def drainCheck (c : Ctx) (s : State) (a : Word64) : Option TrapInfo :=
  if bitOf a.toNat 63 then
    if a.toNat / 2 ^ 48 % 2 ^ 15 ≠ 0 then some { cause := 39, addr := a, lanes := c.mask }
    else if a.toNat % 64 ≠ 0 then some { cause := 40, addr := a, lanes := c.mask }
    else none
  else padCheck c s 64 a

def alignCheck (c : Ctx) (n : Nat) (a : Word64) : Option TrapInfo :=
  if a.toNat % n ≠ 0 then some { cause := 40, addr := a, lanes := c.mask } else none

/-- A virtual image of `n` bytes (R260). -/
def imageCheck (c : Ctx) (align n : Nat) (a : Word64) : Option TrapInfo :=
  if 2 ^ 48 < a.toNat + n then some { cause := 39, addr := a, lanes := c.mask }
  else if a.toNat % align ≠ 0 then some { cause := 40, addr := a, lanes := c.mask }
  else none

/-- Not in a handler (R410). -/
def handlerCheck (c : Ctx) : Option TrapInfo := if c.w.frame.inh then some { cause := 146, info := c.iw.word } else none

def tileCheck (c : Ctx) (s : State) (n : Fin 8) : Option TrapInfo :=
  if (NMap.get? (s.group c.w.group).tiles n.val).isSome then none
  else some { cause := 128, info := BitVec.ofNat 64 n.val }

def barCheck (c : Ctx) (s : State) (n : Fin 16) : Option TrapInfo :=
  if barGranted s c.core n.val c.w.group then none else some { cause := 128, info := BitVec.ofNat 64 n.val }

/-- The image word of SLAUNCH (R306, R337). -/
def imageWord (c : Ctx) (a : Word64) : Option TrapInfo :=
  let ia := a.toNat % 2 ^ 48
  let cnt := a.toNat / 2 ^ 48 % 2 ^ 10
  if a.toNat / 2 ^ 58 ≠ 0 ∨ 2 ^ 48 < ia + 4 * (cnt + 1) then some { cause := 39, addr := BitVec.ofNat 64 ia, lanes := c.mask }
  else if ia % 4 ≠ 0 then some { cause := 40, addr := BitVec.ofNat 64 ia, lanes := c.mask }
  else none

/-- The residue codes of address scalars (R129). -/
def Ctx.addrCodes (c : Ctx) (s : State) (ns : List (Fin 32)) : Option TrapInfo :=
  residueTrap c s (lanesOf c.mask) (ns.map fun n => (.s n, true))

/-- The checks of an engine command, or of GIVE and CLAIM, that read values. -/
def valueCheck (c : Ctx) (s : State) (i : Instr) : Option TrapInfo :=
  match i with
  | .give _ n =>
    if !c.whole then some { cause := 132, lanes := c.mask }
    else if openDrain s c.w.group c.wid (c.w.allot - 8 * n.toNat) then some { cause := 139, info := c.iw.word }
    else none
  | .claim .. => if !c.whole then some { cause := 132, lanes := c.mask } else none
  | .setmod xa => c.addrCodes s [xa] <|> alignCheck c 32 (c.sVal xa)
  | .mzero _ acc => tileCheck c s acc
  | .mmac f | .mmact f =>
    c.addrCodes s [f.xa, f.xb] <|> padCheck c s 64 (c.sVal f.xa) <|> padCheck c s 64 (c.sVal f.xb) <|> tileCheck c s f.acc
  | .mmacu f =>
    c.addrCodes s [f.xa, f.xb, f.xc] <|> padCheck c s 64 (c.sVal f.xa) <|> padCheck c s 64 (c.sVal f.xb) <|>
      padCheck c s 32 (c.sVal f.xc) <|> tileCheck c s f.acc
  | .mspill _ acc xa | .mfill _ acc xa =>
    c.addrCodes s [xa] <|> imageCheck c 64 98368 (c.sVal xa) <|> tileCheck c s acc
  | .mdrain _ acc xa _ _ | .mdigit _ acc xa _ => c.addrCodes s [xa] <|> drainCheck c s (c.sVal xa) <|> tileCheck c s acc
  | .mdrainv _ acc _ _ _ => tileCheck c s acc
  | .mchk _ acc rt ct xa =>
    c.addrCodes s [xa] <|> drainCheck c s (c.sVal xa) <|> tileCheck c s acc <|> tileCheck c s rt <|> tileCheck c s ct
  | .msig _ cb _ => barCheck c s cb
  | .slaunch _ _ a _ _ => c.addrCodes s [a] <|> imageWord c (c.sVal a)
  | .launch _ a _ => c.addrCodes s [a] <|> imageCheck c 64 128 (c.sVal a)
  | .coll _ _ a _ => c.addrCodes s [a] <|> alignCheck c 64 (c.sVal a)
  | .joinw a =>
    handlerCheck c <|> c.addrCodes s [a] <|> imageCheck c 8 8 (c.sVal a) <|>
      (match (carrySet s c.wid).find? fun r => decide (c.w.allot ≤ r) with
        | some r => some { cause := 138, info := BitVec.ofNat 64 r }
        | none => none) <|>
      (if openTurnouts s c.wid allLanes ≠ 0 then some { cause := 133, lanes := openTurnouts s c.wid allLanes } else none)
  | .recruit g _ _ _ b cc _ =>
    handlerCheck c <|> c.addrCodes s [cc] <|>
      (let r := lowestLane (c.eff g)
       let n := (lo32 (c.get s r b false).val).toNat
       if c.eff g ≠ 0 ∧ (n = 0 ∨ 65535 < n) then some { cause := 17, info := BitVec.ofNat 64 n }
       else (checkTarget64 s c.core c.w.asid (c.sVal cc) c.mask).2)
  | _ => none

end Sys2Proof.Machine
end

