-- ==== Sys2Proof/Machine/Issue.lean ====
section
/-! DEFINITION. Issue (R46 to R55, R113, R121 to R124): header conditions, held splits, the choice of a clause, its checks,
its start, its instructions one by one, and its end at the clause boundary. -/

namespace Sys2Proof.Machine

/-! ### Loads that a wave waits for -/

/-- An access whose lanes have all faulted. -/
def MemOp.stuck (o : MemOp) : Bool := o.faulted ≠ 0 && o.mask = o.faulted

/-- The outstanding loads that header conditions count (R51, R52). A handler is told of no late fault (R420), so there a
load that has wholly faulted is not waited for. -/
def Wave.outstanding (w : Wave) : List MemOp := if w.frame.inh then w.loads.filter fun o => !o.stuck else w.loads

def Wave.faultedLoads (w : Wave) : Nat := (w.loads.filter fun o => o.faulted ≠ 0).length

/-! ### Held splits (R121) -/

/-- A turnout that TJOIN waits for has ended (R403). -/
def turnoutEnded (s : State) (c e : Nat) : Bool :=
  (s.turnout c e).st = .complete || ((s.turnout c e).st = .faulted && servers s c e = [] && !committing s c e)

/-- The wait of a Held split is over. -/
def holdOver (s : State) (c : Nat) (w : Wave) : HoldWhy → Bool
  | .park => w.loads.all MemOp.stuck
  | .nap t => t ≤ s.cycle
  | .cbwt cb gen => (s.bar c cb).gen ≠ gen
  | .bndwt n v => bndVal s c n ≠ v
  | .mwait q => !(s.group w.group).batches.any fun b => b.seq = q
  | .cwait comm n => !w.colls.any fun x => x.1 = comm && x.2 < n
  | .tjoin _ e _ => turnoutEnded s c e
  | .header | .bar | .gbar | .commit => false

/-- The status word of TJOIN (R403). -/
def Turnout.status (t : Turnout) : Word64 :=
  let f := match t.fault with
    | some f => if t.st = .faulted then 112 + f.ocause.toNat * 2 ^ 8 else 0
    | none => 0
  BitVec.ofNat 64 (f + t.rchunks % 2 ^ 16 * 2 ^ 32 + t.discards % 2 ^ 16 * 2 ^ 48)

/-- TJOIN ends: it writes its status, frees the entry, and traps when the turnout is Faulted (R403). -/
def endJoin (s : State) (wid c slot split d e : Nat) (handle : Word64) (pc : VAddr) : State :=
  let t := s.turnout c e
  let s := (s.modTurnout c e fun t => { t with st := .free }).modWave wid fun w => w.setS d (Scalar.of t.status)
  match t.st, t.fault with
  | .faulted, some f => lateTrap s wid c slot split pc { f with handle := handle } []
  | _, _ => s

/-! ### Fetching a clause (R46, R47) -/

/-- Fetch the words from an address up. -/
def fetchWords (s : State) (c asid : Nat) (a : VAddr) : Nat → State × Except TrapInfo (List Word64)
  | 0 => (s, .ok [])
  | n + 1 =>
    match codeWord s c asid a with
    | (s, .error b) => (s, .error { cause := b.1, addr := BitVec.ofNat 64 a.toNat, info := b.2 })
    | (s, .ok w) =>
      match fetchWords s c asid (a + 8) n with
      | (s, .error t) => (s, .error t)
      | (s, .ok ws) => (s, .ok (w :: ws))

/-- Fetch a clause: its header, checked by R46 and R47, and its words. -/
def fetchClause (s : State) (c asid : Nat) (pc : VAddr) : State × Except TrapInfo (Header × List Word64) :=
  let at_ : Word64 := BitVec.ofNat 64 pc.toNat
  match codeWord s c asid pc with
  | (s, .error b) => (s, .error { cause := b.1, addr := at_, info := b.2 })
  | (s, .ok h) =>
    if !isClauseHeader h then (s, .error { cause := 4, addr := at_ })
    else if !(Header.unpack h).ok then (s, .error { cause := 1, info := h })
    else
      match fetchWords s c asid (pc + 8) (Header.unpack h).count with
      | (s, .error t) => (s, .error t)
      | (s, .ok ws) => (s, .ok (Header.unpack h, ws))

/-! ### Header conditions (R14, R21, R50) -/

/-- The REP fields of an instruction, if it is one. -/
def Instr.rep? : Instr → Option RepForm
  | .rep f => some f
  | _ => none

/-- The count of a REP as the registers stand (R165). -/
def RepForm.times (f : RepForm) (w : Wave) : Nat :=
  match f.count with
  | none => f.icount.toNat
  | some a => (w.sAt a.val).val.toNat % 2 ^ 32

/-- Step the operand fields of a word for iteration i of a REP (R165). -/
def repWord (w : Word64) (f : RepForm) (i : Nat) : Word64 :=
  let n := w.toNat
  let field (lo s : Nat) : Nat := (n / 2 ^ lo + i * s) % 256 * 2 ^ lo
  BitVec.ofNat 64 (n / 2 ^ 48 * 2 ^ 48 + field 40 f.sd.val + field 32 f.sa.val + field 24 f.sb.val + field 16 f.sc.val +
    n % 2 ^ 16)

/-- The scalars an instruction reads. -/
def Instr.readScalars (i : Instr) : List Nat :=
  i.uses.flatMap fun u => match u.o with
    | .s n => if u.kind.reads then (List.range u.scalars).map (n.val + ·) else []
    | _ => []

/-- The scalars an instruction writes or names as tokens. -/
def Instr.writeScalars (i : Instr) : List Nat :=
  i.uses.flatMap fun u => match u.o with
    | .s n =>
      if u.kind = .dataDst then [n.val]
      else if u.kind.writes then (List.range u.scalars).map (n.val + ·) else []
    | _ => []

/-- The forms an instruction word takes: its own, and those that the strides of a REP before it reach (R165). A scalar field
leaves its range within 32 iterations.
DEDUCED, unsafe: log entry 14. -/
def wordForms (w : Wave) (prev : Option Instr) (x : Word64) : List Instr :=
  match prev.bind Instr.rep? with
  | some f =>
    if f.sd = 0 ∧ f.sa = 0 ∧ f.sb = 0 ∧ f.sc = 0 then (decodeWave x).toList
    else (List.range (max 1 (min 32 (RepForm.times f w)))).filterMap fun k => decodeWave (repWord x f k)
  | none => (decodeWave x).toList

/-- The scalars that the instructions of a clause read, one list for each word. -/
def scalarsRead (w : Wave) : Option Instr → List Word64 → List Nat
  | _, [] => []
  | prev, x :: xs => ((wordForms w prev x).flatMap Instr.readScalars) ++ scalarsRead w (decodeWave x) xs

/-- Every scalar that the clause reads is Ready (R14). -/
def tokensReady (w : Wave) (ws : List Word64) : Bool := (scalarsRead w none ws).all fun n => !(w.sAt n).pending

/-- The conditions of a clause header hold (R50). -/
def headerOk (s : State) (w : Wave) (h : Header) (ws : List Word64) : Bool :=
  (h.ldwait = 15 || w.outstanding.length ≤ h.ldwait) &&
    (match h.mbwait with
      | some b => !(s.group w.group).batches.any fun x => x.seq % 16 = b
      | none => true) &&
    (!h.tkchk || tokensReady w ws)

/-- The lanes an instruction of the clause may act on: those its guard admits as the predicates stand, or every lane of
the split where an earlier instruction of the clause can change that predicate. -/
def guessEff (w : Wave) (m : LaneMask) (before : List Instr) (i : Instr) : LaneMask :=
  let g := i.guard
  if before.any fun j => Instr.predDst? j = some g.pred ∨ (j.uses.any fun u => u.o.isQ) then m else w.guardMask g m

/-- A store-class instruction of the clause acts on a lane with a faulted store (R183). -/
def storeMeets (w : Wave) (m : LaneMask) : List Instr → List Word64 → Bool
  | _, [] => false
  | before, x :: xs =>
    match decodeWave x with
    | some i => (Instr.storeClass i && guessEff w m before i &&& w.heldBack ≠ 0) || storeMeets w m (i :: before) xs
    | none => storeMeets w m before xs

/-- Faulted loads of helper lanes in a split are charged before a clause that would wait for them (R393).
DEDUCED, unsafe: log entry 15. -/
def helperDue (w : Wave) (sp : Split) (h : Header) : Bool :=
  let n := (w.loads.filter fun o => o.faulted &&& sp.mask ≠ 0).length
  (h.ldwait < 15 && h.ldwait < n) || ((h.park || w.parking) && 0 < n)

/-- A pending late fault is due before this clause issues (R183).
DEDUCED, unsafe: log entry 15. -/
def lateDue (w : Wave) (sp : Split) (h : Header) (ws : List Word64) : Bool :=
  let n := w.faultedLoads
  if sp.helper then helperDue w sp h
  else !w.frame.inh && w.faults ≠ [] &&
    ((h.ldwait < 15 && h.ldwait < n) || (h.park && 0 < n) || (w.parking && 0 < n) ||
      storeMeets w sp.mask [] ws ||
      (0 < n && ws.any fun x => match decodeWave x with
        | some (.joinw _) => true
        | _ => false))

/-- The clause a split stands at: as it was fetched when the split became Held (R55), else as a fetch gives it now. -/
def splitClause (s : State) (c asid : Nat) (sp : Split) : State × Except TrapInfo (Header × List Word64) :=
  match sp.fetched with
  | some x => (s, .ok x)
  | none => fetchClause s c asid sp.pc

/-- What precedes the RECRUIT of each helper lane's turnout in its recruiter lane is performed (R234). -/
def recruitDone (s : State) (w : Wave) (sp : Split) : Bool :=
  !sp.helper || (lanesOf sp.mask).all fun l => match NMap.get? w.helpers l with
    | some h =>
      let t := s.turnout h.core h.entry
      s.laneClear t.wave t.lane t.after
    | none => true

/-- A split can start its clause now, or trap at it. -/
def canIssue (s : State) (c : Nat) (w : Wave) (sp : Split) : Bool :=
  sp.state = .ready && recruitDone s w sp && (sp.cont.isSome ||
    match (splitClause s c w.asid sp).2 with
    | .error _ => true
    | .ok (h, ws) => lateDue w sp h ws || headerOk s w h ws)

/-- A split that waits for nothing else is Ready while its header conditions hold, or a trap awaits it, and Held while they
are unmet; it keeps the words it then fetched (R55, R121). -/
def Split.refresh (s : State) (c : Nat) (w : Wave) (sp : Split) : Split :=
  match sp.state with
  | .ready | .held .header =>
    let sp := { sp with state := .ready }
    if canIssue s c w sp then sp
    else
      match (splitClause s c w.asid sp).2 with
      | .ok x => { sp with state := .held .header, fetched := some x }
      | .error _ => sp
  | _ => sp

/-- Refresh every split of a wave that is between clauses. -/
def Wave.refresh (s : State) (c : Nat) (w : Wave) : Wave := { w with splits := NMap.mapVal w.splits fun _ sp => sp.refresh s c w }

/-! ### Waking (R121) -/

/-- Wake one split if its wait is over. A CWAIT that ends is an acquire (R470). -/
def wakeSplit (s : State) (wid c slot e : Nat) : State :=
  match s.wave? wid with
  | some w =>
    match NMap.get? w.splits e with
    | some sp =>
      match sp.state with
      | .held h =>
        if holdOver s c w h then
          let s := s.modWave wid fun w => { w with splits := NMap.set w.splits e { sp with state := .ready } }
          match h with
          | .tjoin d t x => endJoin s wid c slot e d t x sp.pc
          | .cwait .. => acquireDevice s c
          | _ => s
        else s
      | _ => s
    | none => s
  | none => s

def Wave.anyReady (w : Wave) : Bool := w.splits.any fun sp => sp.2.state = .ready

/-- Wake what can wake in a wave that is between clauses, and tell its Ready splits from those Held for their headers. -/
def wakeWave (s : State) (wid c slot : Nat) : State :=
  let s := s.modWave wid fun w => if w.parking && w.loads = [] then { w with parking := false } else w
  match s.wave? wid with
  | some w =>
    if w.issue.isNone then
      let s := (NMap.keys w.splits).foldl (fun s e => wakeSplit s wid c slot e) s
      s.modWave wid fun x =>
        let x := x.refresh s c
        if x.anyReady && !w.anyReady then { x with started := s.cycle } else x
    else s
  | none => s

/-! ### The checks of a clause (R46 to R50) -/

/-- Whether an earlier instruction of the clause writes a scalar this one reads. -/
def writtenBefore (before : List Instr) (i : Instr) : Bool :=
  before.any fun j => (Instr.writeScalars j).any fun n => (Instr.readScalars i).contains n

/-- The placement rules of one instruction (R49). -/
def placed (last first : Bool) (prev : Option Instr) (i : Instr) : Bool :=
  (!Instr.lastOnly i || last) && (!Instr.isConf i || first) && (!Instr.isRep i || !last) &&
    !((prev.map Instr.isRep).getD false && (Instr.isRep i || Instr.isConf i || Instr.transfer i))

/-- The strides of a REP fit the word after it (R164). -/
def repFits (i : Instr) (next : List Word64) : Bool :=
  match Instr.rep? i, next with
  | some f, x :: _ =>
    match decodeWave x with
    | some j => RepForm.fits f j && majorClass (wordOp x) = 0
    | none => true
  | _, _ => true

/-- Check the words of a clause in order; the first that fails gives the trap (R50).
DEDUCED, unsafe: log entry 13. -/
def checkWords (s : State) (c : Ctx) (cls : Nat) : List Instr → List Word64 → Option TrapInfo
  | _, [] => none
  | before, x :: xs =>
    if isHeader x then some { cause := 1, info := x }
    else
      match readWord x c.w.allot with
      | .error (cause, info) => some { cause := cause, info := info }
      | .ok i =>
        let here : TrapInfo := { cause := 2, info := x }
        if !Instr.transfer i && majorClass (wordOp x) ≠ cls then some here
        else if !placed xs.isEmpty before.isEmpty before.head? i then some here
        else if !repFits i xs then some { here with cause := 1 }
        else if !c.helper && (Instr.window i).isSome then some { cause := 7, info := (Instr.window i).getD 0 }
        else if (c.oddWindow s i).isSome then some { cause := 7, info := (c.oddWindow s i).getD 0 }
        else if c.helper && !Instr.helperOk i then some { here with cause := 9 }
        else if !c.helper && i = .tdoneHelper then some here
        else if c.w.remote && !Instr.remoteOk i then some { here with cause := 137 }
        else
          match ((wordForms c.w before.head? x).flatMap Instr.writeScalars).find? fun n => (c.w.sAt n).pending with
          | some n => some { cause := 8, info := BitVec.ofNat 64 (0xC0 + n) }
          | none =>
            match (if writtenBefore before i then none
                else valueCheck { c with iw := { c.iw with word := x, idx := before.length } } s i) with
            | some t => some t
            | none => checkWords s c cls (i :: before) xs

/-! ### Watchpoints (R436) -/

/-- An enabled watchpoint of the core with this kind bit covers an address. -/
def watched (s : State) (c bit a : Nat) : Bool :=
  (s.core c).wp.any fun w => bitOf w.2.toNat 51 && bitOf w.2.toNat bit && w.2.toNat / 64 % 2 ^ 42 = a / 64

/-! ### Starting a clause -/

/-- The issue record of a clause. -/
def newIssue (e : Nat) (sp : Split) (h : Header) (ws : List Word64) (now : Nat) : Issue :=
  { split := e, hdr := sp.pc, mask := sp.mask, park := h.park,
    words := (ws.zip (List.range 16)).map fun x => { word := x.1, hdr := sp.pc, idx := x.2 },
    next := sp.pc + BitVec.ofNat 48 (8 * (h.count + 1)), since := now }

/-- A clause that has waited for tokens under TKCHK is an acquire at their scope (R16). -/
def acquireTokens (s : State) (wid c : Nat) (h : Header) (ws : List Word64) : State :=
  match s.wave? wid with
  | some w =>
    let mine := (scalarsRead w none ws).foldl (fun m n => m ||| laneBit n) (0 : LaneMask)
    if h.tkchk && w.wideTok &&& mine ≠ 0 then
      acquireDevice (s.modWave wid fun w => { w with wideTok := w.wideTok &&& ~~~mine }) c
    else s
  | none => s

/-- The split of an entry stands at an address: if that lies outside the loop which the spin detector watches there, and in
no call from it, the split has left the loop (R174). -/
def leaveLoop (s : State) (wid e : Nat) (sp : Split) : State :=
  match (s.wave? wid).bind fun w => (NMap.get? w.spin e).map fun x => (w, x) with
  | some (w, x) =>
    if x.depth < (NMap.getD w.rets (lowestLane sp.mask) []).length ∨ (x.head.toNat ≤ sp.pc.toNat ∧ sp.pc.toNat ≤ x.word.toNat) then s
    else endSpin s wid e
  | none => s

/-- The faults of loads that helper lanes of a split come to wait for are charged (R393). -/
def chargeLate (s : State) (wid c slot : Nat) (m : LaneMask) : State :=
  (lanesOf m).foldl (fun s l =>
    match (s.wave? wid).bind fun w => (NMap.get? w.helpers l).bind fun h => h.late.head? with
    | some f => helperFault s wid c slot f.hdr f.cause f.addr l
    | none => s) s

/-- The clause holds its quarter's port and its split issues. -/
def takePort (s : State) (c slot wid e : Nat) (sp : Split) (i : Issue) : State :=
  ((s.modWave wid fun w => { w with
    issue := some i
    splits := NMap.set w.splits e { sp with state := .issuing, fetched := none, cont := none, issued := s.stamp } }).modCore c fun k =>
      { k with port := NMap.set k.port (quarterOf slot) slot }).bump

/-- A split starts its clause: it traps, or the clause begins to issue (R50, R183). One that a BNDWT has held goes on with the
clause it is in (R207). -/
def startClause (s : State) (c slot wid e : Nat) (sp : Split) : State :=
  let s := ((leaveLoop s wid e sp).modWave wid fun w => { w with lastSplit := some e, yielded := false, started := s.cycle }).modCore c
    fun k => { k with lastWave := NMap.set k.lastWave (quarterOf slot) slot }
  if let some i := sp.cont then takePort s c slot wid e sp { i with mask := i.mask &&& sp.mask } else
  let asid := ((s.wave? wid).map (·.asid)).getD 0
  match splitClause s c asid sp with
  | (s, .error t) => issueTrap s wid c slot e sp.pc t
  | (s, .ok (h, ws)) =>
    match s.wave? wid with
    | none => s
    | some w =>
      if !sp.helper && watched s c 50 sp.pc.toNat then
        issueTrap s wid c slot e sp.pc { cause := 177, addr := BitVec.ofNat 64 sp.pc.toNat }
      else if lateDue w sp h ws then
        if sp.helper then chargeLate s wid c slot sp.mask else
        match w.faults with
        | f :: _ => lateTrap s wid c slot e sp.pc f []
        | [] => s
      else
        let iss := newIssue e sp h ws s.cycle
        let ctx : Ctx := { wid := wid, w := w, core := c, slot := slot, iss := iss,
                           iw := { word := 0, hdr := sp.pc, idx := 0 }, mask := sp.mask, helper := sp.helper }
        match checkWords s ctx h.cls [] ws with
        | some t => issueTrap s wid c slot e sp.pc t
        | none =>
          match checkTransfer s ctx ws with
          | (s, some t) => issueTrap s wid c slot e sp.pc t
          | (s, none) => takePort (acquireTokens s wid c h ws) c slot wid e sp iss

/-! ### Choosing a clause (R113, R124) -/

/-- Entries 0 to n-1 in order, starting after `last`. -/
def rotateFrom (n : Nat) (last : Option Nat) : List Nat :=
  match last with
  | some l => ((List.range n).map fun i => (l + 1 + i) % n)
  | none => List.range n

/-- The next split of a wave that can issue, round-robin (R124). -/
def nextSplit (s : State) (c : Nat) (w : Wave) : Option (Nat × Split) :=
  (rotateFrom 8 w.lastSplit).findSome? fun e =>
    match NMap.get? w.splits e with
    | some sp => if canIssue s c w sp then some (e, sp) else none
    | none => none

/-- The waves of a quarter with a split that can issue: slot, wave, split. -/
def candidates (s : State) (c q : Nat) : List (Nat × Nat × Wave × Nat × Split) :=
  (rotateFrom 16 ((NMap.get? (s.core c).lastWave q).map (· % 16))).filterMap fun i =>
    let sl := 16 * q + i
    match NMap.get? (s.core c).slots sl with
    | none => none
    | some wid =>
      match s.wave? wid with
      | none => none
      | some w =>
        if w.issue.isSome || (w.parking && !w.loads.all MemOp.stuck) then none
        else (nextSplit s c w).map fun x => (sl, wid, w, x.1, x.2)

/-- A wave with a Ready split that has had no clause start for so long that R173's 256 cycles are near.
DESIGN CHOICE, safe: log entry 71. -/
def Wave.overdue (w : Wave) (now : Nat) : Bool := w.started + 240 ≤ now

/-- A split of the wave waits at a counted barrier (R27). -/
def Wave.atCounted (w : Wave) : Bool :=
  (w.splits.map (·.2) ++ w.parkedSplits).any fun sp => match sp.state with
    | .held (.cbwt ..) => true
    | _ => false

/-- A wave ranks low: its group is lowered (R174), or it waits at a counted barrier (R27), but R173 gives it its start. -/
def ranksLow (s : State) (w : Wave) : Bool := ((s.group w.group).lowered || w.atCounted) && !w.overdue s.cycle

/-- The issue level of a wave; a helper wave has that of its recruiter's wave (R383), of its lowest lane's where its lanes have
several.
DESIGN CHOICE, safe: log entry 64. -/
def issueLevel (s : State) (w : Wave) : Nat :=
  if !w.helperWave then w.level
  else ((w.helpers.head?.bind fun h => s.wave? (s.turnout h.2.core h.2.entry).wave).map (·.level)).getD w.level

/-- The better of two candidates: higher level, then not lowered (R113); ties keep round-robin order. -/
def outranks (s : State) (a b : Wave) : Bool :=
  issueLevel s b < issueLevel s a || (issueLevel s a = issueLevel s b && !ranksLow s a && ranksLow s b)

/-- The candidate R113 chooses. A wave that has yielded steps back while another can issue (R167), as far as R173 lets it. -/
def bestOf (s : State) (cs : List (Nat × Nat × Wave × Nat × Split)) : Option (Nat × Nat × Wave × Nat × Split) :=
  let fresh := cs.filter fun c => !c.2.2.1.yielded || c.2.2.1.overdue s.cycle
  match (if fresh = [] then cs else fresh) with
  | [] => none
  | x :: xs => some (xs.foldl (fun b c => if outranks s c.2.2.1 b.2.2.1 then c else b) x)

/-- Wake the waves of a quarter. -/
def wakeQuarter (s : State) (c q : Nat) : State :=
  (quarterSlots q).foldl (fun s sl => match NMap.get? (s.core c).slots sl with
    | some wid => wakeWave s wid c sl
    | none => s) s

/-- A quarter whose port is free chooses a wave and a split, and starts the clause. -/
def chooseClause (s : State) (c q : Nat) : State :=
  let s := wakeQuarter s c q
  match bestOf s (candidates s c q) with
  | some (sl, wid, _, e, sp) => startClause s c sl wid e sp
  | none => s

/-! ### The clause boundary (R53, R54, R122, R123) -/

/-- The split that issued goes on to the next clause, unless its last instruction has said otherwise; after a NAP it is
Held for its cycles (R167), after PARK for its loads (R53). A split whose lanes have all left the clause is not there any
more: its entry may hold another. Where a diverging transfer ends the clause, the split that keeps the entry naps.
DESIGN CHOICE, safe: log entry 72. -/
def Wave.closeClause (w : Wave) (i : Issue) (now : Nat) : Wave :=
  let wait := i.park && w.loads ≠ []
  let f (sp : Split) : Split :=
    let sp := if sp.state = .issuing then { sp with pc := i.next, state := .ready } else sp
    if i.nap ≠ 0 ∧ sp.state = .ready then { sp with state := .held (.nap (now + i.nap + 1)) }
    else if wait ∧ sp.state = .ready then { sp with state := .held .park } else sp
  { w with issue := none, parking := w.parking || wait
           splits := if i.mask = 0 then w.splits else NMap.modify w.splits i.split f }

/-- Splits that are gone spin no more (R174). -/
def endGoneSpins (s : State) (wid : Nat) : State :=
  match s.wave? wid with
  | some w => (w.spin.filter fun x => (NMap.get? w.splits x.1).isNone).foldl (fun s x => endSpin s wid x.1) s
  | none => s

/-- Splits at one clause boundary merge where they may (R122), and parked ones return. -/
def mergeSplits (s : State) (wid : Nat) : State :=
  s.modWave wid fun w => match w.place with
    | .resident c _ => (w.refresh s c).merge.unpark
    | _ => w

/-- A wave at its clause boundary stops if that has been asked (R54, R392, R411, R421). -/
def settleBoundary (s : State) (wid : Nat) : State :=
  match s.wave? wid with
  | none => s
  | some w =>
    if w.endReq.isSome then endWave s wid
    else
      let s := mergeSplits (endGoneSpins (releaseLanes s wid w.release) wid) wid
      match s.wave? wid with
      | none => s
      | some w =>
        let gi := (s.group w.group).gang
        if ((s.gang? gi).map (·.suspendReq)).getD false ∧ w.canStop then settleSuspend (suspendWave s wid) gi
        else if w.evictReq ∧ w.canStop then evictNow s wid
        else s

/-- A clause ends. -/
def endClause (s : State) (c slot wid : Nat) (i : Issue) : State :=
  let s := s.modCore c fun k => { k with port := k.port.filter fun x => x.2 ≠ slot }
  settleBoundary (s.modWave wid fun w => w.closeClause i s.cycle) wid

/-! ### One instruction of a clause -/

/-- What an agent's move comes to: an instruction to execute, or a state already reached. -/
inductive Todo where
  | run (i : Instr) (s : State)
  | done (s : State)

/-- The word in hand, stepped by the REP in force. -/
def Issue.word (i : Issue) (iw : IssueWord) : Word64 :=
  match i.rep with
  | some (k, _, f) => repWord iw.word f k
  | none => iw.word

/-- A Rest entry that carries a REP puts it in force (R166). -/
def Issue.enterRep (i : Issue) : Issue :=
  match i.rep, (i.words[i.idx]?).bind (·.rep) with
  | none, some r => { i with rep := some r }
  | _, _ => i

/-- The registers and predicates an instruction writes, as the spin detector names them (R174). -/
def Instr.spinRegs (i : Instr) : List Nat :=
  (i.uses.filter (·.kind.writes)).flatMap (fun u => match u.o with
    | .v n => (List.range u.regs).map (n.val + ·)
    | .s n => (List.range (max 1 u.scalars)).map (192 + n.val + ·)
    | _ => []) ++ (Instr.predDst? i).toList.map (256 + ·.val)

/-- What the instruction writes belongs to the pass of its split (R174). -/
def Wave.notePass (w : Wave) (e : Nat) (i : Instr) : Wave :=
  { w with spin := NMap.modify w.spin e fun x => { x with regs := (x.regs ++ Instr.spinRegs i).dedup } }

/-- The registers and predicates that a load writes when it returns, or a drain when its batch retires, as `Instr.spinRegs` names
them. -/
def Instr.lateRegs (i : Instr) : List Nat :=
  match i with
  | .mdrainv _ _ _ _ pair => [2 * pair.val, 2 * pair.val + 1]
  | i => Instr.spinRegs i

/-- An instruction writes these registers in lanes m while a load or drain that writes them is outstanding (R51). -/
def Wave.noteWrite (w : Wave) (regs : List Nat) (m : LaneMask) : Wave :=
  let lost (o : MemOp) : MemOp :=
    if regs.contains (256 + (Instr.guard o.instr).pred.val) then { o with predLost := true } else o
  { w with
    loads := w.loads.map fun o =>
      lost (if (Instr.lateRegs o.instr).any regs.contains then { o with clobber := o.clobber ||| if o.scal then o.mask else m }
        else o)
    stores := w.stores.map lost }

def Group.noteWrite (g : Group) (wid : Nat) (regs : List Nat) (m : LaneMask) : Group :=
  { g with mq := g.mq.map fun e =>
      if e.wave = wid && (Instr.lateRegs e.instr).any regs.contains then { e with clobber := e.clobber ||| m } else e }

/-- What an instruction about to run writes is noted where an outstanding load or drain will write it, and for its pass. -/
def noteWrites (s : State) (c : Ctx) (split : Nat) (i : Instr) : State :=
  let regs := Instr.spinRegs i
  let s := s.modWave c.wid fun w => (w.notePass split i).noteWrite regs (c.eff (Instr.guard i))
  if regs = [] || (s.group c.w.group).mq = [] then s
  else s.modGroup c.w.group fun g => g.noteWrite c.wid regs (c.eff (Instr.guard i))

/-- The queue of R8 that a command enters; a matrix queue is that of a group. -/
def Instr.enters (i : Instr) (group : Nat) : Option (Nat × Nat) :=
  match i with
  | .slaunch .. => some (0, 0)
  | .coll .. => some (1, 0)
  | .launch .. => some (2, 0)
  | .spawn .. => some (3, 0)
  | i => if Instr.matrixCommand i then some (4, group) else none

/-- A clause that has issued before this one, or in the same cycle from a lower slot, still has a command for a queue: its
commands enter first (R8). -/
def behindIn (s : State) (c slot : Nat) (i : Issue) (q : Nat × Nat) : Bool :=
  (s.core c).port.any fun x => x.2 ≠ slot && match (NMap.get? (s.core c).slots x.2).bind s.wave? with
    | some w => match w.issue with
      | some j => (j.since < i.since || (j.since = i.since && x.2 < slot)) &&
          (j.words.drop j.idx).any fun iw => ((decodeWave iw.word).bind fun k => Instr.enters k w.group) = some q
      | none => false
    | none => false

/-- A command waits for those of earlier clauses (R8). -/
def mustFollow (s : State) (c slot : Nat) (i : Issue) (ins : Instr) (group : Nat) : Bool :=
  match Instr.enters ins group with
  | some q => behindIn s c slot i q
  | none => false

/-- The next instruction of the clause a slot issues. -/
def nextWord (s : State) (c slot wid : Nat) (i : Issue) : Todo :=
  let i := i.enterRep
  let s := { s.modWave wid fun w => { w with issue := some i } with cur := (c, slot) }
  if i.mask = 0 then .done (endClause s c slot wid i) else
  match i.words[i.idx]? with
  | none => .done (endClause s c slot wid i)
  | some iw =>
    match decodeWave (i.word iw), s.ctx? with
    | some ins, some ctx =>
      match Instr.rejected ins ctx.w.allot with
      | some x => .done (trapNow ctx s { cause := 7, info := x })
      | none =>
        if mustFollow s c slot i ins ctx.w.group then .done s
        else .run ins (noteWrites s ctx i.split ins)
    | none, some ctx => .done (trapNow ctx s { cause := 1, info := i.word iw })
    | _, none => .done s

/-- A quarter issues: the next instruction of its clause, or a new clause. A freeze lets clauses end and starts none. -/
def issueTodo (s : State) (c q : Nat) : Todo :=
  match NMap.get? (s.core c).port q with
  | some slot =>
    match (NMap.get? (s.core c).slots slot).bind fun wid => (s.wave? wid).bind fun w => w.issue.map fun i => (wid, i) with
    | some (wid, i) => nextWord s c slot wid i
    | none => .done (s.modCore c fun k => { k with port := NMap.erase k.port q })
  | none => .done (if s.frozen then s else chooseClause s c q)

end Sys2Proof.Machine
end

