-- ==== Sys2Proof/Machine/Lsu.lean ====
section
/-! DEFINITION. The load-store engine: address generation and its checks (R179 to R182), the order in which a wave's
accesses may be performed (R224 to R230), performing them, and late faults (R183). -/

namespace Sys2Proof.Machine

/-! ### Addresses (R179) -/

/-- The index B as a 64-bit term: scalars whole, vector registers sign-extended from 32 bits. -/
def Ctx.index (c : Ctx) (s : State) (l : Nat) (o : Operand) : Word64 :=
  let x := (c.get s l o (o.isS || o = .zero)).val
  match o with
  | .v _ => BitVec.signExtend 64 (lo32 x)
  | .win _ => if ((c.turnoutOf s l).map (·.winVec)).getD false then BitVec.signExtend 64 (lo32 x) else x
  | _ => x

/-- EA of lane l. -/
def Ctx.addrOf (c : Ctx) (s : State) (m : Addr) (l : Nat) : Word64 :=
  (c.get s l m.a true).val + c.index s l m.b + BitVec.signExtend 64 m.off

/-- Two registers of an operand of n elements, each checked alone. -/
def elemRegs (o : Operand) (n : Nat) : List (Operand × Bool) :=
  match o with
  | .v k => (List.range n).map fun i => (.v (Fin.ofNat 192 (k.val + i)), false)
  | .s k => (List.range ((n + 1) / 2)).map fun i => (.s (Fin.ofNat 32 (k.val + i)), true)
  | .win k => [(.win k, decide (1 < n))]
  | _ => []

/-- The registers of an address (check 1 of R182). -/
def Addr.regs (m : Addr) : List (Operand × Bool) := elemRegs m.a 2 ++ elemRegs m.b 1

/-- An address and the registers it uses are wave-uniform. -/
def Addr.uniform (m : Addr) : Bool := !m.a.perLane && !m.b.perLane

/-! ### What an access is -/

/-- Size in bytes (R180). -/
def Instr.bytes : Instr → Nat
  | .ld _ f | .lds f => f.width.bytes
  | .st _ f | .sts f => f.width.bytes
  | .atom f | .red f => f.width.bytes
  | .spawn .. => 64
  | .take .. => 0
  | _ => 8

/-- The access is to scratchpad (R181). -/
def Instr.scratch : Instr → Bool
  | .lds _ | .sts _ => true
  | _ => false

/-- ORDER and SCOPE of an access. -/
def Instr.ordering : Instr → MemOrder × Scope
  | .ld _ f | .lds f => (f.order, f.scope)
  | .st _ f | .sts f => (f.order, f.scope)
  | .atom f | .red f => (f.order, f.scope)
  | .fwait f | .ffill f | .fpeek f | .freset f => (f.order, f.scope)
  | .fence _ o sc => (o, sc)
  | .spawn .. => (.release, .cluster)
  | .take .. => (.acquire, .cluster)
  | .qpush .. => (.release, .group)
  | .bndmin .. => (.release, .cluster)
  | .txe .. => (.acqRel, .device)
  | _ => (.relaxed, .wave)

def acquires : MemOrder → Bool
  | .acquire | .acqRel => true
  | _ => false

def releases : MemOrder → Bool
  | .release | .acqRel => true
  | _ => false

def MemOp.order (o : MemOp) : MemOrder := (Instr.ordering o.instr).1
def MemOp.scope (o : MemOp) : Scope := (Instr.ordering o.instr).2
def MemOp.storeClass (o : MemOp) : Bool := Instr.storeClass o.instr
def MemOp.isFence (o : MemOp) : Bool :=
  match o.instr with
  | .fence .. => true
  | _ => false

def MemOp.isTake (o : MemOp) : Bool :=
  match o.instr with
  | .take .. => true
  | _ => false

def MemOp.isSpawn (o : MemOp) : Bool :=
  match o.instr with
  | .spawn .. => true
  | _ => false

/-- The operation and size of an atomic. -/
def Instr.atomic? : Instr → Option AtomForm
  | .atom f | .red f => some f
  | _ => none

/-- The hint of a load or store (R186). -/
def Instr.hint : Instr → Hint
  | .ld h _ | .st h _ => h
  | _ => .none

/-- The mark a hint leaves on the line in L1. -/
def Hint.mark : Hint → Option Nat
  | .stream => some 0
  | .keep => some 2
  | .none | .l2 => none

def MemOp.at_ (o : MemOp) (l : Nat) : Word64 := NMap.getD o.ea l 0
def MemOp.datum (o : MemOp) (l : Nat) : BitVec 128 := NMap.getD o.data l 0

/-- The access as it goes to the load-store engine. -/
def Ctx.newOp (c : Ctx) (i : Instr) : MemOp :=
  { id := c.w.nextOp, born := c.w.nextOp, instr := i, word := c.iw.word, hdr := c.iw.hdr, idx := c.iw.idx, rep := c.iss.rep, mask := 0,
    owner := c.mask }

/-! ### Which accesses wait for which (R183, R224 to R230, R235) -/

/-- Every access and fence of a wave in program order. -/
def Wave.allOps (w : Wave) : List MemOp :=
  sortBy (fun a b => a.id ≤ b.id) (w.loads ++ w.stores ++ w.asyncs.filter MemOp.isFence)

/-- The lanes whose program order lane l of an access stands in: its own, and for the scalar unit every lane that was
active. -/
def MemOp.side (o : MemOp) (l : Nat) : LaneMask := if o.scal then o.owner else laneBit l

/-- The unperformed lanes of access x that precede lane l of access o, where x was issued before o. -/
def MemOp.ahead (x o : MemOp) (l : Nat) : LaneMask :=
  if x.scal then (if x.owner &&& o.side l = 0 then 0 else x.undone) else x.undone &&& o.side l

/-- Lane j of one access and lane l of another may touch a common byte: the low 16 bits of their addresses overlap, which no
page maps apart. -/
def MemOp.meets (x : MemOp) (j : Nat) (o : MemOp) (l : Nat) : Bool :=
  Instr.scratch x.instr = Instr.scratch o.instr &&
    let a := (x.at_ j).toNat % 65536
    let b := (o.at_ l).toNat % 65536
    a < b + Instr.bytes o.instr && b < a + Instr.bytes x.instr

/-- The lanes of a store-class access that are held back or faulted. -/
def Wave.barred (w : Wave) (x : MemOp) : LaneMask := if x.storeClass then w.heldLanes x else 0

/-- Queue pushes of one wave to one queue are applied in issue order (R205). -/
def MemOp.sameQueue (x o : MemOp) : Bool :=
  match x.instr, o.instr with
  | .qpush _ m _, .qpush _ n _ => m = n
  | _, _ => false

/-- Lane l of access o waits for the earlier access x. A load does not wait for a store that is held back or faulted: it
takes that store's bytes itself. -/
def Wave.waitsFor (w : Wave) (o : MemOp) (l : Nat) (x : MemOp) : Bool :=
  x.id < o.id && ((x.undone ≠ 0 && x.sameQueue o) || (x.ahead o l ≠ 0 &&
    (if x.isFence then acquires x.order || o.storeClass
     else (x.isSpawn && o.isTake) || acquires x.order || releases o.order || (x.storeClass && o.storeClass) ||
       (lanesOf (x.ahead o l &&& ~~~w.barred x)).any fun j => x.meets j o l)))

/-- A load or atomic meets the join counter of a guarded LAUNCH that waits (R367). -/
def Wave.waitsJoin (w : Wave) (o : MemOp) (l : Nat) : Bool :=
  !Instr.scratch o.instr && (!o.storeClass || (Instr.atomic? o.instr).isSome) && w.joinIncr.any fun j =>
    let a := (o.at_ l).toNat
    a < j.2 + 8 && j.2 < a + Instr.bytes o.instr

/-- The lanes of an access that no fault keeps from being performed. -/
def Wave.openLanes (w : Wave) (o : MemOp) : LaneMask := o.undone &&& ~~~(if o.storeClass then w.heldLanes o else o.faulted)

/-- Lane l of an access need wait for nothing. -/
def Wave.laneFree (w : Wave) (o : MemOp) (l : Nat) : Bool := !w.waitsJoin o l && !(w.allOps.any fun x => w.waitsFor o l x)

/-- Its lanes act together, or one after the other: none is performed before all can be (R195, R204, R207, R370). -/
def MemOp.together (o : MemOp) : Bool :=
  match o.instr with
  | .txe .. | .qpush .. | .bndmin .. | .spawn .. => true
  | _ => false

/-- Two lanes of an access that may touch one word: they are performed in one request (R184, R190, R199). -/
def MemOp.oneWord (o : MemOp) (j l : Nat) : Bool := (o.at_ j).toNat % 65536 = (o.at_ l).toNat % 65536

/-- The lanes of an access that may be performed now: those that need wait for nothing, nor do the other lanes at their
address. -/
def Wave.freeLanes (w : Wave) (o : MemOp) : LaneMask :=
  if o.held then 0
  else maskOf fun l => (w.openLanes o).getLsbD l &&
    (lanesOf (w.openLanes o)).all fun j => !(o.together || o.oneWord j l) || w.laneFree o j

/-! ### Changing an access -/

/-- The guard of an unguarded instruction. -/
def noGuard : Guard := ⟨7, false⟩

/-- An access that has been performed or has faulted, or that a fault holds back. -/
def Wave.opSettled (w : Wave) (o : MemOp) : Bool := o.undone &&& ~~~(w.heldLanes o) = 0

def Wave.modOp (w : Wave) (id : Nat) (f : MemOp → MemOp) : Wave :=
  let g (o : MemOp) : MemOp := if o.id = id then f o else o
  { w with loads := w.loads.map g, stores := w.stores.map g, asyncs := w.asyncs.map g }

def Wave.op? (w : Wave) (id : Nat) : Option MemOp := (w.loads ++ w.stores ++ w.asyncs).find? fun o => o.id = id

def State.modOp (s : State) (wid id : Nat) (f : MemOp → MemOp) : State := s.modWave wid fun w => w.modOp id f

/-- The lanes performed leave a store; one with none left is gone. -/
def Wave.settleStores (w : Wave) : Wave :=
  { w with stores := (w.stores.map fun o => { o with mask := o.undone, done := 0 }).filter fun o => o.mask ≠ 0 }

/-- Lanes are performed, with their data. -/
def State.finishLanes (s : State) (wid id : Nat) (m : LaneMask) (data : NMap (BitVec 128)) : State :=
  s.modWave wid fun w => (w.modOp id fun o =>
    { o with done := o.done ||| m, data := data.foldl (fun d x => NMap.set d x.1 x.2) o.data }).settleStores

/-- The core whose caches a wave's accesses go through: its own, or its group's while it is away. -/
def waveCore (s : State) (w : Wave) : Nat :=
  match w.place with
  | .resident c _ => c
  | _ => (s.group w.group).core

/-! ### Late faults (R183, R393, R420) -/

/-- One faulting lane: the lane, its cause and its word of information. -/
structure LaneFault where
  l : Nat
  bad : Bad
  deriving DecidableEq, Repr

/-- Whether lane l of a wave is a helper lane that serves a turnout. -/
def isHelperLane (s : State) (wid l : Nat) : Bool :=
  match s.wave? wid with
  | some w => (NMap.get? w.helpers l).isSome
  | none => false

/-- The slot of a wave. -/
def waveSlot (w : Wave) : Nat :=
  match w.place with
  | .resident _ sl => sl
  | _ => 0

/-- Add a late fault, joining one that is pending for the same access and cause: its lanes are one set, and its address that
of the lowest.
DEDUCED, unsafe: log entry 49. -/
def joinFault (o : MemOp) (f : LateFault) : List LateFault → List LateFault
  | [] => [f]
  | g :: rest =>
    if g.op = f.op ∧ g.cause = f.cause then
      let m := g.lanes ||| f.lanes
      { g with lanes := m, addr := o.at_ (lowestLane m), info := if lowestLane m = lowestLane g.lanes then g.info else f.info } :: rest
    else g :: joinFault o f rest

/-- A guarded command that refers to an access hears of it (R36). -/
def Wave.notePred (w : Wave) (id : Nat) (lanes bits : LaneMask) (cause : Option (BitVec 8)) : Wave :=
  match (w.loads ++ w.stores).find? fun o => o.id = id with
  | some o => if o.watched then { w with predNotes := w.predNotes ++ [⟨o.born, lanes, bits, cause⟩] } else w
  | none => w

/-- A late fault of helper lane l: that of a held store, performed with its chunk, is charged at once; that of a load when the
lane comes to wait for it (R391, R393). -/
def noteHelperFault (s : State) (wid : Nat) (o : MemOp) (f : LaneFault) : State :=
  match s.wave? wid with
  | none => s
  | some w =>
    if o.storeClass then
      helperFault (s.modWave wid fun w => w.modOp o.id (MemOp.dropLanes (laneBit f.l))) wid (waveCore s w) (waveSlot w) o.hdr
        f.bad.1 (o.at_ f.l) f.l
    else
      let x : LateFault := { cause := f.bad.1, addr := o.at_ f.l, op := some o.id, hdr := o.hdr }
      s.modWave wid fun w => { w.modOp o.id (fun o => { o with faulted := o.faulted ||| laneBit f.l }) with
        helpers := NMap.modify w.helpers f.l fun h => { h with late := h.late ++ [x] } }

/-- Record the late faults of one access: one fault for each cause, in ascending order of cause, and a helper fault for
each helper lane. -/
def noteFaults (s : State) (wid : Nat) (o : MemOp) (fs : List LaneFault) : State :=
  if fs = [] then s
  else
    match s.wave? wid with
    | none => s
    | some _ =>
      let (hs, own) := fs.partition fun f => isHelperLane s wid f.l
      let s := hs.foldl (fun s f => noteHelperFault s wid o f) s
      let lanes := maskOf fun l => own.any fun f => f.l = l
      let causes := (sortBy (fun a b => a.toNat ≤ b.toNat) (own.map (·.bad.1))).dedup
      let late := causes.map fun k =>
        let mine := own.filter fun f => f.bad.1 = k
        let first := mine.headD ⟨0, (0, 0)⟩
        ({ cause := k, addr := o.at_ first.l, lanes := maskOf fun l => mine.any fun f => f.l = l, info := first.bad.2,
           op := some o.id } : LateFault)
      s.modWave wid fun w =>
        { (match late.head? with
            | some f => w.notePred o.id 0 0 (some f.cause)
            | none => w).modOp o.id (fun o => { o with faulted := o.faulted ||| lanes }) with
          faults := late.foldl (fun fs f => joinFault o f fs) w.faults
          heldBack := if o.storeClass then w.heldBack ||| lanes else w.heldBack }

/-! ### Other devices (R448, R449) -/

/-- A remote address that can be sent: a known device and an offset within its memory. -/
def remoteKnown (s : State) (pa : Nat) : Bool :=
  pa % 2 ^ 41 < deviceEnd && Memory.readNat s.mem (s.dev.rtBase.toNat + 2 * (pa / 2 ^ 41 % 1024)) 2 % 4096 ≠ 0

/-- Where an access goes: memory of this device or the host, or another device that is asked. -/
inductive Target where
  | here (p : Phys)
  | away (pa : Nat)
  deriving DecidableEq, Repr

/-- Translate one lane's access. Scratchpad takes no part. -/
def target (s : State) (c asid : Nat) (a : Word64) (need : Need) : State × Except Bad Target :=
  match translate s c asid a.toNat need with
  | (s, .error b) => (s, .error b)
  | (s, .ok p) =>
    if p.remote then (s, if remoteKnown s p.pa then .ok (.away p.pa) else .error (46, 0))
    else (s, .ok (.here p))

/-! ### Acquires (R214, R226, R229) -/

/-- A wave has read a line: a later acquire of DEVICE or SYSTEM scope by a fence acts for that read too (R226). -/
def noteRead (s : State) (wid ln : Nat) : State :=
  s.modWave wid fun w => if w.seen.contains ln then w else { w with seen := ln :: w.seen }

/-- The acquire action of an access at its scope. -/
def acquireFor (s : State) (c : Nat) (order : MemOrder) (scope : Scope) : State :=
  if acquires order && Scope.wide scope then acquireDevice s c else s

/-- The acquire of a fence at DEVICE or SYSTEM scope: it acts for what the wave has read before, so what other clusters have
released to those lines is promoted (R215, R226). -/
def fenceAcquire (s : State) (wid c : Nat) : State :=
  let lines := ((s.wave? wid).map (·.seen)).getD []
  let s := lines.foldl (fun s ln => settleOthers s (clusterOf c) ln true) s
  acquireDevice (s.modWave wid fun w => { w with seen := [] }) c

/-! ### Reading (R185, R186, R214) -/

/-- Read a line's bytes at its home slice: the cluster keeps no copy that a later load could find older. -/
def homeRead (s : State) (k pa n : Nat) : State × List Byte :=
  let s := dropCopies (writeBackTo s k (lineNo pa)) k (lineNo pa)
  (s, Memory.readBytes s.mem pa n)

/-- Read bytes at a place, with the acquire of R214 where the access has one: then the home slice serves it. -/
def readPlace (s : State) (c : Nat) (p : Phys) (n : Nat) (o : MemOp) : State × Except Bad (List Byte) :=
  if p.host then (acquireFor s c o.order o.scope, .ok (Memory.readBytes s.hostMem p.pa n))
  else if lineBad s p.pa then (s, .error (42, 0))
  else if acquires o.order && Scope.wide o.scope then
    let s := settleLine s (clusterOf c) (lineNo p.pa) true
    (acquireDevice s c, .ok (Memory.readBytes s.mem p.pa n))
  else if Instr.hint o.instr = .l2 then
    let r := homeRead s (clusterOf c) p.pa n
    (r.1, .ok r.2)
  else physRead s c p n (Hint.mark (Instr.hint o.instr))

/-- Put the bytes of lane j of a store over what stands at address a. -/
def MemOp.cover (x : MemOp) (j a : Nat) (bs : List Byte) : List Byte :=
  let b := (x.at_ j).toNat
  bs.zipIdx.map fun y => if b ≤ a + y.2 ∧ a + y.2 < b + Instr.bytes x.instr then
    BitVec.ofNat 8 ((x.datum j).toNat / 2 ^ (8 * (a + y.2 - b))) else y.1

/-- A store of the space that an access reads. -/
def MemOp.storesIn (x o : MemOp) : Bool :=
  match x.instr with
  | .st .. | .sts .. => Instr.scratch x.instr = Instr.scratch o.instr
  | _ => false

/-- Bytes that the wave's earlier stores which are not yet performed put over what lane l read: those that a fault holds
back. -/
def Wave.overlay (w : Wave) (o : MemOp) (l a : Nat) (bs : List Byte) : List Byte :=
  (w.stores.filter fun x => x.id < o.id && x.storesIn o).foldl (fun bs x =>
    (lanesOf (x.ahead o l)).foldl (fun bs j => x.cover j a bs) bs) bs

/-- Bytes that a helper lane's earlier held stores put over what was read, the youngest last (R188, R390). -/
def heldOverlay (h : HelperLane) (o : MemOp) (l : Nat) (bs : List Byte) : List Byte :=
  (h.buf.filter fun x => x.op.id < o.id && x.op.storesIn o).foldl (fun bs x => x.op.cover x.lane (o.at_ l).toNat bs) bs

/-- What one lane's read comes to. -/
inductive ReadOut where
  | ok (bs : List Byte)
  | bad (b : Bad)
  | away
  deriving DecidableEq, Repr

/-- Read the bytes of lane l of a load. -/
def readLane (s : State) (wid c asid gang : Nat) (o : MemOp) (l : Nat) : State × ReadOut :=
  let n := Instr.bytes o.instr
  if Instr.scratch o.instr then (s, .ok (scratchRead s gang (o.at_ l) n))
  else
    match target s c asid (o.at_ l) .read with
    | (s, .error b) => (s, .bad b)
    | (s, .ok (.away _)) => (s, .away)
    | (s, .ok (.here p)) =>
      match readPlace s c p n o with
      | (s, .error b) => (s, .bad b)
      | (s, .ok bs) => (if p.host then s else noteRead s wid (lineNo p.pa), .ok bs)

/-- The reads of a load so far: by address, so that lanes which read the same bytes receive the same value (R184). -/
structure Reads where
  s : State
  seen : List (Word64 × ReadOut) := []
  data : NMap (BitVec 128) := []
  bad : List LaneFault := []
  away : LaneMask := 0

/-- Add one lane to the reads of a load. -/
def Reads.lane (r : Reads) (wid c asid gang : Nat) (o : MemOp) (l : Nat) : Reads :=
  let (r, out) := match r.seen.find? fun x => x.1 = o.at_ l with
    | some x => (r, x.2)
    | none =>
      let (s, out) := readLane r.s wid c asid gang o l
      ({ r with s := s, seen := (o.at_ l, out) :: r.seen }, out)
  match out with
  | .bad b => { r with bad := r.bad ++ [⟨l, b⟩] }
  | .away => { r with away := r.away ||| laneBit l }
  | .ok bs =>
    let bs := match r.s.wave? wid with
      | some w => match NMap.get? w.helpers l with
        | some h => heldOverlay h o l bs
        | none => w.overlay o l (o.at_ l).toNat bs
      | none => bs
    { r with data := NMap.set r.data l (BitVec.ofNat 128 (leNat bs)) }

/-- The gang of a wave. -/
def gangOf (s : State) (w : Wave) : Nat := (s.group w.group).gang

/-- Perform lanes of an LD or LDS: their data is fixed, or their fault is noted; those of other devices are asked. -/
def performLoad (s : State) (wid : Nat) (o : MemOp) (m : LaneMask) : State :=
  match s.wave? wid with
  | none => s
  | some w =>
    let r := (lanesOf m).foldl (fun r l => r.lane wid (waveCore s w) w.asid (gangOf s w) o l) ({ s := s } : Reads)
    let s := noteFaults r.s wid o r.bad
    let s := s.finishLanes wid o.id (maskOf fun l => (NMap.get? r.data l).isSome) r.data
    if r.away = 0 then s else s.modOp wid o.id fun o => { o with remote := true, sentAt := s.tick.toNat }

/-! ### Writing (R185, R213, R214) -/

/-- The release action of R214 for an access at its scope. -/
def releaseFor (s : State) (c : Nat) (order : MemOrder) (scope : Scope) : State :=
  if releases order && Scope.wide scope then releaseDevice s (clusterOf c) else s

/-- Bytes a store writes from lane l. -/
def MemOp.bytesOf (o : MemOp) (l : Nat) : List Byte := leBytes (o.datum l).toNat (Instr.bytes o.instr)

/-- Write the bytes of a store at a place, where its hint says (R186). -/
def placeWrite (s : State) (c : Nat) (p : Phys) (o : MemOp) (bs : List Byte) : State × Except Bad Unit :=
  if Instr.hint o.instr = .l2 ∧ p.host = false ∧ reaches s p.pa = true then (homeStore s c p.pa bs o.scope, .ok ())
  else physWrite s c p bs o.scope (Hint.mark (Instr.hint o.instr))

/-- Write the bytes of lane l of a store; an access to another device is sent. -/
def writeLane (s : State) (c asid gang : Nat) (o : MemOp) (l : Nat) : State × Except Bad Bool :=
  if Instr.scratch o.instr then (scratchWrite s gang (o.at_ l) (o.bytesOf l), .ok true)
  else
    match target s c asid (o.at_ l) .write with
    | (s, .error b) => (s, .error b)
    | (s, .ok (.away _)) => (releaseFor s c o.order o.scope, .ok false)
    | (s, .ok (.here p)) =>
      match placeWrite (releaseFor s c o.order o.scope) c p o (o.bytesOf l) with
      | (s, .error b) => (s, .error b)
      | (s, .ok _) => (s, .ok true)

/-- Perform lanes of an ST or STS, in ascending order (R184). -/
def performStore (s : State) (wid : Nat) (o : MemOp) (m : LaneMask) : State :=
  match s.wave? wid with
  | none => s
  | some w =>
    let r := (lanesOf m).foldl (fun (r : State × List LaneFault) l =>
      match writeLane r.1 (waveCore r.1 w) w.asid (gangOf r.1 w) o l with
      | (s, .error b) => (s, r.2 ++ [⟨l, b⟩])
      | (s, .ok true) => (s.finishLanes wid o.id (laneBit l) [], r.2)
      | (s, .ok false) => (s.modOp wid o.id fun o => { o with remote := true, sentAt := s.tick.toNat }, r.2)) (s, [])
    noteFaults r.1 wid o r.2

/-! ### Futures words (R198 to R200) and reduction lines (R220, R221) -/

/-- A lane has observed a futures word: its cluster keeps no older copy of the line (R224), and an acquire acts (R214). -/
def observe (s : State) (wid c ln : Nat) (o : MemOp) : State :=
  acquireFor (noteRead (dropCopies s (clusterOf c) ln) wid ln) c o.order o.scope

/-- A futures word becomes Full: every waiter receives its value and has observed it. -/
def wakeWord (s : State) (ln word : Nat) : State :=
  let i := s.line ln
  let v := BitVec.ofNat 128 (Memory.readNat s.mem (64 * ln + 8 * word) 8)
  let s := (i.waiters.filter fun x => x.1 = word).foldl (fun s x =>
    let s := s.finishLanes x.2.1 x.2.2.1 (laneBit x.2.2.2) [(x.2.2.2, v)]
    match (s.wave? x.2.1).bind fun w => (w.op? x.2.2.1).map fun o => (w, o) with
    | some (w, o) => observe s x.2.1 (waveCore s w) ln o
    | none => s) s
  s.modLine ln fun i => { i with
    emptyWords := i.emptyWords &&& ~~~(BitVec.ofNat 8 (2 ^ word)), waiters := i.waiters.filter fun x => x.1 ≠ word }

/-- Count n contributions to a line; at TARGET the counter disarms and the eight words become Full (R221). -/
def countLine (s : State) (ln n : Nat) : State :=
  match (s.line ln).counter with
  | none => s
  | some (t, k) =>
    if k + n < t then s.modLine ln fun i => { i with counter := some (t, k + n) }
    else (List.range 8).foldl (fun s w => wakeWord s ln w) (s.modLine ln fun i => { i with counter := none })

/-- Arm the counter of a line (R220). -/
def armLine (s : State) (ln t : Nat) : State :=
  s.modLine ln fun i => { i with counter := some (t, 0), emptyWords := BitVec.allOnes 8 }

/-! ### Atomics (R190) -/

/-- The new value of one lane's atomic. -/
def AtomOp.apply (op : AtomOp) (n v x new : Nat) : Nat :=
  let sg (y : Nat) : Int := if y < 2 ^ (8 * n - 1) then y else (y : Int) - 2 ^ (8 * n)
  match op with
  | .add => (v + x) % 2 ^ (8 * n)
  | .min => min v x
  | .max => max v x
  | .smin => if sg x < sg v then x else v
  | .smax => if sg v < sg x then x else v
  | .and => v &&& x
  | .or => v ||| x
  | .xor => v ^^^ x
  | .exch => x
  | .cas => if v = x then new else v

/-- Run the lanes of one request over a value: the last value and each lane's old one. -/
def atomicFold (op : AtomOp) (n : Nat) (o : MemOp) : List Nat → Nat → Nat × NMap (BitVec 128)
  | [], v => (v, [])
  | l :: ls, v =>
    let x := (o.datum l).toNat % 2 ^ (8 * n)
    let new := (o.datum l).toNat / 2 ^ 64 % 2 ^ (8 * n)
    let r := atomicFold op n o ls (AtomOp.apply op n v x new)
    (r.1, NMap.set r.2 l (BitVec.ofNat 128 v))

/-- A release narrower than DEVICE that is performed at the home slice leaves its cluster's record there, so that an acquire
promotes it (R215, R226). -/
def noteRelease (s : State) (k ln : Nat) (order : MemOrder) (scope : Scope) : State :=
  if releases order && !Scope.wide scope then noteWriter s k ln else s

/-- One request at its home slice, or in host memory: all its lanes in one step. -/
def homeAtomic (s : State) (c : Nat) (p : Phys) (o : MemOp) (f : AtomForm) (ls : List Nat) :
    State × Except Bad (NMap (BitVec 128)) :=
  let n := f.width.bytes
  let s := releaseFor s c f.order f.scope
  if p.host then
    let r := atomicFold f.op n o ls (Memory.readNat s.hostMem p.pa n)
    (acquireFor (hostStore s c p.pa (leBytes r.1 n)) c f.order f.scope, .ok r.2)
  else if lineBad s p.pa then (s, .error (42, 0))
  else
    let k := clusterOf c
    let ln := lineNo p.pa
    let s := dropCopies (settleLine s k ln (acquires f.order && Scope.wide f.scope)) k ln
    let r := atomicFold f.op n o ls (Memory.readNat s.mem p.pa n)
    let s := homeWrite s p.pa (leBytes r.1 n)
    let s := if o.isAtom then s else countLine s ln ls.length
    (acquireFor (noteRelease s k ln f.order f.scope) c f.order f.scope, .ok r.2)

/-- Perform the lanes of an ATOM or RED that share the address of lane l (R190). -/
def performAtomic (s : State) (wid : Nat) (o : MemOp) (m : LaneMask) (l : Nat) : State :=
  match s.wave? wid, Instr.atomic? o.instr with
  | some w, some f =>
    let c := waveCore s w
    let ls := (lanesOf m).filter fun j => o.at_ j = o.at_ l
    match target s c w.asid (o.at_ l) (if o.isAtom then .both else .write) with
    | (s, .error b) => noteFaults s wid o (ls.map fun j => ⟨j, b⟩)
    | (s, .ok (.away _)) =>
      (releaseFor s c f.order f.scope).modOp wid o.id fun o => { o with remote := true, sentAt := s.tick.toNat }
    | (s, .ok (.here p)) =>
      match homeAtomic s c p o f ls with
      | (s, .error b) => noteFaults s wid o (ls.map fun j => ⟨j, b⟩)
      | (s, .ok olds) =>
        (if p.host then s else noteRead s wid (lineNo p.pa)).finishLanes wid o.id (maskOf fun j => ls.contains j) olds
  | _, _ => s

/-! ### Futures requests (R199, R200) -/

/-- A futures request of lanes ls at its home slice. -/
def homeFuture (s : State) (wid c pa : Nat) (o : MemOp) (ls : List Nat) : State :=
  let ln := lineNo pa
  let word := pa % 64 / 8
  let k := clusterOf c
  let wide := Scope.wide o.scope
  let all := maskOf fun j => ls.contains j
  let empty := (s.line ln).emptyWords.getLsbD word
  match o.instr with
  | .fwait _ =>
    let s := settleLine s k ln (acquires o.order && wide)
    if empty then
      (s.modLine ln fun i => { i with waiters := i.waiters ++ ls.map fun j => (word, wid, o.id, j) }).modOp wid o.id
        fun o => { o with parked := true }
    else
      let v := BitVec.ofNat 128 (Memory.readNat s.mem pa 8)
      observe (s.finishLanes wid o.id all (ls.map fun j => (j, v))) wid c ln o
  | .fpeek _ =>
    let s := settleLine s k ln (acquires o.order && wide)
    let v := BitVec.ofNat 128 (Memory.readNat s.mem pa 8 + (if empty then 0 else 1) * 2 ^ 64)
    observe (s.finishLanes wid o.id all (ls.map fun j => (j, v))) wid c ln o
  | .ffill _ =>
    let s := dropCopies (settleLine (releaseFor s c o.order o.scope) k ln false) k ln
    if empty then
      let first := ls.headD 0
      let s := noteRelease (homeWrite s pa (leBytes ((o.datum first).toNat % 2 ^ 64) 8)) k ln o.order o.scope
      let s := wakeWord s ln word
      noteFaults (s.finishLanes wid o.id (laneBit first) []) wid o (ls.tail.map fun j => ⟨j, (44, 0)⟩)
    else noteFaults s wid o (ls.map fun j => ⟨j, (44, 0)⟩)
  | _ =>
    let s := noteRelease (releaseFor s c o.order o.scope) k ln o.order o.scope
    let s := s.modLine ln fun i => { i with emptyWords := i.emptyWords ||| BitVec.ofNat 8 (2 ^ word) }
    (noteStore s ln).finishLanes wid o.id all []

/-- FRESET needs write permission, the others both (R440).
DEDUCED, unsafe: log entry 32. -/
def futureNeed : Instr → Need
  | .freset _ => .write
  | _ => .both

/-- Perform the lanes of a futures instruction that share the address of lane l. Host memory holds no futures words. -/
def performFuture (s : State) (wid : Nat) (o : MemOp) (m : LaneMask) (l : Nat) : State :=
  match s.wave? wid with
  | none => s
  | some w =>
    let c := waveCore s w
    let ls := (lanesOf m).filter fun j => o.at_ j = o.at_ l
    let bad (s : State) (b : Bad) : State := noteFaults s wid o (ls.map fun j => ⟨j, b⟩)
    if o.parked && (s.lines.any fun x => x.2.waiters.any fun y => y.2.1 = wid && y.2.2.1 = o.id && y.2.2.2 = l) then s
    else
      match target s c w.asid (o.at_ l) (futureNeed o.instr) with
      | (s, .error b) => bad s b
      | (s, .ok (.away _)) => bad s (46, 0)
      | (s, .ok (.here p)) =>
        if p.host then bad s (45, 0)
        else if lineBad s p.pa then bad s (42, 0)
        else homeFuture s wid c p.pa o ls

/-! ### Queues and bound registers (R204, R207) -/

def queueRoom (s : State) (c n : Nat) : Nat := 256 - (s.queue c n).words.length

/-- A change in a core's queues, or a cluster's bound registers, clears the spin marks of its groups (R174). -/
def clearSpinWhere (s : State) (p : Nat → Bool) : State :=
  { s with groups := NMap.mapVal s.groups fun _ g => if g.lowered && p g.core then { g with lowered := false } else g }

/-- Push words while there is room. -/
def pushWords (s : State) (c n : Nat) (ws : List Word32) : State :=
  clearSpinWhere (s.modCore c fun k => { k with
    queues := NMap.modify k.queues n fun q => { q with words := q.words ++ ws.take (256 - q.words.length) } }) (· = c)

/-- The lanes that push, and those that find no room. -/
def pushLanes (s : State) (c n : Nat) (ls : List Nat) : List Nat × List Nat := (ls.take (queueRoom s c n), ls.drop (queueRoom s c n))

/-- The least of some values, signed. -/
def minSigned : List Word64 → Word64
  | [] => 0x7FFFFFFFFFFFFFFF#64
  | x :: xs => if x.slt (minSigned xs) then x else minSigned xs

/-- Send a BNDMIN toward its cluster (R207). -/
def sendBound (s : State) (c id n : Nat) (v : Word64) : State :=
  s.modCluster (clusterOf c) fun k => { k with bndPending := k.bndPending ++ [(id, n, v)] }

/-- Perform again the lanes of a QPUSH or BNDMIN that a fault held back. -/
def performHeld (s : State) (wid : Nat) (o : MemOp) (m : LaneMask) : State :=
  match s.wave? wid with
  | none => s
  | some w =>
    let c := waveCore s w
    match o.instr with
    | .qpush g n _ =>
      let (ok, full) := pushLanes s c n.val (lanesOf m)
      let s := pushWords s c n.val (ok.map fun l => BitVec.ofNat 32 (o.datum l).toNat)
      let s := if full = [] ∨ g.pred = 7 then s else
        s.modWave wid fun w => w.setPBits g.pred.val (maskOf fun l => full.contains l) (if g.neg then allLanes else 0)
      s.finishLanes wid o.id m []
    | .bndmin _ n _ _ =>
      (sendBound s c o.id n.val (minSigned ((lanesOf m).map fun l => BitVec.ofNat 64 (o.datum l).toNat))).finishLanes
        wid o.id m []
    | _ => s

/-! ### Tasks (R369, R370) -/

/-- A deque is full when its core part is full and its spill part has fewer than 32 free entries (R369). -/
def dequeFull (s : State) (c : Nat) : Bool :=
  let k := s.core c
  64 ≤ k.deque.length && k.spillCap.toNat < k.spill.length + 32

/-- Store what spilled entries are written as: 64 bytes an entry, free values, since the layout is the device's own (R369).
DEDUCED, unsafe: log entry 35. -/
def spillBytes (s : State) (c : Nat) : State :=
  let k := s.core c
  let bs := (List.range 256).flatMap fun i => leBytes (Config.word (s.free + i)).toNat 8
  (engineWrite { s with free := s.free + 256 } c 0 (k.spillBase.toNat + 64 * k.spill.length) bs .group).1

/-- Push a task at the bottom of a core's deque; a full core part first spills its 32 topmost entries (R369). -/
def pushTask (s : State) (c : Nat) (t : Task) : State :=
  if (s.core c).deque.length < 64 then s.modCore c fun k => { k with deque := k.deque ++ [t] }
  else (spillBytes s c).modCore c fun k => { k with spill := k.spill ++ k.deque.take 32, deque := k.deque.drop 32 ++ [t] }

/-- Add to the 8-byte counter at a virtual address, at its home slice. A counter in another device's memory is not reached
(cause 46). -/
def homeAdd (s : State) (c asid : Nat) (va : Word64) (d : Nat) : State × Except Bad Unit :=
  match target s c asid va .both with
  | (s, .error b) => (s, .error b)
  | (s, .ok (.away _)) => (s, .error (46, 0))
  | (s, .ok (.here p)) =>
    if p.host then
      ({ s with hostMem := Memory.writeNat s.hostMem p.pa 8 (Memory.readNat s.hostMem p.pa 8 + d) }, .ok ())
    else if lineBad s p.pa then (s, .error (42, 0))
    else
      let k := clusterOf c
      let ln := lineNo p.pa
      let s := dropCopies (settleLine s k ln false) k ln
      (homeWrite s p.pa (leBytes (Memory.readNat s.mem p.pa 8 + d) 8), .ok ())

/-- One lane's SPAWN (R370): pushed, refused by a full deque, or a late fault. -/
def spawnLane (s : State) (c asid : Nat) (o : MemOp) (l : Nat) : State × Except Bad Bool :=
  if dequeFull s c then (s, .ok false)
  else
    let b : Word64 := BitVec.ofNat 64 (o.datum l).toNat
    let s := releaseDevice s (clusterOf c)
    match virtReadWords s c asid ((o.at_ l).toNat + 8) 7 with
    | (s, .error (e, _)) => (s, .error e)
    | (s, .ok bs) =>
      match (if b = 0 then (s, .ok ()) else homeAdd s c asid b 1) with
      | (s, .error e) => (s, .error e)
      | (s, .ok _) =>
        let ws := (List.range 7).map fun i => BitVec.ofNat 64 (leNat ((bs.drop (8 * i)).take 8))
        (pushTask s c { asid := asid, words := b :: ws }, .ok true)

/-- An engine's write of predicate bits for an access: a wave in its handler takes it into what its trap set aside, for an
access issued before the trap. -/
def Wave.landPred (w : Wave) (id p : Nat) (lanes bits : LaneMask) : Wave :=
  let w := w.notePred id lanes bits none
  match w.frame.saved with
  | some sv =>
    if id < w.frame.opAt then
      { w with frame := { w.frame with
          saved := some { sv with preds := NMap.set sv.preds p ((NMap.getD sv.preds p 0 &&& ~~~lanes) ||| (bits &&& lanes)) } } }
    else w.setPBits p lanes bits
  | none => w.setPBits p lanes bits

/-- The guard predicate bits of these lanes become false (R203, R370, R371). -/
def refuse (s : State) (wid id : Nat) (g : Guard) (m : LaneMask) : State :=
  if m = 0 ∨ g.pred = 7 then s
  else s.modWave wid fun w => w.landPred id g.pred.val m (if g.neg then allLanes else 0)

/-- Perform the lanes of a SPAWN in ascending order. -/
def performSpawn (s : State) (wid : Nat) (o : MemOp) (m : LaneMask) : State :=
  match s.wave? wid with
  | none => s
  | some w =>
    (lanesOf m).foldl (fun s l =>
      match spawnLane s (waveCore s w) w.asid o l with
      | (s, .error b) => noteFaults s wid o [⟨l, b⟩]
      | (s, .ok ok) =>
        (if ok then s else refuse s wid o.id (Instr.guard o.instr) (laneBit l)).finishLanes wid o.id (laneBit l) []) s

/-- The last element of a list that satisfies a test, and the list without it. -/
def takeLast (f : Task → Bool) (l : List Task) : Option (Task × List Task) :=
  match l.reverse.find? f with
  | some t => some (t, (l.reverse.erase t).reverse)
  | none => none

/-- Take from the bottom of a core's own deque; a bottom pop refills an empty core part (R369, R371). -/
def takeBottom (s : State) (c asid : Nat) : Option (Task × State) :=
  let k := s.core c
  let n := k.spill.length - 32
  let k := if k.deque = [] then { k with deque := k.spill.drop n, spill := k.spill.take n } else k
  let mine (t : Task) : Bool := t.asid = asid
  match takeLast mine k.deque with
  | some (t, rest) => some (t, s.setCore c { k with deque := rest })
  | none => (takeLast mine k.spill).map fun x => (x.1, s.setCore c { k with spill := x.2 })

/-- Take from the top of a deque. -/
def takeTop (s : State) (c asid : Nat) : Option (Task × State) :=
  let k := s.core c
  let mine (t : Task) : Bool := t.asid = asid
  if (s.tower (towerOf c)).gone then none
  else
    match k.spill.find? mine with
    | some t => some (t, s.setCore c { k with spill := k.spill.erase t })
    | none => (k.deque.find? mine).map fun t => (t, s.setCore c { k with deque := k.deque.erase t })

/-- The other deques in the order TAKE probes them (R371). -/
def stealOrder (c : Nat) : List Nat :=
  let k := clusterOf c
  let t := towerOf c
  ([1, 2, 3].map fun i => 4 * k + (c + i) % 4) ++
    ((List.range 15).flatMap fun i => clusterCores (16 * t + (k + i + 1) % 16)) ++
    [1, 2, 3].flatMap fun i => (List.range 64).map fun n => 64 * ((t + i) % 4) + n

/-- A TAKE probes the next deque (R371), the other waves' steps falling between its probes: the words it found stand under 0
to 7 of its data, the mask of active lanes under 8, 1 under 9 when it found a task, and under 10 the deques probed before. -/
def performTake (s : State) (wid : Nat) (o : MemOp) : State :=
  match s.wave? wid with
  | none => s
  | some w =>
    let c := waveCore s w
    let n := (o.datum 10).toNat
    match if n = 0 then takeBottom s c w.asid else takeTop s ((stealOrder c).getD (n - 1) c) w.asid with
    | some (t, s) =>
      (acquireDevice s c).finishLanes wid o.id o.undone ((9, 1) :: t.words.zipIdx.map fun x => (x.2, BitVec.ofNat 128 x.1.toNat))
    | none =>
      if n < (stealOrder c).length then
        s.modOp wid o.id fun o => { o with data := NMap.set o.data 10 (BitVec.ofNat 128 (n + 1)) }
      else s.finishLanes wid o.id o.undone []

/-! ### Transactions at their commit (R193, R195) -/

/-- The key of a line in a transaction's sets: host lines stand apart from device lines. -/
def lineKey (p : Phys) : Nat := p.pa / 64 + if p.host then 2 ^ 60 else 0

def keyPhys (k : Nat) : Phys := if 2 ^ 60 ≤ k then ⟨64 * (k - 2 ^ 60), true⟩ else ⟨64 * k, false⟩

/-- The key of a byte. -/
def byteKey (p : Phys) : Nat := p.pa + if p.host then 2 ^ 60 * 64 else 0

/-- The value of a line now, as its home holds it with any dirty copy written back. -/
def lineNow (s : State) (c : Nat) (k : Nat) : State × List Byte :=
  let p := keyPhys k
  if p.host then (s, Memory.readBytes s.hostMem p.pa 64)
  else
    let s := settleLine s (clusterOf c) (lineNo p.pa) false
    (s, homeLine s (lineNo p.pa))

/-- The sets of two lanes meet so that the higher one is lost (R195). -/
def Tx.clash (t low : Tx) : Bool :=
  t.wlines.any (fun k => (NMap.get? low.reads k).isSome || low.wlines.contains k) ||
    t.reads.any fun x => low.wlines.contains x.1

/-- Every line a lane read holds the value recorded for it.
DEDUCED, unsafe: log entry 33. -/
def validate (s : State) (c : Nat) : NMap (List Byte) → State × Bool
  | [] => (s, true)
  | (k, bs) :: rest =>
    let (s, now) := lineNow s c k
    if now = bs then validate s c rest else (s, false)

/-- Write a lane's held bytes at the home slices; `performTxe` has written the cluster's dirty lines back. -/
def publish (s : State) (c : Nat) (t : Tx) : State :=
  let s := t.wlines.foldl (fun s k =>
    if (keyPhys k).host then s
    else dropCopies (settleLine s (clusterOf c) (lineNo (keyPhys k).pa) false) (clusterOf c) (lineNo (keyPhys k).pa)) s
  t.wbytes.foldl (fun s b =>
    let x := Memory.read t.writes b
    if 2 ^ 60 * 64 ≤ b then hostPut s (b - 2 ^ 60 * 64) [x] else homeWrite s b [x]) s

/-- End one lane's transaction: its status word. -/
def endTx (s : State) (c : Nat) (txs : NMap Tx) (l : Nat) : State × Nat :=
  match NMap.get? txs l with
  | none => (s, 9)
  | some t =>
    match t.st with
    | .doomed code user => (s, code + if code = 6 then user * 2 ^ 8 else 0)
    | .open_ =>
      if txs.any fun x => x.1 < l && decide (x.2.st = .open_) && t.clash x.2 then (s, 3)
      else
        let (s, ok) := validate s c t.reads
        if ok then (publish s c t, 0) else (s, 1)

/-- The Open lanes of a TXE commit, in ascending order, within the acq_rel fence at DEVICE scope that R195 places there. -/
def performTxe (s : State) (wid : Nat) (o : MemOp) (m : LaneMask) : State :=
  match s.wave? wid with
  | none => s
  | some w =>
    let c := waveCore s w
    let r := (lanesOf m).foldl (fun (r : State × NMap (BitVec 128)) l =>
      let x := endTx r.1 c o.tx l
      (x.1, NMap.set r.2 l (BitVec.ofNat 128 x.2))) (releaseDevice s (clusterOf c), [])
    (fenceAcquire r.1 wid c).finishLanes wid o.id m r.2

/-! ### Performing whatever may be performed -/

/-- Perform every group of lanes that share an address. -/
def byAddress (f : State → LaneMask → Nat → State) (o : MemOp) (s : State) (m : LaneMask) : State :=
  ((lanesOf m).foldl (fun (r : State × List Word64) l =>
    if r.2.contains (o.at_ l) then r else (f r.1 m l, o.at_ l :: r.2)) (s, [])).1

/-- Perform these lanes of an access. -/
def performOp (s : State) (wid : Nat) (o : MemOp) (m : LaneMask) : State :=
  if m = 0 ∨ o.remote = true then s
  else
    match o.instr with
    | .ld .. | .lds .. => performLoad s wid o m
    | .st .. | .sts .. => performStore s wid o m
    | .atom .. | .red .. => byAddress (fun s m l => performAtomic s wid o m l) o s m
    | .fwait .. | .fpeek .. | .ffill .. | .freset .. => byAddress (fun s m l => performFuture s wid o m l) o s m
    | .spawn .. => performSpawn s wid o m
    | .take .. => performTake s wid o
    | .txe .. => performTxe s wid o m
    | _ => performHeld s wid o m

/-- A fence's conditions hold for lane l (R235). -/
def Wave.fenceReady (w : Wave) (f : MemOp) (l : Nat) : Bool :=
  !(w.allOps.any fun x => x.id < f.id && x.ahead f l ≠ 0 && !x.isFence && (releases f.order || Instr.loadClass x.instr))

/-- Complete a fence for the lanes whose conditions hold: the actions of R214. -/
def settleFence (s : State) (wid : Nat) (f : MemOp) : State :=
  match s.wave? wid with
  | none => s
  | some w =>
    let m := maskOf fun l => f.mask.getLsbD l && w.fenceReady f l
    if m = 0 then s
    else
      let c := waveCore s w
      let s := releaseFor s c f.order f.scope
      let s := if acquires f.order && Scope.wide f.scope then fenceAcquire s wid c else s
      s.modWave wid fun w => { w with
        asyncs := (w.asyncs.map fun x => if x.id = f.id then { x with mask := x.mask &&& ~~~m } else x).filter
          fun x => x.mask ≠ 0 ∨ !x.isFence }

/-- A wave that waits at a BAR or GBAR has had an access performed: the phase may now complete (R170). -/
def wakeBars (s : State) (wid : Nat) : State :=
  match s.wave? wid with
  | some w => if w.splits.any fun x => x.2.hold = some .bar || x.2.hold = some .gbar then checkBars s w.group else s
  | none => s

/-- Complete what fences of a wave can complete, in order. -/
def settleFences (s : State) (wid : Nat) : State :=
  match s.wave? wid with
  | none => s
  | some w => wakeBars ((w.asyncs.filter MemOp.isFence).foldl (fun s f => settleFence s wid f) s) wid

/-- Perform what may be performed of one access of a wave. -/
def performNow (s : State) (wid id : Nat) : State :=
  match (s.wave? wid).bind fun w => (w.op? id).map fun o => (o, w.freeLanes o) with
  | some (o, m) => settleFences (performOp s wid o m) wid
  | none => s

/-- Perform everything of a wave that may be performed, in program order: what a release does to earlier accesses. A
device may perform them at any moment before.
DEDUCED, safe: log entry 29. -/
def drainWave (s : State) (wid : Nat) : State :=
  match s.wave? wid with
  | none => s
  | some w => w.allOps.foldl (fun s o => performNow s wid o.id) (settleFences s wid)

/-- The accesses of a wave that were first issued before its access `after` are performed, but for what a fault keeps back: what
another device or a parked FWAIT delays is not. An engine operation starts then (R231). -/
def waveClear (s : State) (wid after : Nat) : Bool :=
  match s.wave? wid with
  | some w => !((w.loads ++ w.stores).any fun o => o.born < after && o.reach &&& ~~~w.faultLanes ≠ 0)
  | none => true

/-- An acquire of these lanes is not yet performed: their later accesses wait for it. -/
def Wave.acquiring (w : Wave) (m : LaneMask) : Bool :=
  w.allOps.any fun o => acquires o.order && o.reach &&& m &&& ~~~w.faultLanes ≠ 0

/-- A fence of these lanes (R235): what can be performed is; what is left holds the lanes' later accesses back. -/
def fenceNow (s : State) (wid : Nat) (i : Instr) (m : LaneMask) : State :=
  let s := drainWave s wid
  match s.wave? wid with
  | none => s
  | some w =>
    let f : MemOp := { id := w.nextOp, born := w.nextOp, instr := i, word := 0, hdr := 0, idx := 0, mask := m }
    settleFences (s.modWave wid fun w => { w with asyncs := w.asyncs ++ [f], nextOp := w.nextOp + 1 }) wid

end Sys2Proof.Machine
end

