-- ==== Sys2Proof/Machine/LoadStore.lean ====
section
/-! DEFINITION. Loads, stores, atomics, transactions, futures, queues and bound registers (R179 to R207), and the events
that perform and return them. -/

namespace Sys2Proof.Machine

/-! ### Issuing an access -/

/-- An access instruction: its guard, itself, its address, the registers its data comes from (R129), its data source, its
data in a lane given the words popped from a queue, and whether it runs on the scalar unit when its address is
wave-uniform. -/
structure Access where
  g : Guard
  i : Instr
  m : Addr
  regs : List (Operand × Bool) := []
  srcs : List Src := []
  datum : Ctx → State → (Nat → Word32) → Nat → BitVec 128 := fun _ _ _ _ => 0
  perLaneD : Bool := false

def Access.scalar (a : Access) : Bool := Addr.uniform a.m && !a.perLaneD

/-- The access runs on the scalar unit. A store-class one of helper code makes an entry in each lane it takes effect in (R390). -/
def Access.onScalar (a : Access) (c : Ctx) : Bool := a.scalar && !(c.helper && Instr.storeClass a.i)

/-- The lock table an access is checked against: that of the core for virtual memory, that of the core that owns the
scratchpad otherwise (R32). -/
def lockTable (s : State) (c : Ctx) (scratch : Bool) (a : Word64) : List Lock × LockSpace :=
  if scratch then
    match scratchTarget s (gangOf s c.w) a with
    | some (gr, _) => (s.locksAt (s.group gr).core, .scratch gr)
    | none => ([], .scratch 0)
  else (s.locksAt c.core, .virt c.w.asid)

/-- The lock an access of lane l conflicts with. -/
def Access.lock (a : Access) (c : Ctx) (s : State) (l : Nat) : Option Lock :=
  let ea := c.addrOf s a.m l
  let t := lockTable s c (Instr.scratch a.i) ea
  let off := if Instr.scratch a.i then ea.toNat % 2 ^ 19 else ea.toNat
  lockConflict t.1 t.2 off (Instr.bytes a.i) (Instr.storeClass a.i)

/-- An address lies in range (R180, R181). -/
def Access.inRange (a : Access) (c : Ctx) (s : State) (l : Nat) : Bool :=
  let ea := c.addrOf s a.m l
  if Instr.scratch a.i then scratchOk s (gangOf s c.w) ea (Instr.bytes a.i) else ea.toNat + Instr.bytes a.i ≤ 2 ^ 48

/-- A data watchpoint covers lane l's access (R436). -/
def Access.watched (a : Access) (c : Ctx) (s : State) (l : Nat) : Bool :=
  let ea := (c.addrOf s a.m l).toNat
  !c.helper && !Instr.scratch a.i &&
    ((Instr.storeClass a.i && Machine.watched s c.core 49 ea) || (Instr.loadClass a.i && Machine.watched s c.core 48 ea))

/-- The trap of the first lanes that fail a check, with the address of the lowest. -/
def laneTrap (c : Ctx) (s : State) (m : Addr) (cause : BitVec 8) (ls : List Nat) (bad : Nat → Bool) (info : Nat → Word64) :
    Option TrapInfo :=
  match ls.filter bad with
  | [] => none
  | l :: rest =>
    some { cause := cause, addr := c.addrOf s m l, lanes := maskOf fun j => (l :: rest).contains j, info := info l }

/-- Check 5 of R182 for a data source that is a queue. -/
def Access.queueTrap (a : Access) (c : Ctx) (s : State) (ls : List Nat) : Option TrapInfo :=
  match popPlan c s a.srcs ls with
  | .error t => some t
  | .ok _ => none

/-- The checks of R182 in their order, and the watchpoints after them. -/
def Access.check (a : Access) (c : Ctx) (s : State) (ls : List Nat) : Option TrapInfo :=
  residueTrap c s ls (Addr.regs a.m) <|> residueTrap c s ls a.regs <|>
    laneTrap c s a.m 39 ls (fun l => !a.inRange c s l) (fun _ => 0) <|>
    laneTrap c s a.m 40 ls (fun l => decide ((c.addrOf s a.m l).toNat % Instr.bytes a.i ≠ 0)) (fun _ => 0) <|>
    a.queueTrap c s ls <|>
    laneTrap c s a.m 41 ls (fun l => (a.lock c s l).isSome)
      (fun l => BitVec.ofNat 64 (bit (((a.lock c s l).map (·.write)).getD false))) <|>
    laneTrap c s a.m 178 ls (a.watched c s) (fun _ => 0)

/-- The access of the lanes of a pass, with the data it takes. -/
def Access.op (a : Access) (c : Ctx) (s : State) (p : Pop) (ls : List Nat) : MemOp :=
  { c.newOp a.i with
    mask := maskOf fun l => ls.contains l
    scal := a.onScalar c
    ea := ls.map fun l => (l, c.addrOf s a.m l)
    data := ls.map fun l => (l, a.datum c s p.word l) }

/-- The store-class accesses of a wave that still stand (R409). In the handler those that a fault keeps back do not count,
since no fault is reported there. -/
def Wave.standing (w : Wave) : List MemOp :=
  (w.stores ++ w.loads.filter MemOp.isAtom).filter fun o => if w.frame.inh then !w.opSettled o else o.undone ≠ 0

/-- No room for another load-class access (R52), or another store-class one (R409). -/
def Wave.noRoom (w : Wave) (i : Instr) : Bool :=
  (Instr.loadClass i && 32 ≤ w.loads.length) || (Instr.storeClass i && 16 ≤ w.standing.length)

/-- An access finds no room: it stalls in place; where a fault keeps back every one of 16 standing stores, so that none can
ever be translated, the fault is reported there instead.
DEDUCED, unsafe: log entry 61. -/
def awaitRoom (c : Ctx) (s : State) : State :=
  match c.w.faults with
  | f :: _ =>
    if !c.helper && !c.w.frame.inh && 16 ≤ c.w.standing.length && c.w.standing.all c.w.opSettled then
      lateTrap s c.wid c.core c.slot c.iss.split c.iss.next f (c.iss.restEntries false)
    else s.stall c
  | [] => s.stall c

/-- Put a load-class access among the outstanding ones. -/
def Wave.pushLoad (w : Wave) (o : MemOp) : Wave := { w with loads := w.loads ++ [o], nextOp := w.nextOp + 1 }
def Wave.pushStore (w : Wave) (o : MemOp) : Wave := { w with stores := w.stores ++ [o], nextOp := w.nextOp + 1 }

/-- The pop of an access whose data source is a queue; a queue read ends transactions (R194, R203). -/
def Access.popped (a : Access) (c : Ctx) (s : State) (p : Pop) : State :=
  if p.q.isSome then commitPop c (abortOpen c s (c.eff a.g)) a.g p (a.onScalar c) else s

/-- Issue an access: nothing with an empty Eff; a stall where there is no room; the checks; then `f` with the lanes of the
pass and the access. -/
def Access.issue (a : Access) (s : State) (f : Ctx → State → MemOp → Host.Outcome State Fault Refusal) :
    Host.Outcome State Fault Refusal :=
  withCtx s fun c =>
    let eff := c.eff a.g
    let ls := passLanes eff (a.onScalar c)
    if eff = 0 then .next (s.advance c.wid)
    else if c.w.noRoom a.i then .next (awaitRoom c s)
    else
      match a.check c s ls with
      | some t => instrTrap c s (if a.onScalar c then { t with lanes := eff } else t)
      | none =>
        match popPlan c s a.srcs ls with
        | .error t => instrTrap c s t
        | .ok p => f c (a.popped c s p) (a.op c s p ls)

/-! ### Helper lanes (R188, R390) -/

/-- A store-class instruction of helper code: one entry in each lane's effect buffer, or the fault of a 65th. -/
def holdEffects (c : Ctx) (s : State) (o : MemOp) : Host.Outcome State Fault Refusal :=
  let ls := lanesOf o.mask
  let extra := ls.filter fun l => 64 ≤ ((NMap.get? c.w.helpers l).map (·.buf.length)).getD 0
  if extra ≠ [] then instrTrap c s { cause := 113, lanes := maskOf fun l => extra.contains l }
  else
    .next ((s.modWave c.wid fun w => { w with
      nextOp := w.nextOp + 1
      helpers := NMap.mapVal w.helpers fun l h => if ls.contains l then { h with buf := h.buf ++ [⟨o, l⟩] } else h }).advance
        c.wid)

/-- Send a store-class access, or hold it with the chunk. -/
def sendStore (c : Ctx) (s : State) (o : MemOp) : Host.Outcome State Fault Refusal :=
  if c.helper then holdEffects c s o else .next ((s.modWave c.wid fun w => w.pushStore o).advance c.wid)

/-- Send a load-class access; in helper code it is performed at once (R188). -/
def sendLoad (c : Ctx) (s : State) (o : MemOp) : Host.Outcome State Fault Refusal :=
  let s := s.modWave c.wid fun w => w.pushLoad o
  .next ((if c.helper then performNow s c.wid o.id else s).advance c.wid)

/-! ### Transactional accesses (R193) -/

def Wave.setTx (w : Wave) (l : Nat) (t : Tx) : Wave := { w with tx := NMap.set w.tx l t }

/-- A translation fault: causes 32 to 38. -/
def isTranslation (b : Bad) : Bool := 32 ≤ b.1.toNat && b.1.toNat ≤ 38

/-- What a transactional access of one lane comes to: the value a load delivers, or a late fault. -/
inductive TxOut where
  | done (x : BitVec 128)
  | bad (b : Bad)
  deriving DecidableEq, Repr

/-- Translate a transactional access: a translation fault dooms the lane with code 8. -/
def txTarget (s : State) (c : Ctx) (l : Nat) (a : Word64) (t : Tx) : State × Except TxOut Phys :=
  match target s c.core c.w.asid a .both with
  | (s, .error b) =>
    if isTranslation b then (s.modWave c.wid fun w => w.setTx l { t with st := .doomed 8 0 }, .error (.done 0))
    else (s, .error (.bad b))
  | (s, .ok (.away _)) => (s, .error (.bad (46, 0)))
  | (s, .ok (.here p)) => if !p.host && lineBad s p.pa then (s, .error (.bad (42, 0))) else (s, .ok p)

/-- A load of an Open lane: its own transactional stores come first, then its earlier stores that are not yet performed, then
the line as it stands (R193, R224). -/
def txLoad (s : State) (c : Ctx) (o : MemOp) (l : Nat) (t : Tx) : State × TxOut :=
  match txTarget s c l (o.at_ l) t with
  | (s, .error out) => (s, out)
  | (s, .ok p) =>
    let k := lineKey p
    let n := Instr.bytes o.instr
    let (s, home) := lineNow s c.core k
    let now := match s.wave? c.wid with
      | some w => w.overlay o l ((o.at_ l).toNat / 64 * 64) home
      | none => home
    if (NMap.get? t.reads k).isNone ∧ 8 ≤ t.reads.length then
      (s.modWave c.wid fun w => w.setTx l { t with st := .doomed 2 0 }, .done 0)
    else
      let t := if (NMap.get? t.reads k).isNone then { t with reads := NMap.set t.reads k now } else t
      let bs := (List.range n).map fun i =>
        let b := byteKey p + i
        if t.wbytes.contains b then Memory.read t.writes b else now.getD (p.pa % 64 + i) 0
      (s.modWave c.wid fun w => w.setTx l t, .done (BitVec.ofNat 128 (leNat bs)))

/-- A store of an Open lane: held in its write set. -/
def txStore (s : State) (c : Ctx) (o : MemOp) (l : Nat) (t : Tx) : State × TxOut :=
  match txTarget s c l (o.at_ l) t with
  | (s, .error out) => (s, out)
  | (s, .ok p) =>
    let k := lineKey p
    if !t.wlines.contains k ∧ 4 ≤ t.wlines.length then
      (s.modWave c.wid fun w => w.setTx l { t with st := .doomed 2 0 }, .done 0)
    else
      let b := byteKey p
      let n := Instr.bytes o.instr
      let t := { t with
        wlines := if t.wlines.contains k then t.wlines else t.wlines ++ [k]
        writes := Memory.writeBytes t.writes b (o.bytesOf l)
        wbytes := (t.wbytes ++ (List.range n).map (b + ·)).dedup }
      (s.modWave c.wid fun w => w.setTx l t, .done 0)

/-- The transaction of lane l, if it is not Idle. -/
def State.txOf (s : State) (wid l : Nat) : Option Tx := (s.wave? wid).bind fun w => NMap.get? w.tx l

/-- The transactional lanes of an access act at its issue; the others are left for the load-store engine. -/
structure TxPass where
  s : State
  done : NMap (BitVec 128) := []
  bad : List LaneFault := []

/-- A lane was Open when the instruction began. -/
def Ctx.wasOpen (c : Ctx) (l : Nat) : Bool := ((NMap.get? c.w.tx l).map fun t => decide (t.st = .open_)).getD false

def TxPass.lane (r : TxPass) (c : Ctx) (o : MemOp) (store : Bool) (l : Nat) : TxPass :=
  match r.s.txOf c.wid l with
  | none => r
  | some t =>
    match t.st with
    | .doomed .. => if c.wasOpen l then r else { r with done := NMap.set r.done l 0 }
    | .open_ =>
      match (if store then txStore r.s c o l t else txLoad r.s c o l t) with
      | (s, .done x) => { r with s := s, done := NMap.set r.done l x }
      | (s, .bad b) => { r with s := s, bad := r.bad ++ [⟨l, b⟩] }

/-- The transactional part of an access. What its own queue read has aborted acts outside a transaction (R194). An access of the
scalar unit belongs to the transaction of the lowest lane of Eff.
DESIGN CHOICE, unsafe: log entry 68. -/
def txPass (c : Ctx) (s : State) (o : MemOp) (store : Bool) : TxPass :=
  (lanesOf o.mask).foldl (fun r l => r.lane c o store l) { s := s }

/-! ### Loads and stores (R185) -/

/-- The spin detector notes the lines a split loads (R174). -/
def spinLoad (c : Ctx) (s : State) (o : MemOp) : State :=
  match NMap.get? c.w.spin c.iss.split with
  | none => s
  | some x =>
    let lines := (o.ea.filterMap fun e => match (translate s c.core c.w.asid e.2.toNat .read).2 with
      | .ok p => some (lineNo p.pa)
      | .error _ => none).dedup
    s.modWave c.wid fun w => { w with spin := NMap.set w.spin c.iss.split { x with lines := (x.lines ++ lines).dedup } }

/-- LD (R185, R186, R193). -/
def execLd (hint : Hint) (f : LoadForm) (s : State) : Host.Outcome State Fault Refusal :=
  Access.issue { g := f.g, i := .ld hint f, m := f.m, perLaneD := f.d.perLane } s fun c s o =>
    let r := txPass c s o false
    let o := { o with done := maskOf fun l => (NMap.get? r.done l).isSome, data := r.done }
    let s := spinLoad c (r.s.modWave c.wid fun w => w.pushLoad o) o
    let s := noteFaults s c.wid o r.bad
    .next ((if c.helper then performNow s c.wid o.id else s).advance c.wid)

/-- LDS (R185). -/
def execLds (f : LoadForm) (s : State) : Host.Outcome State Fault Refusal :=
  Access.issue { g := f.g, i := .lds f, m := f.m, perLaneD := f.d.perLane } s fun c s o =>
    sendLoad c (abortOpen c s (c.eff f.g)) { o with data := [] }

/-- The data of n bytes in an operand: a register, an even pair, or four registers; or any other code that can be read
(R68). DEDUCED: log entry 9. -/
def Ctx.dataOf (c : Ctx) (s : State) (q : Nat → Word32) (d : Operand) (n l : Nat) : BitVec 128 :=
  if n = 16 then
    match d with
    | .v k =>
      BitVec.ofNat 128 ((c.w.vVal k.val l true).val.toNat + (c.w.vVal (k.val + 2) l true).val.toNat * 2 ^ 64)
    | _ => 0
  else BitVec.ofNat 128 ((c.read s q l (.op d (n = 8))).val.toNat % 2 ^ (8 * n))

/-- The registers a store of n bytes takes data from. -/
def dataRegs (d : Operand) (n : Nat) : List (Operand × Bool) :=
  match d with
  | .s _ => [(d, decide (n = 8))]
  | _ => elemRegs d (if n = 16 then 4 else if n = 8 then 2 else 1)

def StoreForm.access (f : StoreForm) (i : Instr) : Access :=
  { g := f.g, i := i, m := f.m, regs := dataRegs f.d f.width.bytes, perLaneD := f.d.perLane,
    srcs := [.op f.d (decide (f.width = .w64))], datum := fun c s q l => c.dataOf s q f.d f.width.bytes l }

/-- ST (R185, R193). -/
def execSt (hint : Hint) (f : StoreForm) (s : State) : Host.Outcome State Fault Refusal :=
  (StoreForm.access f (.st hint f)).issue s fun c s o =>
    let r := txPass c s o true
    let gone := maskOf fun l => (NMap.get? r.done l).isSome
    if o.mask &&& ~~~gone = 0 then .next (r.s.advance c.wid)
    else if c.helper then holdEffects c r.s o
    else
      let o := { o with mask := o.mask &&& ~~~gone }
      .next ((noteFaults (r.s.modWave c.wid fun w => w.pushStore o) c.wid o r.bad).advance c.wid)

/-- STS (R185). -/
def execSts (f : StoreForm) (s : State) : Host.Outcome State Fault Refusal :=
  (StoreForm.access f (.sts f)).issue s fun c s o => sendStore c (abortOpen c s (c.eff f.g)) o

/-- What drops a lane's PREF: an address out of range, or a write lock on its line. -/
def prefDrops (c : Ctx) (s : State) (m : Addr) (l : Nat) : Bool :=
  let a := (c.addrOf s m l).toNat
  2 ^ 48 ≤ a || (lockConflict (s.locksAt c.core) (.virt c.w.asid) a 1 false).isSome

/-- PREF (R187): performed or dropped. What it brings into L2 changes nothing that can be read. -/
def execPref (g : Guard) (l2 : Bool) (m : Addr) (s : State) : Host.Outcome State Fault Refusal :=
  withCtx s fun c =>
    let ls := lanesOf (c.eff g)
    match residueTrap c s ls (Addr.regs m) with
    | some t => instrTrap c s t
    | none =>
      let (b, s) := s.choose
      let s := if b && !l2 then (ls.filter fun l => !prefDrops c s m l).foldl (fun s l =>
          match translate s c.core c.w.asid (c.addrOf s m l).toNat .read with
          | (s, .ok p) => if p.host || p.remote || lineBad s p.pa then s else (loadLine s c.core (lineNo p.pa)).1
          | (s, .error _) => s) s
        else s
      .next (s.advance c.wid)

/-! ### Atomics (R189) -/

/-- The registers of an atomic's operand. -/
def AtomForm.regs (f : AtomForm) : List (Operand × Bool) :=
  let w64 := decide (f.width = .b64)
  match f.d with
  | .s k => (f.d, w64) :: if f.op.isCas then [(.s (Fin.ofNat 32 (k.val + 1)), w64)] else []
  | d => elemRegs d ((if w64 then 2 else 1) * if f.op.isCas then 2 else 1)

/-- The operand of lane l: for .cas the comparand below and the new value above (R505). -/
def AtomForm.datum (f : AtomForm) (c : Ctx) (s : State) (q : Nat → Word32) (l : Nat) : BitVec 128 :=
  let w64 := decide (f.width = .b64)
  let lo := (c.dataOf s q f.d f.width.bytes l).toNat
  if f.op.isCas then
    let hi := match f.d with
      | .v k => (c.w.vVal (k.val + if w64 then 2 else 1) l w64).val.toNat
      | .s k => (c.w.sAt (k.val + 1)).val.toNat
      | _ => 0
    BitVec.ofNat 128 (lo + hi % 2 ^ (8 * f.width.bytes) * 2 ^ 64)
  else BitVec.ofNat 128 lo

def AtomForm.access (f : AtomForm) (i : Instr) : Access :=
  { g := f.g, i := i, m := f.m, regs := AtomForm.regs f, perLaneD := f.d.perLane,
    srcs := [.op f.d (decide (f.width = .b64))], datum := AtomForm.datum f }

/-- ATOM (R189, R190). -/
def execAtom (f : AtomForm) (s : State) : Host.Outcome State Fault Refusal :=
  (AtomForm.access f (.atom f)).issue s fun c s o => sendLoad c (abortOpen c s (c.eff f.g)) o

/-- RED (R189, R190). -/
def execRed (f : AtomForm) (s : State) : Host.Outcome State Fault Refusal :=
  (AtomForm.access f (.red f)).issue s fun c s o => sendStore c (abortOpen c s (c.eff f.g)) o

/-! ### Lane transactions (R191 to R196) -/

/-- TXB (R192). An acquire of its lanes that is not performed yet holds it back, as it holds back their later accesses.
DESIGN CHOICE, safe: log entry 69. -/
def execTxb (g : Guard) (s : State) : Host.Outcome State Fault Refusal :=
  withCtx s fun c =>
    let s := drainWave s c.wid
    if ((s.wave? c.wid).map fun w => w.acquiring (c.eff g)).getD false then .next (s.stall c)
    else
      .next ((s.modWave c.wid fun w => (lanesOf (c.eff g)).foldl (fun w l =>
        match NMap.get? w.tx l with
        | none => w.setTx l { st := .open_ }
        | some t => w.setTx l { t with st := .doomed 5 0 }) w).advance c.wid)

/-- TXA (R192). -/
def execTxa (g : Guard) (code : BitVec 8) (s : State) : Host.Outcome State Fault Refusal :=
  withCtx s fun c => .next ((s.modWave c.wid fun w => w.abortTx 6 code.toNat (c.eff g)).advance c.wid)

/-- TXE (R195): it takes its lanes' transactions with it, and they are Idle. Lanes that are not Open have their status word at
once; the Open ones commit when their earlier accesses are performed. -/
def execTxe (g : Guard) (d : Fin 192) (s : State) : Host.Outcome State Fault Refusal :=
  withCtx s fun c =>
    let eff := c.eff g
    let i : Instr := .txe g d
    if eff = 0 then .next (s.advance c.wid)
    else if c.w.noRoom i then .next (awaitRoom c s)
    else
      let txs := c.w.tx.filter fun t => eff.getLsbD t.1
      let shut := maskOf fun l => eff.getLsbD l && !c.wasOpen l
      let data := (lanesOf shut).map fun l => (l, BitVec.ofNat 128 (endTx s c.core txs l).2)
      let s := s.modWave c.wid fun w =>
        { w.pushLoad { c.newOp i with mask := eff, done := shut, data := data, tx := txs } with
          tx := w.tx.filter fun t => !eff.getLsbD t.1 }
      .next ((if shut = eff then s else performNow (drainWave s c.wid) c.wid c.w.nextOp).advance c.wid)

/-! ### Futures (R199) -/

def FutForm.access (f : FutForm) (i : Instr) : Access := { g := f.g, i := i, m := f.m, perLaneD := f.d.perLane }

/-- FWAIT (R199). -/
def execFwait (f : FutForm) (s : State) : Host.Outcome State Fault Refusal :=
  (FutForm.access f (.fwait f)).issue s fun c s o => sendLoad c (abortOpen c s (c.eff f.g)) { o with data := [] }

/-- FPEEK (R199). -/
def execFpeek (f : FutForm) (s : State) : Host.Outcome State Fault Refusal :=
  (FutForm.access f (.fpeek f)).issue s fun c s o => sendLoad c (abortOpen c s (c.eff f.g)) { o with data := [] }

/-- FFILL (R199). -/
def execFfill (f : FutForm) (s : State) : Host.Outcome State Fault Refusal :=
  Access.issue { FutForm.access f (.ffill f) with regs := dataRegs f.d 8, datum := fun c s q l => c.dataOf s q f.d 8 l } s
    fun c s o => sendStore c (abortOpen c s (c.eff f.g)) o

/-- FRESET (R199). -/
def execFreset (f : FutForm) (s : State) : Host.Outcome State Fault Refusal :=
  (FutForm.access f (.freset f)).issue s fun c s o => sendStore c (abortOpen c s (c.eff f.g)) o

/-! ### Queues (R204) -/

/-- The queue is not available to the group (check 5 of R182). -/
def queueCheck (c : Ctx) (s : State) (q : Fin 4) : Option TrapInfo :=
  if (s.queue c.core q.val).owner = some c.w.group then none else some { cause := 128, info := BitVec.ofNat 64 q.val }

/-- Lanes of a store-class instruction that a fault holds back stand among the stores until it is handled (R183). -/
def keepHeld (c : Ctx) (s : State) (o : MemOp) (m : LaneMask) : State :=
  if m = 0 then s else s.modWave c.wid fun w => w.pushStore { o with id := w.nextOp, mask := m }

/-- QPUSH (R204, R205): a release, so the earlier accesses of its lanes are performed first; it stalls in place for one that
cannot be yet. -/
def execQpush (g : Guard) (q : Fin 4) (d : Operand) (s : State) : Host.Outcome State Fault Refusal :=
  withCtx s fun c =>
    let eff := c.eff g
    let scal := !d.perLane
    let ls := passLanes eff scal
    let i : Instr := .qpush g q d
    if eff = 0 then .next (s.advance c.wid)
    else
      match residueTrap c s ls (dataRegs d 4) <|> queueCheck c s q with
      | some t => instrTrap c s t
      | none =>
        let s := drainWave (abortOpen c s eff) c.wid
        let o : MemOp := { c.newOp i with scal := scal, data := ls.map fun l => (l, c.dataOf s (fun _ => 0) d 4 l) }
        if s.owes c.wid (if scal then c.mask else eff) then .next (s.stall c)
        else
        let held := maskOf fun l => ls.contains l && c.w.heldBack.getLsbD l
        let (ok, full) := pushLanes s c.core q.val (ls.filter fun l => !held.getLsbD l)
        let s := pushWords s c.core q.val (ok.map fun l => BitVec.ofNat 32 (o.datum l).toNat)
        let s := refuse s c.wid c.w.nextOp g (if full = [] then 0 else if scal then c.mask else maskOf fun l => full.contains l)
        .next ((keepHeld c s o held).advance c.wid)

/-- QLEN (R204): load-class, the count taken at issue. -/
def execQlen (g : Guard) (q : Fin 4) (d : Fin 32) (s : State) : Host.Outcome State Fault Refusal :=
  withCtx s fun c =>
    let i : Instr := .qlen g q d
    if !c.guardHolds g then .next (s.advance c.wid)
    else if c.w.noRoom i then .next (awaitRoom c s)
    else
      match queueCheck c s q with
      | some t => instrTrap c s t
      | none =>
        let m := laneBit (lowestLane (c.eff g))
        let n := (s.queue c.core q.val).words.length
        let o := { c.newOp i with mask := m, done := m, scal := true, ready := true,
                                  data := [(lowestLane m, BitVec.ofNat 128 n)] }
        .next (((abortOpen c s (c.eff g)).modWave c.wid fun w => w.pushLoad o).advance c.wid)

/-! ### Bound registers (R207) -/

/-- The value lane l gives a BNDMIN. -/
def bndValue (c : Ctx) (s : State) (width : AtomWidth) (d : Operand) (l : Nat) : Word64 :=
  let x := (c.get s l d (width = .b64)).val
  match width with
  | .b32 => BitVec.signExtend 64 (lo32 x)
  | .b64 => x

/-- BNDMIN (R207): a release at CLUSTER scope, as QPUSH is one; it reaches the cluster later. -/
def execBndmin (g : Guard) (n : Fin 4) (width : AtomWidth) (d : Operand) (s : State) : Host.Outcome State Fault Refusal :=
  withCtx s fun c =>
    let eff := c.eff g
    let scal := !d.perLane && !c.helper
    let ls := passLanes eff scal
    if eff = 0 then .next (s.advance c.wid)
    else
      match residueTrap c s ls (dataRegs d width.bytes) with
      | some t => instrTrap c s t
      | none =>
        let o : MemOp := { c.newOp (.bndmin g n width d) with
          scal := scal, data := ls.map fun l => (l, BitVec.ofNat 128 (bndValue c s width d l).toNat) }
        if c.helper then holdEffects c s { o with mask := eff }
        else
          let s := drainWave (abortOpen c s eff) c.wid
          if s.owes c.wid (if scal then c.mask else eff) then .next (s.stall c)
          else
          let held := maskOf fun l => ls.contains l && c.w.heldBack.getLsbD l
          let now := ls.filter fun l => !held.getLsbD l
          let s := if now = [] then s else sendBound s c.core o.id n.val (minSigned (now.map (bndValue c s width d)))
          .next ((keepHeld c s o held).advance c.wid)

/-- The issuing split is Held within its clause: it goes on with the rest of it when its wait is over, and the quarter's port
is free meanwhile.
DEDUCED, safe: log entry 19. -/
def Ctx.holdWithin (c : Ctx) (s : State) (why : HoldWhy) : State :=
  let s := s.modWave c.wid fun w => { w with
    issue := none
    splits := NMap.modify w.splits c.iss.split fun sp => { sp with state := .held why, cont := some c.iss.advance } }
  s.modCore c.core fun k => { k with port := k.port.filter fun x => x.2 ≠ c.slot }

/-- BNDWT (R207): its split is Held while the register equals sd. -/
def execBndwt (g : Guard) (n : Fin 4) (d : Fin 32) (s : State) : Host.Outcome State Fault Refusal :=
  withCtx s fun c =>
    if !c.guardHolds g then .next (s.advance c.wid)
    else
      let s := abortOpen c s (c.eff g)
      if bndVal s c.core n.val ≠ c.sVal d then .next (s.advance c.wid)
      else if c.iss.idx + 1 = c.iss.words.length then
        .next ((s.modWave c.wid fun w => { w with
          splits := NMap.modify w.splits c.iss.split fun sp =>
            { sp with pc := c.iss.next, state := .held (.bndwt n.val (c.sVal d)) } }).advance c.wid)
      else .next (c.holdWithin s (.bndwt n.val (c.sVal d)))

/-! ### Returning loads (R51, R185) -/

/-- The bits a load delivers, extended to 64. -/
def LoadWidth.extend (w : LoadWidth) (x : BitVec 128) : Word64 :=
  match w with
  | .s8 => BitVec.signExtend 64 (BitVec.ofNat 8 x.toNat)
  | .s16 => BitVec.signExtend 64 (BitVec.ofNat 16 x.toNat)
  | _ => BitVec.ofNat 64 x.toNat

/-- Write n 32-bit elements from register v(k). -/
def Wave.writeElems (w : Wave) (k l n : Nat) (x : BitVec 128) : Wave :=
  (List.range n).foldl (fun w i => w.setV (k + i) l (VElem.of (BitVec.ofNat 32 (x.toNat / 2 ^ (32 * i))))) w

/-- Write a value of n registers, or of one scalar. -/
def Wave.writeVal (w : Wave) (d : Operand) (l n : Nat) (x : BitVec 128) : Wave :=
  match d with
  | .v k => w.writeElems k.val l n x
  | .s k => w.setS k.val (Scalar.of (BitVec.ofNat 64 x.toNat))
  | _ => w

/-- Eight scalars from s(k), as TAKE writes them. -/
def Wave.writeWords (w : Wave) (k : Nat) (ws : List Word64) : Wave :=
  ws.zipIdx.foldl (fun w x => w.setS (k + x.2) (Scalar.of x.1)) w

/-- Lane l's data goes to the destination of its instruction. -/
def Wave.writeLoad (w : Wave) (i : Instr) (l : Nat) (x : BitVec 128) : Wave :=
  match i with
  | .ld _ f | .lds f =>
    w.writeVal f.d l (if f.width = .b128 then 4 else if f.width = .b64 then 2 else 1)
      (if f.width = .b128 then x else BitVec.ofNat 128 (LoadWidth.extend f.width x).toNat)
  | .atom f => w.writeVal f.d l (if f.width = .b64 then 2 else 1) x
  | .fwait f => w.writeVal f.d l 2 x
  | .fpeek f =>
    let st := BitVec.ofNat 128 (x.toNat / 2 ^ 64)
    match f.d with
    | .v k => (w.writeElems k.val l 2 x).writeElems (k.val + 2) l 1 st
    | .s k => (w.setS k.val (Scalar.of (BitVec.ofNat 64 x.toNat))).setS (k.val + 1) (Scalar.of (BitVec.ofNat 64 st.toNat))
    | _ => w
  | .txe _ d => w.writeElems d.val l 1 x
  | .qlen _ _ d => w.setS d.val (Scalar.of (BitVec.ofNat 64 x.toNat))
  | .srd _ d _ => w.writeVal d l 1 x
  | _ => w

/-- TAKE's eight scalars, and its predicate where it found no task (R371). -/
def Wave.returnTake (w : Wave) (o : MemOp) (g : Guard) (d : Fin 32) : Wave :=
  let w := w.writeWords d.val ((List.range 8).map fun i => BitVec.ofNat 64 (o.datum i).toNat)
  if o.datum 9 = 1 then w
  else w.landPred o.id g.pred.val (BitVec.ofNat 32 (o.datum 8).toNat) (if g.neg then allLanes else 0)

/-- The lanes of a load whose data returns, of those asked for: performed ones; a load of the scalar unit returns whole. -/
def MemOp.landing (o : MemOp) (lanes : LaneMask) : LaneMask :=
  if o.scal then (if o.undone &&& ~~~o.faulted = 0 then o.done else 0) else o.done &&& lanes

/-- A lane's data lands, unless an instruction has written the destination since and that write remains (R51): a free choice
for each such lane.
DEDUCED, unsafe: log entry 12. -/
def landLane (o : MemOp) (n : Nat) (w : Wave) (l : Nat) : Wave :=
  if o.clobber.getLsbD l && Config.choose (n + l) then w else w.writeLoad o.instr l (o.datum l)

/-- Performed lanes of a load write their destination; the others stay outstanding. -/
def Wave.returnLoad (w : Wave) (o : MemOp) (m : LaneMask) (n : Nat) : Wave :=
  let w := match o.instr with
    | .take g d => if m = 0 then w else w.returnTake o g d
    | _ => (lanesOf m).foldl (landLane o n) w
  { w with
    loads := (w.loads.map fun x => if x.id = o.id then { x with mask := x.mask &&& ~~~m, done := x.done &&& ~~~m } else x).filter
      fun x => x.mask ≠ 0 }

/-- Answers of another device for the lanes of a load that asked it; an acquire then acts (R214). -/
def takeAnswers (s : State) (wid : Nat) (o : MemOp) (ext : List (Nat × BitVec 128)) : State :=
  let mine := ext.filter fun x => (o.undone &&& ~~~o.faulted).getLsbD x.1
  let s := s.finishLanes wid o.id (maskOf fun l => mine.any fun x => x.1 = l) (mine.map fun x => (x.1, x.2))
  match s.wave? wid with
  | some w => if mine = [] then s else acquireFor s (waveCore s w) o.order o.scope
  | none => s

/-- LOAD_DATA_RETURN: data returns for lanes of an outstanding load-class access (R51). -/
def execLoadDataReturn (wave op : Nat) (r : LoadReturn) (s : State) : Host.Outcome State Fault Refusal :=
  match (s.wave? wave).bind fun w => w.loads.find? fun o => o.id = op with
  | none => .next s
  | some o =>
    let s := if o.remote then takeAnswers s wave o r.ext
      else match o.instr with
        | .ld .. | .lds .. | .take .. | .txe .. => performNow s wave op
        | _ => s
    match (s.wave? wave).bind fun w => (w.loads.find? fun o => o.id = op).map fun o => (w, o) with
    | none => .next s
    | some (w, o) =>
      .next (settleFences { s.setWave wave (w.returnLoad o (o.landing r.lanes) s.free) with free := s.free + 32 } wave)

/-- STORE_PERFORMED: a store reaches its home slice or its scratchpad (R183, R213). -/
def execStorePerformed (wave op : Nat) (s : State) : Host.Outcome State Fault Refusal :=
  match (s.wave? wave).bind fun w => w.stores.find? fun o => o.id = op with
  | some o =>
    match o.instr with
    | .st .. | .sts .. | .qpush .. | .bndmin .. | .spawn .. => .next (performNow s wave op)
    | _ => .next s
  | none => .next s

/-- HOME_SLICE_ATOMIC: one request of an ATOM or RED (R190). -/
def execHomeSliceAtomic (wave op lane : Nat) (s : State) : Host.Outcome State Fault Refusal :=
  match (s.wave? wave).bind fun w => (w.op? op).map fun o => (o, w.freeLanes o) with
  | some (o, m) =>
    if m.getLsbD lane ∧ o.remote = false ∧ (Instr.atomic? o.instr).isSome then
      .next (settleFences (performAtomic s wave o m lane) wave)
    else .next s
  | none => .next s

/-- Performed by the futures table of a home slice. -/
def Instr.isFuture : Instr → Bool
  | .fwait _ | .ffill _ | .fpeek _ | .freset _ => true
  | _ => false

/-- FUTURES_REQUEST: one request at a futures word (R200). -/
def execFuturesRequest (wave op lane : Nat) (s : State) : Host.Outcome State Fault Refusal :=
  match (s.wave? wave).bind fun w => (w.op? op).map fun o => (o, w.freeLanes o) with
  | some (o, m) =>
    if m.getLsbD lane ∧ Instr.isFuture o.instr then .next (settleFences (performFuture s wave o m lane) wave) else .next s
  | none => .next s

/-- BNDMIN_APPLY: the oldest BNDMIN on its way reaches its cluster (R207). -/
def execBndminApply (cluster : Nat) (s : State) : Host.Outcome State Fault Refusal :=
  match (s.cluster cluster).bndPending with
  | [] => .next s
  | (_, n, v) :: rest =>
    let old := bndVal s (4 * cluster) n
    let s := s.modCluster cluster fun k => { k with bnd := NMap.set k.bnd n (if v.slt old then v else old), bndPending := rest }
    .next (if v.slt old then clearSpinWhere s fun c => clusterOf c = cluster else s)

/-- REMOTE_WRITE_ACKNOWLEDGED: another device has performed a store or RED (R449). -/
def execRemoteWriteAcknowledged (wave op : Nat) (s : State) : Host.Outcome State Fault Refusal :=
  match (s.wave? wave).bind fun w => w.stores.find? fun o => o.id = op && o.remote with
  | some o => .next (settleFences (s.finishLanes wave op (o.undone &&& ~~~o.faulted) []) wave)
  | none => .next s

/-- REMOTE_ACCESS_TIMEOUT: no answer within 2^24 ticks is a late fault with cause 46 (R449). -/
def execRemoteAccessTimeout (wave op : Nat) (s : State) : Host.Outcome State Fault Refusal :=
  match (s.wave? wave).bind fun w => w.op? op with
  | some o =>
    if o.remote ∧ o.sentAt + 2 ^ 24 ≤ s.tick.toNat then
      .next ((noteFaults s wave o ((lanesOf (o.undone &&& ~~~o.faulted)).map fun l => ⟨l, (46, 0)⟩)).modOp wave op
        fun o => { o with remote := false })
    else .next s
  | none => .next s

end Sys2Proof.Machine
end

