-- ==== Sys2Proof/Machine/Residue.lean ====
section
/-! DEFINITION. The arithmetic of the residue matrix and drain engines: modulus sets (R83, R241 to R243, R481), residues,
contributions (R251), reconstruction (R281, R282), and stored elements (R249). -/

namespace Sys2Proof.Machine

/-- The residue of x in 0 to m-1. -/
def res (x : Int) (m : Nat) : Nat := (x % (m : Int)).toNat

/-! ### Modulus sets -/

/-- A present channel of a set: its number, its modulus, and whether it is redundant. -/
structure Chan where
  h : Nat
  m : Nat
  red : Bool
  deriving DecidableEq, Repr

/-- The default set (R262). -/
def defaultRecord : ModRecord :=
  [0x8100#16, 0x80FB#16, 0x80F1#16, 0x80EF#16, 0x80E9#16, 0x80E5#16, 0x80E3#16, 0x80DF#16, 0xC101#16, 0xC107#16]

/-- The ten halfwords of a record in memory. -/
def readRecord (bs : List Byte) : ModRecord :=
  (List.range 10).map fun i => BitVec.ofNat 16 (leNat ((bs.drop (2 * i)).take 2))

/-- A record as its 32 bytes (R83). -/
def recordBytes (r : ModRecord) : List Byte := (r.flatMap fun x => leBytes x.toNat 2) ++ List.replicate 12 0

/-- The present channels, ascending. -/
def recordChans (r : ModRecord) : List Chan :=
  r.zipIdx.filterMap fun x =>
    if bitOf x.1.toNat 15 then some ⟨x.2, x.1.toNat % 512, bitOf x.1.toNat 14⟩ else none

/-- A record describes a valid set (R241). -/
def recordValid (r : ModRecord) : Bool :=
  let cs := recordChans r
  let data := cs.filter fun c => !c.red
  let reds := cs.filter fun c => c.red
  2 ≤ data.length && data.length ≤ 8 && reds.length ≤ 2 && reds.all (fun c => 8 ≤ c.h) &&
    cs.all (fun c => 2 ≤ c.m) && cs.all (fun a => cs.all fun b => a.h = b.h || Nat.gcd a.m b.m = 1) &&
    r.all fun x => if bitOf x.toNat 15 then x.toNat / 512 % 32 = 0 else x = 0

/-- The 32 bytes of a record describe a valid set. -/
def recordBytesValid (bs : List Byte) : Bool := recordValid (readRecord bs) && (bs.drop 20).all fun b => b = 0

/-- The die that serves a channel under a DIEMAP (R480); 15 where none does. -/
def dieOf (map : BitVec 40) (h : Nat) : Nat := map.toNat / 16 ^ h % 16

/-- A set can be served: every data channel has a die (R481). -/
def servable (r : ModRecord) (map : BitVec 40) : Bool := (recordChans r).all fun c => c.red || dieOf map c.h ≠ 15

/-- The channels that take part: an unserved redundant one counts as absent (R481). -/
def activeChans (r : ModRecord) (map : BitVec 40) : List Chan := (recordChans r).filter fun c => dieOf map c.h ≠ 15

/-- The channels of a mode (R242). -/
def TMode.uses (t : TMode) (h : Nat) : Bool :=
  match t with
  | .unset => false
  | .full => true
  | .halfA => h < 4 || h = 8
  | .halfB => (4 ≤ h && h < 8) || h = 9

def modeChans (r : ModRecord) (map : BitVec 40) (t : TMode) : List Chan := (activeChans r map).filter fun c => t.uses c.h

/-- Half and ternary modes are available (R481).
DEDUCED, unsafe: log entry 39. -/
def halvesServed (map : BitVec 40) : Bool :=
  (List.range 8).all (fun h => TMode.uses (if h < 4 then .halfA else .halfB) (dieOf map h)) &&
    ((List.range 8).filter fun h => 8 ≤ dieOf map h).length ≤ 1

/-- A mode cannot be used: a half with no data channel (R242), or halves that the dies cannot serve (R481). -/
def modeUnusable (r : ModRecord) (map : BitVec 40) (t : TMode) : Bool :=
  ((modeChans r map t).all fun c => c.red) || (t ≠ .full && !halvesServed map)

/-- The protection level of a list of channels (R243): 0 Unprotected, 1 Detecting, 2 Correcting. -/
def levelOf (cs : List Chan) : Nat :=
  let data := cs.filter fun c => !c.red
  let reds := cs.filter fun c => c.red
  if reds = [] then 0
  else if reds.length = 2 ∧ reds.all (fun r => data.all fun d => decide (d.m < r.m)) then 2
  else 1

/-- The level field of the matrix status for a mode (R294): 3 where it is unusable or the set Invalid. -/
def levelField (r : Option ModRecord) (map : BitVec 40) (t : TMode) : Nat :=
  match r with
  | none => 3
  | some r => if modeUnusable r map t then 3 else levelOf (modeChans r map t)

/-! ### Tile elements -/

/-- An element as MZERO leaves it. -/
def TElem.blank : TElem := { res := List.replicate 10 0 }

def TElem.at_ (e : TElem) (h : Nat) : Nat := (e.res.getD h 0).toNat

/-- Change the residues of some channels. -/
def TElem.withRes (e : TElem) (cs : List Chan) (f : Chan → Nat) : TElem :=
  { e with res := (List.range 10).map fun h => match cs.find? fun c => c.h = h with
      | some c => BitVec.ofNat 9 (f c)
      | none => e.res.getD h 0 }

def Tile.at_ (t : Tile) (k : Nat) : TElem := NMap.getD t.elems k .blank

/-- A tile as MZERO leaves it under a set (R265). -/
def Tile.zero (set : Option ModRecord) : Tile := { tset := set }

/-- Change every element of a list of keys; one left as MZERO leaves it is not listed. -/
def mergeElems (f : Nat → TElem → TElem) : List Nat → NMap TElem → NMap TElem
  | [], _ => []
  | i :: is, m =>
    let old := (match m with
      | (k, v) :: _ => if k = i then v else TElem.blank
      | [] => TElem.blank)
    let rest := (match m with
      | (k, _) :: tl => if k = i then tl else m
      | [] => [])
    let new := f i old
    if new = .blank then mergeElems f is rest else (i, new) :: mergeElems f is rest

/-- Change every element of a tile. -/
def Tile.mapElems (t : Tile) (f : Nat → TElem → TElem) : Tile := { t with elems := mergeElems f (List.range 4096) t.elems }

/-! ### Contributions (R251) -/

/-- Add one contribution: its residues by channel, its exponent before clamping, and whether a block was poisoned. -/
def TElem.contribute (e : TElem) (cs : List Chan) (s : Chan → Nat) (xe : Int) (poisoned : Bool) : TElem :=
  if poisoned then { e with psn := true }
  else
    let e := { e with xovf := e.xovf || decide (xe < 0 ∨ 255 < xe) }
    let x : Nat := (max 0 (min 255 xe)).toNat
    if e.empty then { e.withRes cs s with xe := BitVec.ofNat 8 x, xs := 0, empty := false }
    else
      let old := e.xe.toNat
      let hi := max (old + e.xs.toNat) x
      let e := if old ≤ x then e.withRes cs fun c => (e.at_ c.h + s c * 2 ^ (x - old)) % c.m
        else { e.withRes cs fun c => (e.at_ c.h * 2 ^ (old - x) + s c) % c.m with xe := BitVec.ofNat 8 x }
      let low := min old x
      if 63 < hi - low then { e with xovf := true, xs := 63 } else { e with xs := BitVec.ofNat 6 (hi - low) }

/-! ### Reconstruction (R281, R282) -/

/-- The y in 1 to m-1 with x·y ≡ 1 (mod m). -/
def inverse (x m : Nat) : Nat := ((List.range m).find? fun y => decide (x * y % m = 1)).getD 0

/-- Reconstruction order: data channels ascending, then redundant ones. -/
def reconOrder (cs : List Chan) : List Chan := (cs.filter fun c => !c.red) ++ cs.filter fun c => c.red

/-- Mixed-radix digits and value of residues in their order, from a value V below the product P so far. -/
def mixedRadix : List (Nat × Nat) → Nat → Nat → List Nat × Nat
  | [], v, _ => ([], v)
  | (m, r) :: rest, v, p =>
    let a := res (((r : Int) - v) * inverse (p % m) m) m
    let t := mixedRadix rest (v + a * p) (p * m)
    (a :: t.1, t.2)

def product (cs : List Chan) : Nat := cs.foldl (fun p c => p * c.m) 1

def TElem.digits (e : TElem) (cs : List Chan) : List Nat := (mixedRadix ((reconOrder cs).map fun c => (c.m, e.at_ c.h)) 0 1).1

/-- `Signed` (R281). -/
def TElem.signed (e : TElem) (cs : List Chan) : Int :=
  let x := (mixedRadix ((reconOrder cs).map fun c => (c.m, e.at_ c.h)) 0 1).2
  let p := product cs
  if p - 1 - p / 2 < x then (x : Int) - p else x

/-- What reconstruction comes to. -/
inductive Recon where
  | ok (x : Int)
  | corr (x : Int) (h : Nat)
  | ovr
  deriving DecidableEq, Repr

/-- `Recon` (R282). -/
def TElem.recon (e : TElem) (cs : List Chan) : Recon :=
  let data := cs.filter fun c => !c.red
  let d := product data
  let inL (x : Int) : Bool := -((d / 2 : Nat) : Int) ≤ x && x ≤ (d : Int) - 1 - ((d / 2 : Nat) : Int)
  if levelOf cs = 0 then .ok (e.signed data)
  else
    let x := e.signed cs
    if inL x then .ok x
    else if levelOf cs = 2 then
      match cs.filter fun c => inL (e.signed (cs.filter fun y => y.h ≠ c.h)) with
      | [c] => .corr (e.signed (cs.filter fun y => y.h ≠ c.h)) c.h
      | _ => .ovr
    else .ovr

/-! ### Stored elements (R249) -/

/-- The z-bit element at column c of the row that begins at byte `row`. -/
def rawAt (m : Memory) (row z c : Nat) : Nat :=
  Memory.readNat m (row + c * z / 8) ((z + 7) / 8) / 2 ^ (c * z % 8) % 2 ^ z

/-- Element size in bits (R249). -/
def Fmt.bits : Fmt → Nat
  | .i4 | .u4 => 4
  | .i8 | .u8 | .bs8 | .plane1 => 8
  | .i16 | .u16 | .f16 | .bf16 | .bs16 | .plane2 => 16
  | .i32 | .u32 | .f32 => 32
  | .i64 | .u64 => 64
  | .ternary => 2

/-- A ternary code's value (R91). -/
def ternaryOf (x : Nat) : Int := if x = 1 then 1 else if x = 3 then -1 else 0

def Fmt.isPlane : Fmt → Bool
  | .plane1 | .plane2 => true
  | _ => false

def Fmt.isBlock : Fmt → Bool
  | .bs16 | .bs8 => true
  | _ => false

/-- The bias of a block scale (R90). -/
def Fmt.blockBias : Fmt → Int
  | .bs8 => 134
  | _ => 142

/-- The value of a stored element that is no residue. -/
def Fmt.value (f : Fmt) (x : Nat) : Int :=
  match f, Fmt.int? f with
  | .ternary, _ => ternaryOf x
  | _, some (w, false) => (x % 2 ^ w : Nat)
  | _, some (w, true) => Machine.signed w (x % 2 ^ w)
  | f, none => Machine.signed (Fmt.bits f) (x % 2 ^ Fmt.bits f)

/-- A scale word marks its block poisoned (R90). -/
def scalePoisoned (w : Nat) : Bool := bitOf w 15 || w % 256 = 255 || w / 256 % 128 ≠ 0

/-- Round up to a multiple of 64. -/
def up64 (n : Nat) : Nat := (n + 63) / 64 * 64

end Sys2Proof.Machine
end

