-- ==== Sys2Proof/Machine/Matrix.lean ====
section
/-! DEFINITION. The residue matrix engine: its command queue, batches and status (R254 to R261, R272 to R276, R294), and
the matrix instructions SETMOD to MFILL (R262 to R279). -/

namespace Sys2Proof.Machine

/-! ### Guarded commands (R36 to R38) -/

/-- The predicate that an access may write when it ends. -/
def MemOp.writesPred (o : MemOp) (p : Fin 8) : Bool := (o.isTake || o.isSpawn) && (Instr.guard o.instr).pred = p

/-- The wave's own TAKEs and SPAWNs whose write of a predicate is outstanding, and not overtaken by a later instruction's. -/
def Wave.predWriters (w : Wave) (p : Fin 8) : List MemOp :=
  (w.loads ++ w.stores).filter fun o => o.writesPred p && !o.predLost && (o.isTake || o.undone ≠ 0)

/-- How an engine command meets its guard (R36 to R38): it does not enter, or it enters with or without a guard to resolve. It
refers to the wave's TAKEs and SPAWNs that are still to write the predicate; where there are none, whether another
instruction's write is still outstanding at issue is open: a free choice.
DEDUCED, safe: log entry 18. -/
def Ctx.engineGuard (c : Ctx) (s : State) (g : Guard) : State × Option (Option GuardRef) :=
  let w := (s.wave? c.wid).getD c.w
  let holds : Bool := w.guardMask g c.mask ≠ 0
  if g.pred = 7 then (s, if holds then some none else none)
  else
    let os := w.predWriters g.pred
    match os.find? (fun o => o.faulted ≠ 0), os with
    | some o, _ =>
      (s, some (some { value := false, cause := some (((w.faults.find? fun f => f.op = some o.id).map (·.cause)).getD 32) }))
    | none, [] =>
      let (b, s) := s.choose
      (s, if b then some (some { value := holds }) else if holds then some none else none)
    | none, _ :: _ =>
      (os.foldl (fun s o => s.modOp c.wid o.id fun o => { o with watched := true }) s,
        some (some { value := false, ops := os.map (·.born), wave := c.wid, bits := w.pAt g.pred.val, neg := g.neg, mask := c.mask }))

/-- An access a guard refers to has not yet written its predicate; one in a replay queue still will. -/
def Wave.predOwed (w : Wave) (op : Nat) : Bool :=
  (w.loads ++ w.stores).any (fun o => o.born = op && o.watched && (o.isTake || o.undone ≠ 0)) ||
    (w.frame.saved.isSome && w.frame.replay.any fun e => e.2.op.born = op && e.2.op.watched && e.2.op.mask ≠ 0)

/-- The guard once its predicate is written: its value, or the cause of the access that faulted (R37, R38); none while the write
is outstanding. -/
def State.resolved (s : State) (g : GuardRef) : Option GuardRef :=
  if g.ops = [] then some g
  else
    match s.wave? g.wave with
    | none => some { g with value := false }
    | some w =>
      let notes := w.predNotes.filter fun n => g.ops.contains n.op
      match notes.findSome? (·.cause) with
      | some k => some { g with value := false, cause := some k }
      | none =>
        if g.ops.any w.predOwed then none
        else
          let bits := notes.foldl (fun b n => (b &&& ~~~n.lanes) ||| (n.bits &&& n.lanes)) g.bits
          some { g with value := (if g.neg then ~~~bits else bits) &&& g.mask ≠ 0 }

/-- An engine command meets its guard: false and resolved, it has no effect; otherwise `f` goes on with the guard that is still
to be resolved, if one is. What of the wave's earlier accesses can be performed is; the operation starts once the others are
(R231, `waveClear`). -/
def Ctx.whenGuard (c : Ctx) (s : State) (g : Guard) (f : State → Option GuardRef → Host.Outcome State Fault Refusal) :
    Host.Outcome State Fault Refusal :=
  match c.engineGuard (drainWave s c.wid) g with
  | (s, none) => .next (s.advance c.wid)
  | (s, some gr) => f s gr

/-! ### Entries -/

/-- The fields of a MAC-family operation. -/
def Instr.mac? : Instr → Option MacForm
  | .mmac f | .mmact f | .mmacu f => some f
  | _ => none

def Half.mode : Half → TMode
  | .full => .full
  | .a => .halfA
  | .b => .halfB

def Instr.isDrain : Instr → Bool
  | .mdrain .. | .mdrainv .. | .mdigit .. | .mchk .. => true
  | _ => false

/-- Tiles an entry reads and tiles it writes (R255). -/
def Instr.tiles : Instr → List Nat × List Nat
  | .mzero _ a | .mfill _ a _ => ([], [a.val])
  | .mmac f | .mmact f | .mmacu f => ([f.acc.val], [f.acc.val])
  | .mspill _ a _ => ([a.val], [])
  | .mdrain _ a .. | .mdrainv _ a .. | .mdigit _ a .. => ([a.val], [])
  | .mchk _ a r c _ => ([a.val, r.val, c.val], [])
  | _ => ([], [])

/-- The tile an entry acts on. -/
def Instr.acc : Instr → Nat
  | .mzero _ a | .mfill _ a _ | .mspill _ a _ | .mdrain _ a .. | .mdrainv _ a .. | .mdigit _ a .. | .mchk _ a .. => a.val
  | .mmac f | .mmact f | .mmacu f => f.acc.val
  | _ => 0

def State.modEntry (s : State) (gk id : Nat) (f : MxEntry → MxEntry) : State :=
  s.modGroup gk fun g => { g with mq := g.mq.map fun e => if e.id = id then f e else e }

/-- A format field of FMT (R245). -/
def fmtField (w : Word64) (lo : Nat) : Fmt := (Fmt.ofCode (BitVec.ofNat 5 (w.toNat / 2 ^ lo))).getD .i16

/-- The die map of a group's tower. -/
def mapOf (s : State) (gk : Nat) : BitVec 40 := (s.tower (towerOf (s.group gk).core)).map

/-- Put a matrix command into the group's queue (R254): after its checks, unless its guard keeps it out; it stalls while
the queue is full (R8). -/
def Ctx.enqueue (c : Ctx) (s : State) (i : Instr) (g : Guard) (batch : Bool) (xa xb xc : Word64) :
    Host.Outcome State Fault Refusal :=
  match valueCheck c s i with
  | some t => instrTrap c s t
  | none =>
    c.whenGuard s g fun t gr =>
      let gk := c.w.group
      if 64 ≤ (t.group gk).mq.length then .next (t.stall c)
      else
        let t := abortOpen c t (c.eff g)
        .next ((t.modGroup gk fun x => { x with
          nextMx := x.nextMx + 1
          mq := x.mq ++ [{ id := x.nextMx, instr := i, word := c.iw.word, wave := c.wid, after := c.w.nextOp, xa := xa, xb := xb, xc := xc
                           rnd := Fin.ofNat 8 (modeRnd x.mode), ftz := modeFtz x.mode, seed := x.seed, guard := gr
                           batch := if batch then some x.openSeq else none }] }).advance c.wid)

/-! ### Causes (R22, R260, R295) -/

/-- Report a cause to each wave of a group at its next EFENCE. -/
def reportAll (s : State) (gk : Nat) (f : LateFault) : State :=
  { s with waves := NMap.mapVal s.waves fun _ w =>
      if w.group = gk && w.alive then { w with faults := w.faults ++ [f] } else w }

/-- Record a cause in the matrix status and report it (R22, R294). -/
def recordCause (s : State) (gk batch : Nat) (f : LateFault) : State :=
  reportAll (s.modGroup gk fun g =>
    if g.mcause = 0 then { g with mcause := f.cause, mcbatch := BitVec.ofNat 4 batch } else { g with more := true }) gk f

/-- A cause of an entry whose frame names its batch (R428). -/
def batchCause (cause : BitVec 8) (batch : Nat) (word : Word64) : LateFault :=
  { cause := cause
    info := BitVec.ofNat 64 (batch % 16 + if cause = 76 then wordOp word * 2 ^ 8 else 0) }

/-- The batch number an entry's causes name: its own, or for an order mark the open batch's (R295). -/
def entryBatch (g : Group) (e : MxEntry) : Nat := (e.batch.getD g.openSeq) % 16

/-- An entry ends at its start with a cause and no effect (R260). -/
def failEntry (s : State) (gk : Nat) (e : MxEntry) (f : LateFault) : State :=
  s.modEntry gk e.id fun e => { e with state := .complete, causes := e.causes ++ [f] }

/-- An order mark leaves the queue. -/
def dropEntry (s : State) (gk id : Nat) : State := s.modGroup gk fun g => { g with mq := g.mq.filter fun e => e.id ≠ id }

/-! ### Operands (R249) -/

/-- A stored operand. -/
structure Opnd where
  a : Word64
  rows : Nat
  cols : Nat
  stride : Nat
  fmt : Fmt
  deriving DecidableEq, Repr

def Opnd.bits (o : Opnd) : Nat := Fmt.bits o.fmt

/-- The extent E. -/
def Opnd.extent (o : Opnd) : Nat := (o.rows - 1) * o.stride + o.cols * o.bits / 8

/-- Bytes from the base to the end of its last plane, under a set of n present channels. -/
def Opnd.size (o : Opnd) (n : Nat) : Nat :=
  if Fmt.isPlane o.fmt then (n - 1) * up64 o.extent + o.extent
  else if Fmt.isBlock o.fmt then up64 o.extent + 2 * (o.rows * (o.cols / 64))
  else o.extent

/-- An operand of `long` by 64, stored with the long side across when `across`. -/
def opnd (a : Word64) (long stride : Nat) (across : Bool) (fmt : Fmt) : Opnd :=
  let cols := if across then long else 64
  { a := a, rows := if across then 64 else long, cols := cols, fmt := fmt,
    stride := if stride = 0 then cols * Fmt.bits fmt / 8 else 64 * stride }

def MacForm.k (f : MacForm) : Nat := 64 * (f.ksteps.val + 1)

def macA (e : MxEntry) (f : MacForm) : Opnd := opnd e.xa (MacForm.k f) f.as.toNat (!f.ta) (fmtField e.fmt 0)

def isTernaryMac : Instr → Bool
  | .mmact _ => true
  | _ => false

def isUnfold : Instr → Bool
  | .mmacu _ => true
  | _ => false

def macB (e : MxEntry) (f : MacForm) : Opnd :=
  opnd e.xb (MacForm.k f) f.bs.toNat f.tb (if isTernaryMac e.instr then .ternary else fmtField e.fmt 5)

/-- The scratchpad memory an address lies in, and the offset. -/
def padAt (s : State) (gk : Nat) (a : Word64) : Memory × Nat :=
  match scratchTarget s (s.group gk).gang a with
  | some (gr, off) => ((s.group gr).scratch, off)
  | none => ([], 0)

/-- The element at stored (r, c) for a channel: `pl` is its plane and `m` its modulus. An invalid residue is 0 (R93). -/
def Opnd.elem (o : Opnd) (p : Memory × Nat) (pl m r c : Nat) : Int :=
  if Fmt.isPlane o.fmt then
    let x := rawAt p.1 (p.2 + pl * up64 o.extent + r * o.stride) o.bits c
    if x < m then x else 0
  else Fmt.value o.fmt (rawAt p.1 (p.2 + r * o.stride) o.bits c)

/-- The scale word of a stored row and block (R90). -/
def Opnd.scale (o : Opnd) (p : Memory × Nat) (r blk : Nat) : Nat :=
  Memory.readNat p.1 (p.2 + up64 o.extent + 2 * (r * (o.cols / 64) + blk)) 2

/-! ### The unfolding descriptor (R269, R270) -/

/-- The fields of a descriptor. -/
structure Unfold where
  c : Nat
  w : Nat
  h : Nat
  ow : Nat
  oy0 : Nat
  ox0 : Nat
  kh : Nat
  kw : Nat
  sy : Nat
  sx : Nat
  dy : Nat
  dx : Nat
  pt : Nat
  pl : Nat
  deriving DecidableEq, Repr

/-- The descriptor in 32 bytes; none when a field is outside its limits or does not fit K. -/
def readUnfold (bs : List Byte) (k : Nat) : Option Unfold :=
  let b (i : Nat) : Nat := leNat ((bs.drop i).take 1)
  let h (i : Nat) : Nat := leNat ((bs.drop i).take 2)
  let u : Unfold := { c := h 0, w := h 2, h := h 4, ow := h 6, oy0 := h 8, ox0 := h 10, kh := b 12, kw := b 13, sy := b 14,
                      sx := b 15, dy := b 16, dx := b 17, pt := b 18, pl := b 19 }
  let within (lo hi x : Nat) : Bool := lo ≤ x && x ≤ hi
  if u.c % 64 = 0 && within 64 4096 u.c && within 1 4096 u.w && within 1 4096 u.h && within 1 4096 u.ow && within 1 16 u.kh &&
      within 1 16 u.kw && within 1 8 u.sy && within 1 8 u.sx && within 1 8 u.dy && within 1 8 u.dx && within 0 15 u.pt &&
      within 0 15 u.pl && ((bs.drop 20).take 12).all (fun x => x = 0) && u.kh * u.kw * u.c = k
  then some u else none

/-- Input row stride and extent of MMACU's A (R270, R271). -/
def Unfold.rowStride (u : Unfold) (z rs : Nat) : Nat := if rs = 0 then u.w * u.c * z / 8 else 64 * rs
def Unfold.extent (u : Unfold) (z rs : Nat) : Nat := (u.h - 1) * u.rowStride z rs + u.w * u.c * z / 8

/-- a(i, k) of MMACU (R270). -/
def Unfold.elem (u : Unfold) (fmt : Fmt) (p : Memory × Nat) (rs i k : Nat) : Int :=
  let z := Fmt.bits fmt
  let o := u.ox0 + i
  let oy := u.oy0 + o / u.ow
  let ox := o % u.ow
  let t := k / u.c
  let y : Int := (oy * u.sy : Nat) - (u.pt : Int) + (t / u.kw * u.dy : Nat)
  let x : Int := (ox * u.sx : Nat) - (u.pl : Int) + (t % u.kw * u.dx : Nat)
  if 0 ≤ y ∧ y < u.h ∧ 0 ≤ x ∧ x < u.w then
    Fmt.value fmt (rawAt p.1 (p.2 + y.toNat * u.rowStride z rs + x.toNat * u.c * z / 8) z (k % u.c))
  else 0

/-! ### Faults at start (R260, R264) -/

/-- Formats 0x00 to 0x03. -/
def Fmt.narrow : Fmt → Bool
  | .i4 | .u4 | .i8 | .u8 => true
  | _ => false

/-- Formats 0x00 to 0x05. -/
def Fmt.small : Fmt → Bool
  | .i16 | .u16 => true
  | f => Fmt.narrow f

/-- What MMAC accepts for an operand in a mode (R264). -/
def macAccepts (t : TMode) (f : Fmt) : Bool :=
  Fmt.isPlane f || if t = .full then Fmt.small f || Fmt.isBlock f else Fmt.narrow f

/-- The formats of an operation are accepted by its mode (R264). -/
def fmtsOk (i : Instr) (t : TMode) (a b : Fmt) : Bool :=
  match i with
  | .mmact _ => Fmt.narrow a
  | .mmacu _ => Fmt.small a && macAccepts t b
  | _ => macAccepts t a && macAccepts t b

/-- The group's set, tile and mode admit an operation of this mode on a tile. -/
def tileReady (s : State) (gk acc : Nat) (t : TMode) : Bool :=
  let g := s.group gk
  match g.mset, NMap.get? g.tiles acc with
  | some r, some tile => tile.tset = some r && (tile.tmode = .unset || tile.tmode = t) && !modeUnusable r (mapOf s gk) t
  | _, _ => false

/-- The scratchpad range that a MAC-family operation reads as A: the unfolded input of an MMACU. -/
def macRangeA (s : State) (gk : Nat) (e : MxEntry) (f : MacForm) : List (Word64 × Nat) :=
  let n := (((s.group gk).mset.map recordChans).map (·.length)).getD 0
  if isUnfold e.instr then
    match readUnfold e.desc (MacForm.k f) with
    | some u => [(e.xa, u.extent (Fmt.bits (fmtField e.fmt 0)) f.as.toNat)]
    | none => []
  else [(e.xa, (macA e f).size n)]

/-- The scratchpad ranges a MAC-family operation reads: A, the descriptor, and B unless it is a paired follower's. -/
def macRanges (s : State) (gk : Nat) (e : MxEntry) (f : MacForm) (follower : Bool) : List (Word64 × Nat) :=
  let n := (((s.group gk).mset.map recordChans).map (·.length)).getD 0
  macRangeA s gk e f ++ (if isUnfold e.instr then [(e.xc, 32)] else []) ++
    if follower then [] else [(e.xb, (macB e f).size n)]

/-- The ranges it locks (R257): a paired follower's entry only its A range. -/
def macLocked (s : State) (gk : Nat) (e : MxEntry) (f : MacForm) (follower : Bool) : List (Word64 × Nat) :=
  if follower then macRangeA s gk e f else macRanges s gk e f false

/-- The first range beyond its group's allocation. -/
def badRange (s : State) (gk : Nat) (rs : List (Word64 × Nat)) : Option LateFault :=
  (rs.find? fun r => !scratchOk s (s.group gk).gang r.1 r.2).map fun r => { cause := 43, addr := r.1 }

/-- The fault at start of a MAC-family operation, if any, beside pairing. Of several the range comes first, then cause 76, then
79; a pair that disagrees comes last (`startAlone`).
DESIGN CHOICE, unsafe: log entry 37. -/
def macFault (s : State) (gk : Nat) (e : MxEntry) (f : MacForm) (follower : Bool) : Option LateFault :=
  let g := s.group gk
  let b := entryBatch g e
  let t := Half.mode f.half
  let af := fmtField e.fmt 0
  let bf := (macB e f).fmt
  match badRange s gk (macRanges s gk e f follower) with
  | some x => some x
  | none =>
    if !tileReady s gk f.acc.val t || !fmtsOk e.instr t af bf || (Fmt.isBlock af && f.ta) || (Fmt.isBlock bf && !f.tb) ||
        (isUnfold e.instr && (readUnfold e.desc (MacForm.k f)).isNone) then some (batchCause 76 b e.word)
    else if (af = .plane1 || bf = .plane1) && ((g.mset.map recordChans).getD []).any fun c => 256 < c.m then
      some (batchCause 79 b e.word)
    else none

/-! ### Multiplying (R250, R251) -/

/-- The 64 by 64 values of one K-step, by row of the tile's own index. -/
def table (f : Nat → Nat → Int) : List (List Int) := (List.range 64).map fun i => (List.range 64).map fun kk => f i kk

def dot (a b : List Int) : Int := (a.zip b).foldl (fun n x => n + x.1 * x.2) 0

/-- An operand prepared for one K-step: its values by channel, and by row its block's poison and exponent. -/
structure Slab where
  vals : List (Nat × List (List Int))
  blocks : List (Bool × Int)
  deriving DecidableEq, Repr

/-- Values for each channel: one table for all, unless the operand is residue planes. -/
def slabVals (cs : List Chan) (planes : Bool) (all : List Chan) (f : Nat → Nat → Nat → Nat → Int) : List (Nat × List (List Int)) :=
  if planes then cs.map fun c => (c.h, table (f (all.findIdx fun d => d.h = c.h) c.m))
  else
    let t := table (f 0 0)
    cs.map fun c => (c.h, t)

/-- Block scales of the 64 rows for K-step st. -/
def Opnd.blocks (o : Opnd) (p : Memory × Nat) (st : Nat) : List (Bool × Int) :=
  if Fmt.isBlock o.fmt then (List.range 64).map fun r =>
    let w := o.scale p r st
    (scalePoisoned w, ((w % 256 : Nat) : Int) - Fmt.blockBias o.fmt)
  else List.replicate 64 (false, 0)

/-- The A operand of K-step st. -/
def slabA (s : State) (gk : Nat) (e : MxEntry) (f : MacForm) (cs all : List Chan) (st : Nat) : Slab :=
  let o := macA e f
  let p := padAt s gk e.xa
  if isUnfold e.instr then
    match readUnfold e.desc (MacForm.k f) with
    | some u => { vals := slabVals cs false all fun _ _ i kk => u.elem o.fmt p f.as.toNat i (64 * st + kk)
                  blocks := List.replicate 64 (false, 0) }
    | none => { vals := [], blocks := [] }
  else
    { vals := slabVals cs (Fmt.isPlane o.fmt) all fun pl m i kk =>
        if f.ta then o.elem p pl m (64 * st + kk) i else o.elem p pl m i (64 * st + kk)
      blocks := o.blocks p st }

/-- The B operand of K-step st, by column. -/
def slabB (s : State) (gk : Nat) (e : MxEntry) (f : MacForm) (cs all : List Chan) (st : Nat) : Slab :=
  let o := macB e f
  let p := padAt s gk e.xb
  { vals := slabVals cs (Fmt.isPlane o.fmt) all fun pl m j kk =>
      if f.tb then o.elem p pl m j (64 * st + kk) else o.elem p pl m (64 * st + kk) j
    blocks := o.blocks p st }

def Slab.row (x : Slab) (h i : Nat) : List Int := (NMap.getD x.vals h []).getD i []

/-- One K-step's contributions to every element of a tile (R251). -/
def macStep (t : Tile) (cs : List Chan) (a b : Slab) : Tile :=
  t.mapElems fun key e =>
    let i := key / 64
    let j := key % 64
    let ab := a.blocks.getD i (false, 0)
    let bb := b.blocks.getD j (false, 0)
    e.contribute cs (fun c => res (dot (a.row c.h i) (b.row c.h j)) c.m) (ab.2 + bb.2 + 157) (ab.1 || bb.1)

/-- Whether an operand of residue planes holds an invalid residue in a mode's channel (R93). -/
def Opnd.invalid (o : Opnd) (p : Memory × Nat) (cs all : List Chan) : Bool :=
  Fmt.isPlane o.fmt && cs.any fun c => (List.range o.rows).any fun r => (List.range o.cols).any fun k =>
    c.m ≤ rawAt p.1 (p.2 + (all.findIdx fun d => d.h = c.h) * up64 o.extent + r * o.stride) o.bits k

/-- Whether a ternary operand holds the code 0b10 (R91). -/
def Opnd.badTernary (o : Opnd) (p : Memory × Nat) : Bool :=
  o.fmt = .ternary && (List.range o.rows).any fun r => (List.range o.cols).any fun k =>
    rawAt p.1 (p.2 + r * o.stride) 2 k = 2

/-- A MAC-family operation completes: its contributions, the causes and the sticky bits of R253. -/
def runMac (s : State) (gk : Nat) (e : MxEntry) (f : MacForm) : State :=
  let g := s.group gk
  match g.mset, NMap.get? g.tiles f.acc.val with
  | some r, some t =>
    let all := recordChans r
    let cs := modeChans r (mapOf s gk) (Half.mode f.half)
    let slabs := (List.range (f.ksteps.val + 1)).map fun st => (slabA s gk e f cs all st, slabB s gk e f cs all st)
    let t := slabs.foldl (fun t x => macStep t cs x.1 x.2) t
    let pois := slabs.any fun x => x.1.blocks.any (fun y => y.1) || x.2.blocks.any fun y => y.1
    let a := macA e f
    let b := macB e f
    let bad := (!isUnfold e.instr && a.invalid (padAt s gk e.xa) cs all) || b.invalid (padAt s gk e.xb) cs all
    let n := entryBatch g e
    let causes := (if pois then [batchCause 77 n e.word] else []) ++ if bad then [batchCause 78 n e.word] else []
    let fl : Sticky := (if pois then fPOIS else 0) ||| if b.badTernary (padAt s gk e.xb) then fTBAD else 0
    (s.modGroup gk fun g => { g with tiles := NMap.set g.tiles f.acc.val t }).modEntry gk e.id fun e =>
      { e with causes := e.causes ++ causes, sticky := e.sticky ||| fl }
  | _, _ => s

/-! ### Spill and fill (R277 to R279) -/

def TMode.code : TMode → Nat
  | .unset => 0
  | .full => 1
  | .halfA => 2
  | .halfB => 3

def TMode.ofCode : Nat → Option TMode
  | 0 => some .unset
  | 1 => some .full
  | 2 => some .halfA
  | 3 => some .halfB
  | _ => none

/-- An element word of an image. -/
def TElem.word (e : TElem) : Nat :=
  e.xe.toNat + e.xs.toNat * 2 ^ 8 + bit e.psn * 2 ^ 16 + bit e.xovf * 2 ^ 17 + bit e.empty * 2 ^ 18

/-- Every element of a tile in order. -/
def Tile.all (t : Tile) : List TElem :=
  let rec go : List Nat → NMap TElem → List TElem
    | [], _ => []
    | i :: is, m =>
      match m with
      | (k, v) :: tl => if k = i then v :: go is tl else .blank :: go is m
      | [] => .blank :: go is []
  go (List.range 4096) t.elems

/-- The bytes of an image that its CRC covers before and after it. -/
def Tile.image (t : Tile) (map : BitVec 40) : List Byte :=
  let r := t.tset.getD (List.replicate 10 0)
  let cs := activeChans r map
  let head := recordBytes r ++ leBytes (TMode.code t.tmode) 1 ++ leBytes 0 3 ++ leBytes t.dcnt.toNat 4 ++ leBytes 0 20
  let es := t.all
  let body := (es.flatMap fun e => leBytes e.word 4) ++ (List.range 10).flatMap fun h =>
    if cs.any fun c => c.h = h then es.flatMap fun e => leBytes (e.at_ h) 2 else List.replicate 8192 0
  head ++ leBytes (crc32c (head ++ body)) 4 ++ body

/-- MSPILL completes (R278): a translation fault stops it. -/
def runSpill (s : State) (gk : Nat) (e : MxEntry) (acc : Nat) : State :=
  let g := s.group gk
  match NMap.get? g.tiles acc with
  | none => s
  | some t =>
    match engineWrite s g.core g.asid e.xa.toNat (t.image (mapOf s gk)) .group with
    | (s, some (b, a)) =>
      s.modEntry gk e.id fun e =>
        { e with causes := e.causes ++ [{ cause := b.1, addr := BitVec.ofNat 64 a, info := b.2 }] }
    | (s, none) => s

/-- Little-endian words of n bytes. -/
def chunksOf (n : Nat) : Nat → List Byte → List Nat
  | 0, _ => []
  | k + 1, bs => leNat (bs.take n) :: chunksOf n k (bs.drop n)

/-- The tile an image holds under the group's set, with whether a residue was invalid; none when it is rejected (R279). -/
def fillTile (bs : List Byte) (set : ModRecord) (map : BitVec 40) : Option (Tile × Bool) :=
  let head := bs.take 60
  let body := bs.drop 64
  let present := recordChans set
  let act := activeChans set map
  let words := chunksOf 4 4096 body
  let planes := (List.range 10).map fun h => chunksOf 2 4096 ((body.drop (16384 + 8192 * h)).take 8192)
  let zeros := ((head.drop 33).take 3 ++ head.drop 40).all fun b => b = 0
  let planesOk := (List.range 10).all fun h =>
    let p := planes.getD h []
    if act.any fun c => c.h = h then p.all fun x => decide (x < 512)
    else present.any (fun c => c.h = h) || p.all fun x => decide (x = 0)
  let wordsOk := words.all fun x => decide (x < 2 ^ 19 ∧ x / 2 ^ 14 % 4 = 0)
  match TMode.ofCode (leNat ((head.drop 32).take 1)) with
  | none => none
  | some mode =>
    let unsetOk := mode ≠ .unset || (words.all (fun x => decide (x = 2 ^ 18)) && act.all fun c =>
      (planes.getD c.h []).all fun x => decide (x = 0))
    if leNat ((bs.drop 60).take 4) = crc32c (head ++ body) && zeros && planesOk && wordsOk && unsetOk &&
        bs.take 32 = recordBytes set then
      let bad := act.any fun c => (planes.getD c.h []).any fun x => decide (c.m ≤ x)
      let cols := act.map fun c => (c.h, (planes.getD c.h []).map fun x => if x < c.m then x else 0)
      let rec build : Nat → List Nat → List (Nat × List Nat) → NMap TElem
        | _, [], _ => []
        | i, w :: ws, cols =>
          let e : TElem := {
            res := (List.range 10).map fun h => BitVec.ofNat 9 ((NMap.getD cols h []).headD 0)
            xe := BitVec.ofNat 8 w, xs := BitVec.ofNat 6 (w / 2 ^ 8), psn := bitOf w 16, xovf := bitOf w 17
            empty := bitOf w 18 }
          let rest := build (i + 1) ws (cols.map fun c => (c.1, c.2.tail))
          if e = .blank then rest else (i, e) :: rest
      some ({ elems := build 0 words cols, tmode := mode, tset := some set, dcnt := BitVec.ofNat 32 (leNat ((head.drop 36).take 4)) },
        bad)
    else none

/-- MFILL completes (R279). -/
def runFill (s : State) (gk : Nat) (e : MxEntry) (acc : Nat) : State :=
  let g := s.group gk
  let fail (s : State) (f : LateFault) : State := s.modEntry gk e.id fun e => { e with causes := e.causes ++ [f] }
  match engineRead s g.core g.asid e.xa.toNat 98368 with
  | (s, .error (b, a)) => fail s { cause := b.1, addr := BitVec.ofNat 64 a, info := b.2 }
  | (s, .ok bs) =>
    match g.mset with
    | none => s
    | some set =>
      match fillTile bs set (mapOf s gk) with
      | none => fail s { cause := 83, addr := e.xa }
      | some (t, bad) =>
        let s := s.modGroup gk fun g => { g with tiles := NMap.set g.tiles acc t }
        if bad then fail s (batchCause 78 (entryBatch g e) e.word) else s

end Sys2Proof.Machine
end

