-- ==== Sys2Proof/Machine/Drain.lean ====
section
/-! DEFINITION. The drain engine (R284 to R303): drained values, their output, digits, checksums, the containment registers,
and the instructions MDRAIN, MDRAINV, MDIGIT, MCHK and MSTAT. -/

namespace Sys2Proof.Machine

/-! ### One element (R284, R285) -/

/-- The drain status of an element (R284). -/
inductive DrainStatus where
  | val (x : Int) (corr : Option Nat)
  | psn
  | ovr
  deriving DecidableEq, Repr

def TElem.drainStatus (e : TElem) (cs : List Chan) : DrainStatus :=
  if e.empty then .val 0 none
  else if e.psn then .psn
  else if e.xovf then .ovr
  else
    match e.recon cs with
    | .ok x => .val x none
    | .corr x h => .val x (some h)
    | .ovr => .ovr

/-- x·2^k as a value to round. -/
def scaledPre (x k : Int) : Pre := if x = 0 then .zero false else .num (decide (x < 0)) ⟨x.natAbs, k, false⟩

/-- Round a value to an integer, with NX. -/
def roundInt (r : RMode) : Pre → Int × Sticky
  | .num neg x =>
    let p := r.pick neg x 0
    (if neg then -(p.1 : Int) else p.1, if p.2 then 0 else fNX)
  | _ => (0, 0)

/-- An integer output: wrapped or clamped (R285). -/
def drainInt (w : Nat) (sg sat : Bool) (r : RMode) (p : Pre) : Int × Sticky :=
  let y := roundInt r p
  let z := intToInt w sg sat y.1
  (z.1, y.2 ||| z.2)

/-- The value of a PSN or OVR element in an integer format: Lo. -/
def drainLost (st : DrainStatus) : Sticky :=
  match st with
  | .psn => fPOIS
  | .ovr => fOF
  | .val .. => 0

/-- One drained element: its output, its sticky bits, its corrected channel. -/
structure Drained where
  y : Int := 0                                 -- an integer, a mantissa, or the bits of a float
  fl : Sticky := 0
  corr : Option Nat := none
  ovr : Bool := false
  psn : Bool := false
  deriving DecidableEq, Repr

def DrainStatus.base (st : DrainStatus) (y : Int) (fl : Sticky) : Drained :=
  { y := y, fl := fl ||| drainLost st
    corr := match st with | .val _ c => c | _ => none
    ovr := decide (st = .ovr), psn := decide (st = .psn) }

/-- What a drain needs of its entry and group. -/
structure DrainCtx where
  fmt : Fmt
  scale : Int
  rnd : Nat
  sat : Bool
  ftz : Bool
  seed : Word64
  gang : Word64
  gid : Nat
  acc : Nat
  dcnt : Nat
  cs : List Chan
  deriving DecidableEq, Repr

/-- The rounding of element `key` (R100). -/
def DrainCtx.rmode (d : DrainCtx) (key : Nat) : RMode :=
  { rnd := d.rnd, ftz := d.ftz
    u := if d.rnd = 6 then
        drawU d.seed d.gang (BitVec.ofNat 64 (2 * 2 ^ 62 + d.gid * 2 ^ 16 + d.acc * 2 ^ 12 + key)) (BitVec.ofNat 64 d.dcnt)
      else 0 }

/-- The power of two an element's integer stands for. -/
def DrainCtx.power (d : DrainCtx) (e : TElem) : Int := (e.xe.toNat : Int) - 157 + d.scale

/-- Drain one element to an integer, float or residue output. -/
def DrainCtx.elem (d : DrainCtx) (e : TElem) (key : Nat) : Drained :=
  let st := e.drainStatus d.cs
  let r := d.rmode key
  match st, Fmt.int? d.fmt, Fmt.float? d.fmt with
  | .val x _, some (w, sg), _ =>
    let y := drainInt w sg d.sat r (scaledPre x (d.power e))
    st.base y.1 y.2
  | _, some (w, sg), _ => st.base (rangeLo w sg) 0
  | .val x _, none, some f =>
    let y := f.convert r d.sat (scaledPre x (d.power e))
    st.base y.1 y.2
  | _, none, some f => st.base f.canonNaN 0
  | .val x _, none, none =>
    let y := drainInt 16 true d.sat r (scaledPre x (d.power e))
    st.base y.1 y.2
  | _, none, none => st.base 0 0

/-! ### Block-scaled rows (R286) -/

/-- |x|·2^k ≤ q. -/
def magLe (x k : Int) (q : Nat) : Bool := if 0 ≤ k then x.natAbs * 2 ^ k.toNat ≤ q else x.natAbs ≤ q * 2 ^ (-k).toNat

/-- A row as one block: its scale word and its elements. -/
def DrainCtx.block (d : DrainCtx) (row : Nat) (es : List TElem) : Nat × List Drained :=
  let q : Nat := if d.fmt = .bs16 then 32767 else 127
  let bias := Fmt.blockBias d.fmt
  let sts := es.map fun e => (e, e.drainStatus d.cs)
  if sts.any fun x => x.2 = .psn || x.2 = .ovr then (2 ^ 15, sts.map fun x => x.2.base 0 0)
  else
    let vals := sts.map fun x => match x.2 with
      | .val y _ => (y, d.power x.1)
      | _ => (0, 0)
    let mant (se : Int) (clamp : Bool) : List Drained := ((sts.zip vals).zipIdx).map fun x =>
      let y := roundInt (d.rmode (64 * row + x.2)) (scaledPre x.1.2.1 (x.1.2.2 + bias - se))
      if clamp then x.1.1.2.base (max (-(q : Int)) (min (q : Int) y.1)) (y.2 ||| fSAT) else x.1.1.2.base y.1 y.2
    match (List.range 255).find? fun (se : Nat) => vals.all fun v => magLe v.1 (v.2 + bias - se) q with
    | some se => (se, mant se false)
    | none => if d.sat then (254, mant 254 true) else (2 ^ 15, sts.map fun x => x.2.base 0 fOF)

/-! ### Output in memory (R287, R288) -/

/-- A drained tile: its writes in order (offset, bytes), its elements, and for each the end of its last byte. -/
structure DrainOut where
  writes : List (Nat × List Byte)
  elems : List (Nat × Drained × Nat)           -- key, element, end offset
  deriving DecidableEq, Repr

/-- The bytes of a row of z-bit values. -/
def packRow (z : Nat) (ys : List Nat) : List Byte :=
  leBytes ((ys.zipIdx).foldl (fun n x => n + x.1 % 2 ^ z * 2 ^ (z * x.2)) 0) (ys.length * z / 8)

/-- Row stride S and extent E of a drain's output. -/
def drainStride (z ds : Nat) : Nat := if ds = 0 then 8 * z else 64 * ds
def drainExtent (z ds : Nat) : Nat := 63 * drainStride z ds + 8 * z

/-- The bytes a drain's output spans, under a set of n present channels. -/
def drainSize (f : Fmt) (ds n : Nat) : Nat :=
  let e := drainExtent (Fmt.bits f) ds
  if Fmt.isPlane f then (n - 1) * up64 e + e else if Fmt.isBlock f then up64 e + 128 else e

/-- The rows of a tile. -/
def Tile.rows (t : Tile) : List (List TElem) :=
  let es := t.all
  (List.range 64).map fun i => (es.drop (64 * i)).take 64

/-- Drain a whole tile to memory. -/
def DrainCtx.tile (d : DrainCtx) (t : Tile) (all : List Chan) (ds : Nat) : DrainOut :=
  let z := Fmt.bits d.fmt
  let st := drainStride z ds
  let e := drainExtent z ds
  let rows := t.rows.zipIdx
  let done (i j : Nat) : Nat := i * st + (j + 1) * z / 8 + if (j + 1) * z % 8 = 0 then 0 else 1
  if Fmt.isBlock d.fmt then
    let bs := rows.map fun r => (r.2, d.block r.2 r.1)
    { writes := (bs.map fun b => (b.1 * st, packRow z (b.2.2.map fun x => wrapTo z x.y))) ++
        bs.map fun b => (up64 e + 2 * b.1, leBytes b.2.1 2)
      elems := bs.flatMap fun b => b.2.2.zipIdx.map fun x => (64 * b.1 + x.2, x.1, up64 e + 2 * b.1 + 2) }
  else
    let xs := rows.map fun r => (r.2, r.1.zipIdx.map fun x => d.elem x.1 (64 * r.2 + x.2))
    if Fmt.isPlane d.fmt then
      { writes := all.zipIdx.flatMap fun c => xs.map fun r =>
          (c.2 * up64 e + r.1 * st, packRow z (r.2.map fun x => if x.ovr || x.psn then 0 else res x.y c.1.m))
        elems := xs.flatMap fun r => r.2.zipIdx.map fun x =>
          (64 * r.1 + x.2, x.1, (all.length - 1) * up64 e + done r.1 x.2) }
    else
      { writes := xs.map fun r => (r.1 * st, packRow z (r.2.map fun x => wrapTo z x.y))
        elems := xs.flatMap fun r => r.2.zipIdx.map fun x => (64 * r.1 + x.2, x.1, done r.1 x.2) }

/-! ### Containment (R291 to R293) -/

/-- The CONTAIN register after one correction. -/
def containAdd (v : Nat) (die h acc key batch : Nat) : Nat :=
  let total := v / 2 ^ 48
  let v := v % 2 ^ 48 + (if total < 65535 then total + 1 else total) * 2 ^ 48
  if bitOf v 40 then (if bitOf v 41 then v else v + 2 ^ 41)
  else
    let log := 2 ^ 40 + die * 2 ^ 36 + h * 2 ^ 32 + acc * 2 ^ 29 + key / 64 * 2 ^ 23 + key % 64 * 2 ^ 17 + batch % 16 * 2 ^ 13
    v / 2 ^ 41 * 2 ^ 41 + log + v % 2 ^ 13

/-- Record one correction on a core (R293). -/
def noteCorrection (s : State) (c : Nat) (die h acc key batch : Nat) : State :=
  s.modCore c fun k => { k with
    contain := BitVec.ofNat 64 (containAdd k.contain.toNat die h acc key batch)
    ccnt := NMap.set k.ccnt die (BitVec.ofNat 16 (satInc (NMap.getD k.ccnt die 0).toNat)) }

/-- What the drained elements that were written bring to their entry and core (R289, R293). -/
def countDrained (s : State) (gk : Nat) (e : MxEntry) (xs : List (Nat × Drained)) : State :=
  let g := s.group gk
  let c := g.core
  let n := entryBatch g e
  let corr := xs.filterMap fun x => x.2.corr.map fun h => (x.1, h)
  let s := corr.foldl (fun s x => noteCorrection s c (dieOf (mapOf s gk) x.2) x.2 (Instr.acc e.instr) x.1 n) s
  let trap := !corr.isEmpty && bitOf (s.core c).contain.toNat 0
  s.modEntry gk e.id fun e => { e with
    sticky := xs.foldl (fun a x => a ||| x.2.fl) e.sticky
    ovr := (xs.filter fun x => x.2.ovr).length, corr := corr.length, psn := xs.any fun x => x.2.psn
    causes := if trap then e.causes ++ [batchCause 82 n e.word] else e.causes }

/-! ### Destinations (R296) -/

/-- A destination in virtual memory. -/
def destVirt (a : Word64) : Bool := bitOf a.toNat 63

def destAddr (a : Word64) : Nat := a.toNat % 2 ^ 48

/-- Write a drain's output; answers the offset it could not reach, with the cause. -/
def drainWrite (s : State) (gk : Nat) (a : Word64) (size : Nat) (ws : List (Nat × List Byte)) : State × Nat × Option LateFault :=
  let g := s.group gk
  if destVirt a then
    let base := destAddr a
    let (s, bad) := writeLimit s g.core g.asid base size
    let lim := (bad.map fun b => b.2 - base).getD size
    let s := ws.foldl (fun s w =>
      (engineWrite s g.core g.asid (base + w.1) (w.2.take (lim - w.1)) .group).1) s
    (s, lim, bad.map fun b => { cause := b.1.1, addr := BitVec.ofNat 64 b.2, info := b.1.2 })
  else
    (ws.foldl (fun s w => scratchWrite s g.gang (a + BitVec.ofNat 64 w.1) w.2) s, size, none)

/-- The output format of a drain: 0x0F selects FMT.DF. -/
def drainFmt (e : MxEntry) (f : DrainFmt) : Fmt := if f.fmt = .ternary then fmtField e.fmt 10 else f.fmt

/-- The context of a drain entry. -/
def drainCtx (s : State) (gk : Nat) (e : MxEntry) (t : Tile) (f : DrainFmt) : DrainCtx :=
  let g := s.group gk
  { fmt := drainFmt e f, scale := f.scale.toInt, rnd := if f.rnd = .dyn then e.rnd.val else (Rnd.code f.rnd).toNat, sat := f.sat
    ftz := e.ftz, seed := e.seed, gang := BitVec.ofNat 64 (((s.gang? g.gang).map (·.gangid)).getD 0), gid := g.gid
    acc := Instr.acc e.instr, dcnt := e.dcnt.toNat
    cs := (t.tset.map fun r => modeChans r (mapOf s gk) t.tmode).getD [] }

/-! ### Digits and checksums (R299, R300) -/

/-- Digit d of an element; 0 where it is empty or the tile Unset. -/
def digitOf (e : TElem) (cs : List Chan) (d : Nat) : Nat := if e.empty then 0 else (e.digits cs).getD d 0

/-- A sum of elements aligned to exponent e0, in a channel. -/
def alignedSum (es : List TElem) (e0 : Nat) (c : Chan) : Nat :=
  (es.foldl (fun n e => n + if e.empty then 0 else e.at_ c.h * 2 ^ (e.xe.toNat - e0)) 0) % c.m

/-- The two sides of a checksum differ, or an element involved has overflowed or lost a contribution. -/
def sumFails (lhs : List TElem) (rhs : TElem) (cs : List Chan) : Bool :=
  let es := lhs ++ [rhs]
  let e0 := (es.filter fun e => !e.empty).foldl (fun n e => min n e.xe.toNat) 255
  es.any (fun e => e.xovf || e.psn) || cs.any fun c => alignedSum lhs e0 c ≠ alignedSum [rhs] e0 c

/-- The record of MCHK: row bitmap, column bitmap. -/
def checkTiles (t rt ct : Tile) (cs : List Chan) : List Byte :=
  let rows := t.rows
  let mapBits (f : Nat → Bool) : Nat := (List.range 64).foldl (fun n i => if f i then n + 2 ^ i else n) 0
  leBytes (mapBits fun i => sumFails (rows.getD i []) (rt.at_ (64 * i)) cs) 8 ++
    leBytes (mapBits fun j => sumFails (rows.map fun r => r.getD j .blank) (ct.at_ j) cs) 8

/-! ### Entries of the drain engine -/

/-- The bytes a drain entry writes from its destination. -/
def drainRange (s : State) (gk : Nat) (e : MxEntry) : Option (Word64 × Nat) :=
  let n := (((s.group gk).mset.map recordChans).map (·.length)).getD 0
  match e.instr with
  | .mdrain _ _ _ f ds => some (e.xa, drainSize (drainFmt e f) ds.toNat n)
  | .mdigit .. => some (e.xa, 8192)
  | .mchk .. => some (e.xa, 16)
  | _ => none

/-- A format MDRAINV can write (R298). -/
def vectorFmt (f : Fmt) : Bool :=
  match f with
  | .i4 | .u4 | .i8 | .u8 | .i16 | .u16 | .i32 | .u32 | .f32 | .f16 | .bf16 => true
  | _ => false

/-- The start fault of a drain entry (R302). -/
def drainFault (s : State) (gk : Nat) (e : MxEntry) : Option LateFault :=
  let g := s.group gk
  let tile (n : Nat) : Tile := NMap.getD g.tiles n {}
  let t := tile (Instr.acc e.instr)
  let bad := batchCause 76 (entryBatch g e) e.word
  let plane (f : Fmt) : Option LateFault :=
    if f = .plane1 && ((g.mset.map recordChans).getD []).any fun c => 256 < c.m then
      some (batchCause 79 (entryBatch g e) e.word)
    else none
  match (drainRange s gk e).bind fun r => if destVirt r.1 then none else badRange s gk [r] with
  | some x => some x
  | none =>
    if g.mset.isNone || t.tset ≠ g.mset then some bad
    else
      match e.instr with
      | .mdrain _ _ _ f _ => plane (drainFmt e f)
      | .mdrainv _ _ f _ _ => if vectorFmt (drainFmt e f) then none else some bad
      | .mdigit _ _ _ d =>
        if t.tmode ≠ .unset ∧ ((g.mset.map fun r => modeChans r (mapOf s gk) t.tmode).getD []).length ≤ d.val then some bad
        else none
      | .mchk _ a r c _ =>
        if [tile r.val, tile c.val].all fun x => x.tmode = (tile a.val).tmode && x.tset = (tile a.val).tset then none
        else some bad
      | _ => none

/-- A drain starts: MDRAIN and MDRAINV count in the tile's DCNT (R289). -/
def startDrain (s : State) (gk : Nat) (e : MxEntry) : State :=
  let a := Instr.acc e.instr
  let t := NMap.getD (s.group gk).tiles a {}
  match e.instr with
  | .mdrain .. | .mdrainv .. =>
    (s.modEntry gk e.id fun e => { e with dcnt := t.dcnt }).modGroup gk fun g => { g with
      tiles := NMap.modify g.tiles a fun t => { t with dcnt := t.dcnt + 1 } }
  | _ => s

/-- Add a cause to an entry. -/
def entryCause (s : State) (gk id : Nat) (f : Option LateFault) : State :=
  s.modEntry gk id fun e => { e with causes := e.causes ++ f.toList }

/-- A drain entry completes: it reads its tile and writes its output (R297 to R300). -/
def runDrain (s : State) (gk : Nat) (e : MxEntry) : State :=
  let g := s.group gk
  let t := NMap.getD g.tiles (Instr.acc e.instr) {}
  let cs := (t.tset.map fun r => modeChans r (mapOf s gk) t.tmode).getD []
  match e.instr with
  | .mdrain _ _ _ f ds =>
    let all := (g.mset.map recordChans).getD []
    let out := (drainCtx s gk e t f).tile t all ds.toNat
    let (s, lim, bad) := drainWrite s gk e.xa (drainSize (drainFmt e f) ds.toNat all.length) out.writes
    countDrained (entryCause s gk e.id bad) gk e ((out.elems.filter fun x => decide (x.2.2 ≤ lim)).map fun x => (x.1, x.2.1))
  | .mdrainv _ _ f row _ =>
    let d := drainCtx s gk e t f
    let es := (List.range 64).map fun j => (64 * row.val + j, d.elem (t.at_ (64 * row.val + j)) (64 * row.val + j))
    let word (j : Nat) : Word32 := BitVec.ofNat 32 (wrapTo 32 ((es[j]?.map fun x => x.2.y).getD 0))
    (countDrained s gk e es).modEntry gk e.id fun e => { e with
      vrow := (List.range 32).map fun l => (word l, word (l + 32)) }
  | .mdigit _ _ _ d =>
    let bytes := t.all.flatMap fun x => leBytes (if t.tmode = .unset then 0 else digitOf x cs d.val) 2
    let (s, _, bad) := drainWrite s gk e.xa 8192 [(0, bytes)]
    entryCause s gk e.id bad
  | .mchk _ _ r c _ =>
    let bytes := checkTiles t (NMap.getD g.tiles r.val {}) (NMap.getD g.tiles c.val {}) cs
    let (s, _, bad) := drainWrite s gk e.xa 16 [(0, bytes)]
    (entryCause s gk e.id bad).modEntry gk e.id fun e => { e with chkf := bad.isNone && bytes.any fun b => b ≠ 0 }
  | _ => s

/-- The lock of a drain's output (R288, R296). -/
def drainLocks (s : State) (gk : Nat) (e : MxEntry) : List (Nat × Lock) :=
  let g := s.group gk
  match drainRange s gk e with
  | none => []
  | some (a, n) =>
    if destVirt a then [(g.core, .of (.virt g.asid) (destAddr a) n true (.matrix gk e.id))]
    else
      match scratchTarget s g.gang a with
      | some (gr, off) => [((s.group gr).core, .of (.scratch gr) off n true (.matrix gk e.id))]
      | none => []

/-! ### The matrix status (R294) -/

/-- The matrix status word. -/
def mstatWord (s : State) (gk : Nat) : Word64 :=
  let g := s.group gk
  let lv (t : TMode) : Nat := levelField g.mset (mapOf s gk) t
  BitVec.ofNat 64 (g.mcause.toNat * 2 ^ 56 + g.mcbatch.toNat * 2 ^ 52 + lv .halfB * 2 ^ 48 + lv .halfA * 2 ^ 46 +
    lv .full * 2 ^ 44 + bit g.mset.isNone * 2 ^ 43 + bit g.pair.isSome * 2 ^ 42 + min g.ovrcnt 65535 * 2 ^ 24 +
    min g.corrcnt 65535 * 2 ^ 8 + bit g.chkf * 2 ^ 3 + bit g.psndr * 2 ^ 2 + bit g.more * 2)

/-- MSTAT (R301). -/
def execMstat (g : Guard) (clr : Bool) (sd : Fin 32) (s : State) : Host.Outcome State Fault Refusal :=
  withCtx s fun c =>
    if !c.guardHolds g then .next (s.advance c.wid)
    else
      let s := abortOpen c s (c.eff g)
      let s := s.modWave c.wid fun w => w.setS sd.val (Scalar.of (mstatWord s c.w.group))
      let s := if clr then s.modGroup c.w.group fun g => { g with
          mcause := 0, mcbatch := 0, ovrcnt := 0, corrcnt := 0, chkf := false, psndr := false, more := false } else s
      .next (s.advance c.wid)

/-- MDRAIN (R297). -/
def execMdrain (g : Guard) (acc : Fin 8) (xa : Fin 32) (f : DrainFmt) (ds : BitVec 8) (s : State) :
    Host.Outcome State Fault Refusal :=
  withCtx s fun c => c.enqueue s (.mdrain g acc xa f ds) g true (c.sVal xa) 0 0

/-- MDRAINV (R298). -/
def execMdrainv (g : Guard) (acc : Fin 8) (f : DrainFmt) (row : Fin 64) (pair : Fin 96) (s : State) :
    Host.Outcome State Fault Refusal :=
  withCtx s fun c => c.enqueue s (.mdrainv g acc f row pair) g true 0 0 0

/-- MDIGIT (R299). -/
def execMdigit (g : Guard) (acc : Fin 8) (xa : Fin 32) (digit : Fin 10) (s : State) : Host.Outcome State Fault Refusal :=
  withCtx s fun c => c.enqueue s (.mdigit g acc xa digit) g true (c.sVal xa) 0 0

/-- MCHK (R300). -/
def execMchk (g : Guard) (acc rt ct : Fin 8) (xa : Fin 32) (s : State) : Host.Outcome State Fault Refusal :=
  withCtx s fun c => c.enqueue s (.mchk g acc rt ct xa) g true (c.sVal xa) 0 0

end Sys2Proof.Machine
end

