-- ==== Sys2Proof/Machine/MatrixRun.lean ====
section
/-! DEFINITION. How the matrix engine works through its queues: starting, completing and retiring (R255 to R261, R272 to
R276), and the instructions that enter them. -/

namespace Sys2Proof.Machine

/-! ### What may start (R255) -/

/-- The oldest entry of a group that has not started. -/
def mxHead (g : Group) : Option MxEntry := g.mq.find? fun e => e.state = .waiting

/-- The array halves an entry needs. -/
def Instr.halves (i : Instr) : List Bool :=
  match Instr.mac? i with
  | some f =>
    match f.half with
    | .full => [false, true]
    | .a => [false]
    | .b => [true]
  | none => []

/-- The running entries of a core. -/
def runningOn (s : State) (c : Nat) : List MxEntry :=
  (s.groups.filter fun g => g.2.core = c).flatMap fun g => g.2.mq.filter fun e => e.state = .running

/-- Condition 4: the halves, or the drain engine, are free. -/
def unitFree (s : State) (c : Nat) (i : Instr) : Bool :=
  (runningOn s c).all fun r =>
    (Instr.halves i).all (fun h => !(Instr.halves r.instr).contains h) && !(Instr.isDrain i && Instr.isDrain r.instr)

/-- Two operations of a group that condition 5 orders. -/
def tilesMeet (earlier later : Instr) : Bool :=
  let a := Instr.tiles earlier
  let b := Instr.tiles later
  let hit := a.2.any (fun t => b.1.contains t || b.2.contains t) || a.1.any fun t => b.2.contains t
  hit && !((Instr.mac? earlier).isSome && (Instr.mac? later).isSome)

/-- Conditions 2 to 5, the accesses of its wave that precede it (R231), the suspension of the gang (R261) and the drop of a die (R482). -/
def mxReady (s : State) (gk : Nat) (e : MxEntry) : Bool :=
  let g := s.group gk
  e.guard.isNone && waveClear s e.wave e.after && !(g.mq.any fun x => x.state = .running && x.batch.isNone) && unitFree s g.core e.instr &&
    !(g.mq.any fun x => x.id < e.id && x.batch.isSome && x.state ≠ .complete && tilesMeet x.instr e.instr) &&
    !((s.gang? g.gang).map fun x => x.suspendReq || x.suspended.isSome).getD false &&
    (s.tower (towerOf g.core)).dieDrop.isNone

/-! ### Locks (R257) -/

/-- The locks of an entry, by core. -/
def mxLocks (s : State) (gk : Nat) (e : MxEntry) (follower : Bool) : List (Nat × Lock) :=
  let g := s.group gk
  let o : LockOwner := .matrix gk e.id
  match Instr.mac? e.instr with
  | some f =>
    (macLocked s gk e f follower).filterMap fun r => (scratchTarget s g.gang r.1).map fun t =>
      ((s.group t.1).core, Lock.of (.scratch t.1) t.2 r.2 false o)
  | none =>
    match e.instr with
    | .mspill .. => [(g.core, .of (.virt g.asid) e.xa.toNat 98368 true o)]
    | .mfill .. => [(g.core, .of (.virt g.asid) e.xa.toNat 98368 false o)]
    | _ => drainLocks s gk e

/-! ### Starting (R255, R260) -/

/-- The locks of an operation go to its group's retained store. -/
def retainLocks (s : State) (gk id : Nat) : State :=
  let mine (l : Lock) : Bool := l.owner = .matrix gk id
  let ls := s.cores.flatMap fun k => k.2.locks.filter mine
  { s with cores := NMap.mapVal s.cores fun _ k => if k.locks.any mine then { k with locks := k.locks.filter (!mine ·) } else k }
    |>.modGroup gk fun g => { g with retained := g.retained ++ ls }

/-- Start a batch operation that has its locks: at once complete with a cause, or running. -/
def beginEntry (s : State) (gk : Nat) (e : MxEntry) (fault : Option LateFault) : State :=
  match fault with
  | some f => retainLocks (failEntry s gk e f) gk e.id
  | none =>
    let s := s.modEntry gk e.id fun e => { e with state := .running }
    match Instr.mac? e.instr with
    | some f =>
      s.modGroup gk fun g => { g with tiles := NMap.modify g.tiles f.acc.val fun t =>
        if t.tmode = .unset then { t with tmode := Half.mode f.half } else t }
    | none => startDrain s gk e

/-- The start fault of an entry, pairing apart. -/
def entryFault (s : State) (gk : Nat) (e : MxEntry) (follower : Bool) : Option LateFault :=
  match Instr.mac? e.instr with
  | some f => macFault s gk e f follower
  | none =>
    if Instr.isDrain e.instr then drainFault s gk e
    else if (s.group gk).mset.isNone then some (batchCause 76 (entryBatch (s.group gk) e) e.word)
    else none

/-- Take the locks of an entry whose ranges exist, and start it. -/
def startAlone (s : State) (gk : Nat) (e : MxEntry) (follower : Bool) (extra : Option LateFault) : Option State :=
  let fault := entryFault s gk e follower
  let beyond := (fault.map fun f => decide (f.cause = 43)).getD false
  (takeLocksIn s (if beyond then [] else mxLocks s gk e follower)).map fun s =>
    beginEntry s gk e (match fault with | some f => some f | none => extra)

/-- The entry with FMT as it stands, and MMACU's descriptor as its scratchpad holds it (R255, R269). -/
def withFmt (s : State) (gk : Nat) (e : MxEntry) : MxEntry :=
  let p := padAt s gk e.xc
  { e with fmt := (s.group gk).fmt, desc := if isUnfold e.instr then Memory.readBytes p.1 p.2 32 else [] }

def putFmt (s : State) (gk id : Nat) : State := s.modEntry gk id (withFmt s gk)

/-- The group of a gang on a core. -/
def groupOn (s : State) (gang c : Nat) : Option Nat :=
  ((s.gang? gang).map (·.groups)).bind fun gs => gs.find? fun gk => (s.group gk).core = c && (s.group gk).live

/-- The pair of a group stands: its partner is live, and paired with it. -/
def pairStands (s : State) (gk : Nat) (p : Pairing) : Bool :=
  !p.broken && (s.group p.partner).live && ((s.group p.partner).pair.map fun q => decide (q.partner = gk)).getD false

/-- The two operations of a pair agree (R273). -/
def pairAgrees (s : State) (a b : Nat) (e f : MxEntry) : Bool :=
  match Instr.mac? e.instr, Instr.mac? f.instr with
  | some x, some y =>
    x.ksteps = y.ksteps && x.half = y.half && e.fmt.toNat / 2 ^ 5 % 32 = f.fmt.toNat / 2 ^ 5 % 32 && x.tb = y.tb && x.bs = y.bs &&
      (s.group a).mset = (s.group b).mset
  | _, _ => false

def pairFault (s : State) (gk : Nat) (e : MxEntry) : LateFault := batchCause 136 (entryBatch (s.group gk) e) e.word

/-- An entry of the group has started: its core's round-robin goes on from there (R255, R504). -/
def noteStart (s : State) (gk : Nat) : State :=
  s.modCore (s.group gk).core fun k => { k with lastGroup := some (s.group gk).order }

/-- Start the MAC-family operations of a pair in one step (R273): the follower takes the leader's B. -/
def startPair (s : State) (gk pk : Nat) (lead : Bool) (e p : MxEntry) : Option State :=
  let (lk, le, fk, fe) := if lead then (gk, e, pk, p) else (pk, p, gk, e)
  let ok := pairAgrees s lk fk le fe
  let bad (k : Nat) (x : MxEntry) : Option LateFault := if ok then none else some (pairFault s k x)
  let fe := { fe with xb := if ok then le.xb else fe.xb }
  (startAlone s lk le false (bad lk le)).bind fun s =>
    (startAlone (s.modEntry fk fe.id fun x => { x with xb := fe.xb }) fk fe true (bad fk fe)).map fun s => noteStart s pk

/-- Start a MAC-family operation: alone, with its partner's, or broken (R273, R274). -/
def startMac (s : State) (gk : Nat) (e : MxEntry) : Option State :=
  match (s.group gk).pair with
  | none => startAlone s gk e false none
  | some p =>
    if pairStands s gk p then
      match mxHead (s.group p.partner) with
      | some q =>
        if (Instr.mac? q.instr).isSome ∧ mxReady s p.partner q = true then
          startPair (putFmt s p.partner q.id) gk p.partner p.leader e (withFmt s p.partner q)
        else none
      | none => none
    else if p.broken then some (s.modEntry gk e.id fun e => { e with state := .complete })
    else
      some (failEntry (s.modGroup gk fun g => { g with pair := some { p with broken := true } }) gk e (pairFault s gk e))

/-! ### Order marks (R262, R263, R272, R274) -/

/-- A mark ends with the pairing cause. -/
def failMark (s : State) (gk : Nat) (e : MxEntry) : State :=
  let b := (s.group gk).openSeq % 16
  recordCause (dropEntry s gk e.id) gk b (batchCause 136 b e.word)

/-- Both partners' MPAIRs take effect (R272). One that meets an MPAIR of a group still paired waits while that takes effect with no
other change (R274). -/
def startMpair (s : State) (gk : Nat) (e : MxEntry) (partner : Fin 4) (follow : Bool) : Option State :=
  let g := s.group gk
  let c := 4 * (g.core / 4) + partner.val
  if g.pair.isSome then some (dropEntry s gk e.id)
  else if c = g.core then some (failMark s gk e)
  else
    match groupOn s g.gang c with
    | none => some (failMark s gk e)
    | some pk =>
      match mxHead (s.group pk) with
      | some q =>
        match q.instr with
        | .mpair partner' follow' =>
          if (s.group pk).pair.isSome ∨ mxReady s pk q = false then none
          else if follow ≠ follow' ∧ partner'.val = g.core % 4 then
            let s := dropEntry (dropEntry s gk e.id) pk q.id
            let s := s.modGroup gk fun g => { g with pair := some { partner := pk, leader := !follow } }
            some (noteStart (s.modGroup pk fun g => { g with pair := some { partner := gk, leader := !follow' } }) pk)
          else some (noteStart (failMark (failMark s gk e) pk q) pk)
        | _ => none
      | none => none

/-- SETMOD starts: it reads its record (R262). -/
def startSetmod (s : State) (gk : Nat) (e : MxEntry) : State :=
  let g := s.group gk
  let go (s : State) (r : Option ModRecord) (f : Option LateFault) : State :=
    s.modEntry gk e.id fun e => { e with state := .running, newSet := r, causes := f.toList, effectAt := some s.cycle }
  match e.instr with
  | .setmod _ =>
    match engineRead s g.core g.asid e.xa.toNat 32 with
    | (s, .error (b, a)) => go s none (some { cause := b.1, addr := BitVec.ofNat 64 a, info := b.2 })
    | (s, .ok bs) =>
      if recordBytesValid bs ∧ servable (readRecord bs) (mapOf s gk) = true then go s (some (readRecord bs)) none
      else go s none (some (batchCause 75 (g.openSeq % 16) e.word))
  | _ =>
    if servable defaultRecord (mapOf s gk) then go s (some defaultRecord) none
    else go s none (some (batchCause 75 (g.openSeq % 16) e.word))

/-- Start an entry whose conditions 2 to 5 hold; none while it must wait for locks or its partner. -/
def startEntry (s : State) (gk : Nat) (e : MxEntry) : Option State :=
  let s := putFmt s gk e.id
  let e := withFmt s gk e
  match e.instr with
  | .setmod _ | .setmodDefault => some (startSetmod s gk e)
  | .setfmt a b d =>
    some (dropEntry (s.modGroup gk fun g => { g with
      fmt := BitVec.ofNat 64 ((Fmt.code a).toNat + (Fmt.code b).toNat * 2 ^ 5 + (Fmt.code d).toNat * 2 ^ 10) }) gk e.id)
  | .mpair p f => startMpair s gk e p f
  | .msolo => some (dropEntry (s.modGroup gk fun g => { g with pair := none }) gk e.id)
  | .mmac _ | .mmact _ | .mmacu _ => startMac s gk e
  | _ => startAlone s gk e false none

/-- The groups of a core in the round-robin order of R255, after the one that started last. -/
def mxGroups (s : State) (c : Nat) : List (Nat × Group) :=
  let gs := sortBy (fun a b => a.2.order ≤ b.2.order) (s.groups.filter fun g => g.2.core = c && g.2.live)
  match (s.core c).lastGroup with
  | some o => (gs.filter fun g => o < g.2.order) ++ gs.filter fun g => g.2.order ≤ o
  | none => gs

/-- MATRIX_ENTRY_START: the next entry of a core starts or takes effect (R255). -/
def execMatrixEntryStart (core : Nat) (s : State) : Host.Outcome State Fault Refusal :=
  let go := (mxGroups s core).findSome? fun g => match mxHead g.2 with
    | some e => if mxReady s g.1 e then (startEntry s g.1 e).map fun t => noteStart t g.1 else none
    | none => none
  .next (go.getD s)

/-! ### Completion (R258, R266) -/

/-- The work of a running batch operation.
DEDUCED, unsafe: log entry 36. -/
def runEntry (s : State) (gk : Nat) (e : MxEntry) : State :=
  match e.instr with
  | .mzero _ a => s.modGroup gk fun g => { g with tiles := NMap.set g.tiles a.val (.zero g.mset) }
  | .mmac f | .mmact f | .mmacu f => runMac s gk e f
  | .mspill _ a _ => runSpill s gk e a.val
  | .mfill _ a _ => runFill s gk e a.val
  | _ => runDrain s gk e

/-- The locks that an entry of a group's queue holds, in every core's table. -/
def entryLocks (s : State) (gk id : Nat) : List Lock := s.cores.flatMap fun k => k.2.locks.filter fun l => l.owner = .matrix gk id

/-- An earlier operation of the queue is running whose accesses come before this one's (R259). -/
def mxBehind (s : State) (gk : Nat) (e : MxEntry) : Bool :=
  (s.group gk).mq.any fun x => x.id < e.id && x.state = .running && (entryLocks s gk x.id).any fun a =>
    (entryLocks s gk e.id).any fun b => a.meets b.space b.lo b.hi && (a.write || b.write)

/-- MATRIX_ENTRY_COMPLETE: a running batch operation completes (R256, R290), after those whose accesses precede its own (R259). -/
def execMatrixEntryComplete (group op : Nat) (s : State) : Host.Outcome State Fault Refusal :=
  match (s.group group).mq.find? fun e => e.id = op && e.state = .running && e.batch.isSome with
  | some e =>
    if mxBehind s group e then .next s
    else
    let s := (runEntry s group e).modEntry group e.id fun e => { e with state := .complete }
    .next (settleSuspend (retainLocks s group op) (s.group group).gang)
  | none => .next s

/-- SETMOD_TAKE_EFFECT: a started SETMOD acts once every started operation of its group has completed (R256, R262). -/
def execSetmodTakeEffect (group : Nat) (s : State) : Host.Outcome State Fault Refusal :=
  let g := s.group group
  match g.mq.find? fun e => e.state = .running && e.batch.isNone with
  | some e =>
    if g.mq.any fun x => x.state = .running && x.batch.isSome then .next s
    else
      let s := (dropEntry s group e.id).modGroup group fun g => { g with mset := e.newSet }
      let s := e.causes.foldl (fun s f => recordCause s group (g.openSeq % 16) f) s
      .next (settleSuspend s g.gang)
  | none => .next s

/-! ### Retirement (R20, R22, R109, R110, R295, R298) -/

/-- An arrival of an MSIG: at an unarmed barrier it only reports cause 129 (R26, R276). -/
def signalAt (s : State) (gk cb n : Nat) : State :=
  let c := (s.group gk).core
  if (s.bar c cb).target = 0 then reportAll s gk { cause := 129, info := BitVec.ofNat 64 cb } else arriveAt s c cb gk n

/-- The row of an MDRAINV goes to its registers (R298), but to a lane of them that an instruction has written since the one value or
the other (R51). -/
def landRow (s : State) (e : MxEntry) : State :=
  match e.instr with
  | .mdrainv _ _ _ _ pair =>
    { s.modWave e.wave fun w => if w.alive then
        e.vrow.zipIdx.foldl (fun w x =>
          if e.clobber.getLsbD x.2 && Config.choose (s.free + x.2) then w
          else (w.setV (2 * pair.val) x.2 (.of x.1.1)).setV (2 * pair.val + 1) x.2 (.of x.1.2)) w
      else w with free := s.free + 32 }
  | _ => s

/-- What one operation of a retiring batch leaves in the group. -/
def retireEntry (s : State) (gk num : Nat) (e : MxEntry) : State :=
  let s := landRow s e
  let s := s.modGroup gk fun g => { g with
    mode := modeOr g.mode e.sticky, ovrcnt := min 65535 (g.ovrcnt + e.ovr), corrcnt := min 65535 (g.corrcnt + e.corr)
    psndr := g.psndr || e.psn, chkf := g.chkf || e.chkf }
  e.causes.foldl (fun s f => recordCause s gk num f) s

/-- The flags of a batch that an exception enable names are reported (R110). -/
def reportFlags (s : State) (gk : Nat) (fl : Sticky) : State :=
  let en := fl &&& modeXen (s.group gk).mode
  if en = 0 then s
  else reportAll s gk { cause := BitVec.ofNat 8 (67 + lowestFlag en), info := BitVec.ofNat 64 fl.toNat }

/-- BATCH_RETIRE: the oldest closed batch of a group retires once its operations have completed (R20, R22). A suspended group
retires none until it is back on a core, where its barriers are (R25, R261). -/
def execBatchRetire (group : Nat) (s : State) : Host.Outcome State Fault Refusal :=
  let g := s.group group
  match g.batches with
  | [] => .next s
  | b :: rest =>
    let mine := g.mq.filter fun e => e.batch = some b.seq
    if mine.any (fun e => e.state ≠ .complete) ∨ s.retains g = false then .next s
    else
      let owned (l : Lock) : Bool := mine.any fun e => l.owner = .matrix group e.id
      let s := s.modGroup group fun g => { g with
        batches := rest, mq := g.mq.filter (fun e => e.batch ≠ some b.seq), retained := g.retained.filter (!owned ·) }
      let s := mine.foldl (fun s e => retireEntry s group (b.seq % 16) e) s
      let s := reportFlags s group (mine.foldl (fun f e => f ||| e.sticky) 0)
      let s := b.sigs.foldl (fun s x => signalAt s group x.1 x.2) s
      .next (settleGroup (clearSpin s group) group)

/-! ### The instructions -/

/-- SETMOD (R262). -/
def execSetmod (xa : Fin 32) (s : State) : Host.Outcome State Fault Refusal :=
  withCtx s fun c => c.enqueue s (.setmod xa) noGuard false (c.sVal xa) 0 0

/-- SETMOD.default (R262). -/
def execSetmodDefault (s : State) : Host.Outcome State Fault Refusal :=
  withCtx s fun c => c.enqueue s .setmodDefault noGuard false 0 0 0

/-- SETFMT (R263). -/
def execSetfmt (af bf df : Fmt) (s : State) : Host.Outcome State Fault Refusal :=
  withCtx s fun c => c.enqueue s (.setfmt af bf df) noGuard false 0 0 0

/-- MZERO (R265). -/
def execMzero (g : Guard) (acc : Fin 8) (s : State) : Host.Outcome State Fault Refusal :=
  withCtx s fun c => c.enqueue s (.mzero g acc) g true 0 0 0

/-- MMAC (R266). -/
def execMmac (f : MacForm) (s : State) : Host.Outcome State Fault Refusal :=
  withCtx s fun c => c.enqueue s (.mmac f) f.g true (c.sVal f.xa) (c.sVal f.xb) 0

/-- MMACT (R266). -/
def execMmact (f : MacForm) (s : State) : Host.Outcome State Fault Refusal :=
  withCtx s fun c => c.enqueue s (.mmact f) f.g true (c.sVal f.xa) (c.sVal f.xb) 0

/-- MMACU (R268). -/
def execMmacu (f : MacForm) (s : State) : Host.Outcome State Fault Refusal :=
  withCtx s fun c => c.enqueue s (.mmacu f) f.g true (c.sVal f.xa) (c.sVal f.xb) (c.sVal f.xc)

/-- MPAIR (R272). -/
def execMpair (partner : Fin 4) (follow : Bool) (s : State) : Host.Outcome State Fault Refusal :=
  withCtx s fun c => c.enqueue s (.mpair partner follow) noGuard false 0 0 0

/-- MSOLO (R272). -/
def execMsolo (s : State) : Host.Outcome State Fault Refusal := withCtx s fun c => c.enqueue s .msolo noGuard false 0 0 0

/-- MBATCH (R19, R20, R275). -/
def execMbatch (sd : Fin 32) (s : State) : Host.Outcome State Fault Refusal :=
  withCtx s fun c =>
    let g := s.group c.w.group
    if 16 ≤ g.batches.length then .next (s.stall c)
    else
      let s := (abortOpen c s c.mask).modWave c.wid fun w => w.setS sd.val (Scalar.of (BitVec.ofNat 64 (g.openSeq % 16)))
      .next ((s.modGroup c.w.group closeBatch).advance c.wid)

/-- The most recently closed batch with a number that is in flight (R21). -/
def flightBatch (g : Group) (b : Nat) : Option Batch := (g.batches.filter fun x => x.seq % 16 = b).getLast?

/-- MWAIT (R21, R275). -/
def execMwait (b : Fin 16) (s : State) : Host.Outcome State Fault Refusal :=
  withCtx s fun c =>
    let t := abortOpen c s c.mask
    match flightBatch (s.group c.w.group) b.val with
    | none => .next (t.advance c.wid)
    | some x =>
      .next ((t.modWave c.wid fun w => { w with
        splits := NMap.modify w.splits c.iss.split fun sp => { sp with pc := c.iss.next, state := .held (.mwait x.seq) } }).advance
          c.wid)

/-- MSIG (R276). -/
def execMsig (b : Fin 16) (cb : Fin 16) (n : BitVec 16) (s : State) : Host.Outcome State Fault Refusal :=
  withCtx s fun c =>
    match valueCheck c s (.msig b cb n) with
    | some t => instrTrap c s t
    | none =>
      let gk := c.w.group
      let t := drainWave (abortOpen c s c.mask) c.wid
      match flightBatch (s.group gk) b.val with
      | some x =>
        .next ((t.modGroup gk fun g => { g with
          batches := g.batches.map fun y => if y.seq = x.seq then { y with sigs := y.sigs ++ [(cb.val, n.toNat)] } else y }).advance
            c.wid)
      | none =>
        if t.owes c.wid allLanes then .next (t.stall c)
        else .next ((signalAt t gk cb.val n.toNat).advance c.wid)

/-- MSPILL (R277). -/
def execMspill (g : Guard) (acc : Fin 8) (xa : Fin 32) (s : State) : Host.Outcome State Fault Refusal :=
  withCtx s fun c => c.enqueue s (.mspill g acc xa) g true (c.sVal xa) 0 0

/-- MFILL (R277). -/
def execMfill (g : Guard) (acc : Fin 8) (xa : Fin 32) (s : State) : Host.Outcome State Fault Refusal :=
  withCtx s fun c => c.enqueue s (.mfill g acc xa) g true (c.sVal xa) 0 0

end Sys2Proof.Machine
end

