-- ==== Sys2Proof/Machine/Sluice.lean ====
section
/-! DEFINITION. The sluice processor (R304 to R316, R329 to R336): its addresses, tensor descriptors, locks and endings, and
its instructions but for those that move data. -/

namespace Sys2Proof.Machine

/-! ### Addresses (R307) -/

/-- A cause of a fault with the address that failed. -/
abbrev SFault := BitVec 8 × Word64

def sluiceVirt (a : Word64) : Bool := bitOf a.toNat 63

/-- The form of a sluice address: its zero bits are zero. -/
def sluiceForm (a : Word64) : Bool := if sluiceVirt a then a.toNat / 2 ^ 48 % 2 ^ 15 = 0 else a.toNat < 2 ^ 21

/-- The gang of the launching group; a sluice node has none. -/
def SluiceCmd.gang (q : SluiceCmd) (s : State) : Option Nat := (q.group.bind s.group?).map (·.gang)

/-- The range stands in its space: in the virtual one, or in the named group's allocation. -/
def sluiceOk (s : State) (q : SluiceCmd) (a : Word64) (n : Nat) : Bool :=
  sluiceForm a &&
    if sluiceVirt a then a.toNat % 2 ^ 48 + n ≤ 2 ^ 48
    else match q.gang s with
      | some g => scratchOk s g a n
      | none => false

/-- The sluice cause of a failed access: 101 for a range, 100 for translation and what else stops it. -/
def sluiceCause (b : Bad) : BitVec 8 := if b.1 = 39 then 101 else 100

/-- Read bytes at a sluice address: through the core's L1, or from the owning scratchpad (R333). -/
def sluiceRead (s : State) (c : Nat) (q : SluiceCmd) (a : Word64) (n : Nat) : State × Except SFault (List Byte) :=
  if !sluiceOk s q a n then (s, .error (101, a))
  else if sluiceVirt a then
    match engineRead s c q.asid (a.toNat % 2 ^ 48) n with
    | (s, .error (b, va)) => (s, .error (sluiceCause b, BitVec.ofNat 64 va))
    | (s, .ok bs) => (s, .ok bs)
  else (s, .ok (scratchRead s ((q.gang s).getD 0) a n))

/-- Write bytes at a sluice address. -/
def sluiceWrite (s : State) (c : Nat) (q : SluiceCmd) (a : Word64) (bs : List Byte) : State × Option SFault :=
  if !sluiceOk s q a bs.length then (s, some (101, a))
  else if sluiceVirt a then
    match engineWrite s c q.asid (a.toNat % 2 ^ 48) bs .group with
    | (s, some (b, va)) => (s, some (sluiceCause b, BitVec.ofNat 64 va))
    | (s, none) => (s, none)
  else (scratchWrite s ((q.gang s).getD 0) a bs, none)

/-! ### Descriptors (R308, R309) -/

def TDesc.bits (t : TDesc) : Nat := Fmt.bits t.fmt

def TDesc.count (t : TDesc) : Nat := t.n0 * t.n1 * t.n2 * t.n3

def TDesc.rows (t : TDesc) : Nat := t.n1 * t.n2 * t.n3

def TDesc.stride (t : TDesc) (k : Nat) : Int := if k = 0 then t.s0 else if k = 1 then t.s1 else if k = 2 then t.s2 else t.s3

/-- A signed number of w bits. -/
def readSigned (w : Nat) (bs : List Byte) : Int := signed w (leNat bs)

/-- A stride or dimension that is negative. -/
def TDesc.backward (t : TDesc) : Bool := t.s0 < 0 || t.s1 < 0 || t.s2 < 0 || t.s3 < 0

/-- The descriptor of a record; none when the record is invalid. -/
def readDesc (bs : List Byte) : Option TDesc :=
  let at_ (i n : Nat) : List Byte := (bs.drop i).take n
  let ctl := leNat (at_ 58 1)
  match Fmt.ofCode (BitVec.ofNat 5 (leNat (at_ 56 1))) with
  | none => none
  | some fmt =>
    let t : TDesc := {
      base := BitVec.ofNat 64 (leNat (at_ 0 8)), n0 := leNat (at_ 8 4), n1 := leNat (at_ 12 4), n2 := leNat (at_ 16 4)
      n3 := leNat (at_ 20 4), s0 := readSigned 64 (at_ 24 8), s1 := readSigned 64 (at_ 32 8), s2 := readSigned 64 (at_ 40 8)
      s3 := readSigned 64 (at_ 48 8), fmt := fmt, scl := readSigned 8 (at_ 57 1), rnd := Rnd.ofCode (BitVec.ofNat 3 ctl)
      sat := bitOf ctl 3 }
    let dims := [t.n0, t.n1, t.n2, t.n3].all fun n => 1 ≤ n && n ≤ 2 ^ 24
    let sub := decide (t.bits < 8)
    let planes := Fmt.isPlane fmt || Fmt.isBlock fmt
    if dims && t.count ≤ 2 ^ 32 && leNat (at_ 56 1) < 32 && ctl < 16 && (at_ 59 5).all (fun b => b = 0) && sluiceForm t.base &&
        (!sub || (t.s0 = 0 && t.n0 % (8 / t.bits) = 0)) &&
        (t.scl = 0 || (Fmt.int? fmt).isSome || Fmt.isPlane fmt) &&
        (!planes || (t.base.toNat % 64 = 0 && t.s0 = 0 && !t.backward)) && (!Fmt.isBlock fmt || t.n0 % 64 = 0)
    then some t else none

/-- Least and greatest offset that a dimension of n steps of this size adds. -/
def spanLo (n : Nat) (st : Int) : Int := min 0 (((n : Int) - 1) * st)
def spanHi (n : Nat) (st : Int) : Int := max 0 (((n : Int) - 1) * st)

/-- The extent: its first byte relative to BASE, and one past its last. -/
def TDesc.lo (t : TDesc) : Int := spanLo t.n0 t.s0 + spanLo t.n1 t.s1 + spanLo t.n2 t.s2 + spanLo t.n3 t.s3

def TDesc.hi (t : TDesc) : Int :=
  spanHi t.n0 t.s0 + spanHi t.n1 t.s1 + spanHi t.n2 t.s2 + spanHi t.n3 t.s3 +
    if t.s0 = 0 then ((t.n0 * t.bits + 7) / 8 : Nat) else (t.bits / 8 : Nat)

/-- P: the extent rounded up to 64 bytes. -/
def TDesc.pitch (t : TDesc) : Nat := up64 (t.hi - t.lo).toNat

/-- Bytes of the full range, of n planes. -/
def TDesc.size (t : TDesc) (n : Nat) : Nat :=
  let e := (t.hi - t.lo).toNat
  if Fmt.isPlane t.fmt then (n - 1) * t.pitch + e
  else if Fmt.isBlock t.fmt then t.pitch + 2 * (t.count / 64)
  else e

/-- BASE's address bits. -/
def TDesc.addrBits (t : TDesc) : Nat := if sluiceVirt t.base then t.base.toNat % 2 ^ 48 else t.base.toNat

/-- The sluice address at an offset from BASE. -/
def TDesc.addr (t : TDesc) (off : Int) : Word64 := t.base + BitVec.ofInt 64 off

/-- A byte range at a sluice address, read or written. -/
structure SRange where
  a : Word64
  n : Nat
  write : Bool
  deriving DecidableEq, Repr

/-- The full range of a descriptor of n planes. -/
def TDesc.range (t : TDesc) (n : Nat) (write : Bool) : SRange := ⟨t.addr t.lo, t.size n, write⟩

/-- The full range fits (R309): no part of it leaves BASE's space. -/
def TDesc.fits (t : TDesc) (s : State) (q : SluiceCmd) (n : Nat) : Bool :=
  0 ≤ (t.addrBits : Int) + t.lo && (t.addrBits : Int) + t.hi ≤ 2 ^ 48 && sluiceOk s q (t.addr t.lo) (t.size n)

/-- Where element e of plane pl lies: its byte's offset from BASE and its bit there. -/
def TDesc.place (t : TDesc) (e pl : Nat) : Int × Nat :=
  let i0 := e % t.n0
  let r := e / t.n0
  let off := ((r % t.n1 : Nat) : Int) * t.s1 + ((r / t.n1 % t.n2 : Nat) : Int) * t.s2 + ((r / t.n1 / t.n2 : Nat) : Int) * t.s3 +
    ((pl * t.pitch : Nat) : Int)
  if t.s0 = 0 then (off + ((i0 * t.bits / 8 : Nat) : Int), i0 * t.bits % 8) else (off + (i0 : Int) * t.s0, 0)

/-- The sluice address of an element; none where it is not naturally aligned. -/
def TDesc.elemAddr (t : TDesc) (e pl : Nat) : Except SFault Word64 :=
  let a := t.addr (t.place e pl).1
  if 8 ≤ t.bits ∧ a.toNat % (t.bits / 8) ≠ 0 then .error (101, a) else .ok a

/-- Bytes that an element's access covers. -/
def TDesc.elemBytes (t : TDesc) : Nat := (t.bits + 7) / 8

/-- Read the bits of one element. -/
def readElem (s : State) (c : Nat) (q : SluiceCmd) (t : TDesc) (e pl : Nat) : State × Except SFault Nat :=
  match t.elemAddr e pl with
  | .error f => (s, .error f)
  | .ok a =>
    match sluiceRead s c q a t.elemBytes with
    | (s, .error f) => (s, .error f)
    | (s, .ok bs) => (s, .ok (leNat bs / 2 ^ (t.place e pl).2 % 2 ^ t.bits))

/-- Write the bits of one element; its neighbours in a byte stay. -/
def writeElem (s : State) (c : Nat) (q : SluiceCmd) (t : TDesc) (e pl x : Nat) : State × Option SFault :=
  match t.elemAddr e pl with
  | .error f => (s, some f)
  | .ok a =>
    if 8 ≤ t.bits then sluiceWrite s c q a (leBytes x t.elemBytes)
    else
      match sluiceRead s c q a 1 with
      | (s, .error f) => (s, some f)
      | (s, .ok bs) =>
        let sh := 2 ^ (t.place e pl).2
        let old := leNat bs
        let was := old / sh % 2 ^ t.bits
        sluiceWrite s c q a (leBytes (old - was * sh + x % 2 ^ t.bits * sh) 1)

/-! ### Locks (R332) and pending DECOs (R323) -/

/-- The lock entry of a range, with the core whose table takes it (R257). -/
def SRange.lock (r : SRange) (s : State) (c : Nat) (q : SluiceCmd) (o : LockOwner) : Nat × Lock :=
  if sluiceVirt r.a then (c, Lock.of (.virt q.asid) (r.a.toNat % 2 ^ 48) r.n r.write o)
  else
    match (q.gang s).bind fun g => scratchTarget s g r.a with
    | some (gr, off) => ((s.group gr).core, Lock.of (.scratch gr) off r.n r.write o)
    | none => (c, Lock.of (.virt q.asid) 0 0 r.write o)

/-- Two ranges share a byte. -/
def SRange.overlaps (a b : SRange) : Bool := a.a.toNat < b.a.toNat + b.n && b.a.toNat < a.a.toNat + a.n

/-- A range meets the destination of a pending DECO. -/
def meetsDeco (s : State) (c cmd : Nat) (rs : List SRange) : Bool :=
  (s.pendingDecos c cmd).any fun b => rs.any fun r => r.overlaps (b.td.range 1 true)

/-- Entries that a command holds, in every table. -/
def cmdLocks (s : State) (cmd : Nat) : Nat :=
  s.cores.foldl (fun n k => n + (k.2.locks.filter fun l => l.owner.ofCmd cmd).length) 0

/-! ### The running program -/

def State.modProg (s : State) (c : Nat) (f : SluiceProg → SluiceProg) : State :=
  s.modCore c fun k => { k with sluice := k.sluice.map f }

/-- The program of a core may not go on: its gang is being suspended (R341). -/
def progHeld (s : State) (p : SluiceProg) : Bool := ((p.cmd.gang s).bind s.gang?).elim false (·.suspendReq)

/-- Run a sluice instruction's meaning; without a program none runs.
DESIGN CHOICE, safe: log entry 52. -/
def withProg (s : State) (f : Nat → SluiceProg → Host.Outcome State Fault Refusal) : Host.Outcome State Fault Refusal :=
  match (s.core s.cur.1).sluice with
  | some p => f s.cur.1 p
  | none => .fault .noProgram

/-- x0 reads 0 (R304). -/
def SluiceProg.xAt (p : SluiceProg) (n : Fin 16) : Word64 := if n.val = 0 then 0 else NMap.getD p.x n.val 0

/-- A write of x0 has no effect (R76). -/
def SluiceProg.setX (p : SluiceProg) (n : Fin 16) (v : Word64) : SluiceProg :=
  if n.val = 0 then p else { p with x := NMap.set p.x n.val v }

/-- The program goes on at an index. -/
def SluiceProg.goto (p : SluiceProg) (n : Nat) : SluiceProg := { p with spc := n, wait := .none }

def SluiceProg.next (p : SluiceProg) : SluiceProg := p.goto (p.spc + 1)

/-- ICNT of the image. -/
def SluiceProg.icnt (p : SluiceProg) : Nat := p.words.length - 1

/-- The instruction at an index of the image, if it is one. -/
def SluiceProg.instr? (p : SluiceProg) (n : Nat) : Option Instr := (p.words[n]?).bind decodeSluice

/-- The instruction waits: it is tried again. -/
def progWait (s : State) (c : Nat) (w : SluiceWait) : State := s.modProg c fun p => { p with wait := w }

/-- Raise sticky bits into the program's record. -/
def SluiceProg.raise (p : SluiceProg) (fl : Sticky) : SluiceProg := { p with sticky := p.sticky ||| fl }

/-- Record a data cause: the first one counts (R336). -/
def SluiceProg.note (p : SluiceProg) (cause : BitVec 8) (a : Word64) : SluiceProg :=
  { p with dataCause := p.dataCause <|> some (cause, a) }

/-! ### Endings (R314, R335, R339, R351) -/

/-- Discard the blocks of a command that are not complete. -/
def discardDecos (s : State) (c cmd : Nat) : State :=
  s.modCluster (clusterOf c) fun k => { k with
    decoQ := NMap.modify k.decoQ (c % 4) fun q => q.filter fun b => b.cmd ≠ cmd
    decoNow := if (k.decoNow.map fun b => decide (b.cmd = cmd)).getD false then none else k.decoNow }

/-- The TINFO word of a sluice cause (R429). -/
def sluiceInfo (spc : Nat) (tok : Fin 32) : Word64 := BitVec.ofNat 64 (spc % 2 ^ 10 + tok.val * 2 ^ 10)

/-- A program ends with a cause, 0 at HALT: its locks go, its sticky record reaches MODE, its token or its node its status,
and its causes the launching wave's EFENCE. -/
def finishProgram (s : State) (c : Nat) (p : SluiceProg) (cause : BitVec 8) (a : Word64) (spc : Nat) : State :=
  let q := p.cmd
  let s := dropCmdLocks (discardDecos s c q.id) q.id
  let s := match q.group with
    | some gk => s.modGroup gk fun g => { g with mode := modeOr g.mode p.sticky }
    | none => s
  let data : BitVec 8 := match p.dataCause with
    | some (k, _) => k
    | none => 0
  let status := (if cause = 0 then data else cause).toNat
  let s := match q.node with
    | some n => s.modNode n fun nd => { nd with
        st := .completing, status := (if nd.status = 0 then status else nd.status) + p.sticky.toNat * 2 ^ 8 }
    | none => s
  let s := match q.wave with
    | some w =>
      let s := if p.signalled then s else setToken s w q.token.val status
      let s := match p.dataCause with
        | some (k, da) => addFault s w { cause := k, addr := da }
        | none => s
      let s := (q.group.map fun gk => reportFlags s gk p.sticky).getD s
      if cause = 0 ∨ cause = 109 then s else addFault s w { cause := cause, addr := a, info := sluiceInfo spc q.token }
    | none => s
  (q.group.map fun gk => settleSuspend (settleGroup s gk) (s.group gk).gang).getD s

/-- The running program of a core ends. -/
def endProgram (s : State) (c : Nat) (cause : BitVec 8) (a : Word64) (spc : Nat) : State :=
  match (s.core c).sluice with
  | some p => finishProgram (s.modCore c fun k => { k with sluice := none }) c p cause a spc
  | none => s

/-- The instruction in hand faults. -/
def sluiceFault (s : State) (c : Nat) (p : SluiceProg) (cause : BitVec 8) (a : Word64) : Host.Outcome State Fault Refusal :=
  .next (endProgram s c cause a p.spc)

/-! ### Arithmetic, branches and loops (R311 to R313) -/

def imm14 (i : BitVec 14) : Int := i.toInt

/-- An instruction that writes xd and goes on. -/
def writeX (s : State) (d : Fin 16) (f : SluiceProg → Word64) : Host.Outcome State Fault Refusal :=
  withProg s fun c _ => .next (s.modProg c fun p => (p.setX d (f p)).next)

/-- LI (R311). -/
def execSLi (d : Fin 16) (i : BitVec 14) (s : State) : Host.Outcome State Fault Refusal :=
  writeX s d fun _ => BitVec.ofInt 64 (imm14 i)

/-- ADD (R311). -/
def execSAdd (d a b : Fin 16) (s : State) : Host.Outcome State Fault Refusal := writeX s d fun p => p.xAt a + p.xAt b

/-- ADDI (R311). -/
def execSAddi (d a : Fin 16) (i : BitVec 14) (s : State) : Host.Outcome State Fault Refusal :=
  writeX s d fun p => p.xAt a + BitVec.ofInt 64 (imm14 i)

/-- SUB (R311). -/
def execSSub (d a b : Fin 16) (s : State) : Host.Outcome State Fault Refusal := writeX s d fun p => p.xAt a - p.xAt b

/-- MUL (R311). -/
def execSMul (d a b : Fin 16) (s : State) : Host.Outcome State Fault Refusal := writeX s d fun p => p.xAt a * p.xAt b

/-- AND (R311). -/
def execSAnd (d a b : Fin 16) (s : State) : Host.Outcome State Fault Refusal := writeX s d fun p => p.xAt a &&& p.xAt b

/-- OR (R311). -/
def execSOr (d a b : Fin 16) (s : State) : Host.Outcome State Fault Refusal := writeX s d fun p => p.xAt a ||| p.xAt b

/-- SHL (R311). -/
def execSShl (d a b : Fin 16) (s : State) : Host.Outcome State Fault Refusal :=
  writeX s d fun p => p.xAt a <<< ((p.xAt b).toNat % 64)

/-- SHR (R311). -/
def execSShr (d a b : Fin 16) (s : State) : Host.Outcome State Fault Refusal :=
  writeX s d fun p => p.xAt a >>> ((p.xAt b).toNat % 64)

/-- MIN (R311). -/
def execSMin (d a b : Fin 16) (s : State) : Host.Outcome State Fault Refusal :=
  writeX s d fun p => if (p.xAt a).toInt ≤ (p.xAt b).toInt then p.xAt a else p.xAt b

/-- MAX (R311). -/
def execSMax (d a b : Fin 16) (s : State) : Host.Outcome State Fault Refusal :=
  writeX s d fun p => if (p.xAt a).toInt ≤ (p.xAt b).toInt then p.xAt b else p.xAt a

/-- Pop the loops whose body does not contain an index, innermost first. -/
def leaveLoops (t : Nat) : List SLoop → List SLoop
  | [] => []
  | l :: ls => if l.start ≤ t ∧ t ≤ l.stop then l :: ls else leaveLoops t ls

/-- Branch when the condition holds (R312). -/
def sluiceBranch (s : State) (i : BitVec 14) (cond : SluiceProg → Bool) : Host.Outcome State Fault Refusal :=
  withProg s fun c p =>
    let t : Int := (p.spc : Int) + imm14 i
    if !cond p then .next (s.modProg c SluiceProg.next)
    else if t < 0 ∨ (p.icnt : Int) < t then sluiceFault s c p 97 0
    else .next (s.modProg c fun p => { p with loops := leaveLoops t.toNat p.loops, spc := t.toNat, wait := .none })

/-- BEQ (R312). -/
def execSBeq (a b : Fin 16) (i : BitVec 14) (s : State) : Host.Outcome State Fault Refusal :=
  sluiceBranch s i fun p => p.xAt a = p.xAt b

/-- BNE (R312). -/
def execSBne (a b : Fin 16) (i : BitVec 14) (s : State) : Host.Outcome State Fault Refusal :=
  sluiceBranch s i fun p => p.xAt a ≠ p.xAt b

/-- BLT (R312). -/
def execSBlt (a b : Fin 16) (i : BitVec 14) (s : State) : Host.Outcome State Fault Refusal :=
  sluiceBranch s i fun p => (p.xAt a).toInt < (p.xAt b).toInt

/-- BGE (R312). -/
def execSBge (a b : Fin 16) (i : BitVec 14) (s : State) : Host.Outcome State Fault Refusal :=
  sluiceBranch s i fun p => (p.xAt b).toInt ≤ (p.xAt a).toInt

/-- JMP (R312). -/
def execSJmp (i : BitVec 14) (s : State) : Host.Outcome State Fault Refusal := sluiceBranch s i fun _ => true

/-- The loop stack's top does not contain a loop that ends at t. -/
def badNest (ls : List SLoop) (t : Nat) : Bool :=
  match ls with
  | l :: _ => l.stop < t
  | [] => false

/-- LOOP (R313). -/
def execSLoop (a : Fin 16) (n : BitVec 14) (s : State) : Host.Outcome State Fault Refusal :=
  withProg s fun c p =>
    let cnt := (p.xAt a).toNat
    let t := p.spc + n.toNat
    if p.icnt < t ∨ p.instr? t ≠ some .sEndl then sluiceFault s c p 97 0
    else if badNest p.loops t then sluiceFault s c p 98 0
    else if cnt = 0 then .next (s.modProg c fun p => p.goto (t + 1))
    else if 4 ≤ p.loops.length then sluiceFault s c p 98 0
    else .next (s.modProg c fun p => { p.next with loops := { start := p.spc + 1, stop := t, count := cnt } :: p.loops })

/-- ENDL (R313). -/
def execSEndl (s : State) : Host.Outcome State Fault Refusal :=
  withProg s fun c p =>
    match p.loops with
    | [] => sluiceFault s c p 98 0
    | l :: ls =>
      if p.spc ≠ l.stop then sluiceFault s c p 98 0
      else if 0 < l.count - 1 then
        .next (s.modProg c fun p => { p.goto l.start with loops := { l with count := l.count - 1 } :: ls })
      else .next (s.modProg c fun p => { p.next with loops := ls })

/-- HALT (R314). -/
def execSHalt (s : State) : Host.Outcome State Fault Refusal :=
  withProg s fun c p =>
    if s.pendingDecos c p.cmd.id ≠ [] then .next (progWait s c .deco) else .next (endProgram s c 0 0 p.spc)

/-! ### Loads and descriptors (R315, R316) -/

/-- Read at a sluice address that must be a multiple of 8, after the DECOs that write there. -/
def sluiceLoad (s : State) (c : Nat) (p : SluiceProg) (a : Word64) (n : Nat)
    (f : State → List Byte → Host.Outcome State Fault Refusal) : Host.Outcome State Fault Refusal :=
  if a.toNat % 8 ≠ 0 then sluiceFault s c p 101 a
  else if meetsDeco s c p.cmd.id [⟨a, n, false⟩] then .next (progWait s c .deco)
  else
    match sluiceRead s c p.cmd a n with
    | (s, .error (k, fa)) => sluiceFault s c p k fa
    | (s, .ok bs) => f s bs

/-- LDX (R315). -/
def execSLdx (d a : Fin 16) (i : BitVec 14) (s : State) : Host.Outcome State Fault Refusal :=
  withProg s fun c p =>
    sluiceLoad s c p (p.xAt a + BitVec.ofInt 64 (8 * imm14 i)) 8 fun s bs =>
      .next (s.modProg c fun p => (p.setX d (BitVec.ofNat 64 (leNat bs))).next)

/-- TDESC (R316). -/
def execSTdesc (d : Fin 8) (a : Fin 16) (s : State) : Host.Outcome State Fault Refusal :=
  withProg s fun c p =>
    sluiceLoad s c p (p.xAt a) 64 fun s bs =>
      match readDesc bs with
      | none => sluiceFault s c p 102 (p.xAt a)
      | some t => .next (s.modProg c fun p => { p.next with td := NMap.set p.td d.val t })

/-- An instruction that uses a loaded descriptor (R316). -/
def withTd (s : State) (c : Nat) (p : SluiceProg) (n : Fin 8) (f : TDesc → Host.Outcome State Fault Refusal) :
    Host.Outcome State Fault Refusal :=
  match NMap.get? p.td n.val with
  | some t => f t
  | none => sluiceFault s c p 102 0

/-- The step of TSTEP in bytes; none where it is no whole number of them. -/
def TDesc.step (t : TDesc) (x : Int) (k : Nat) : Option Int :=
  if k = 0 ∧ t.s0 = 0 then if x * t.bits % 8 = 0 then some (x * t.bits / 8) else none else some (x * t.stride k)

/-- TSTEP (R316). -/
def execSTstep (d : Fin 8) (a : Fin 16) (k : Fin 4) (s : State) : Host.Outcome State Fault Refusal :=
  withProg s fun c p =>
    withTd s c p d fun t =>
      match t.step (p.xAt a).toInt k.val with
      | none => sluiceFault s c p 101 t.base
      | some st =>
        let b : Int := (t.addrBits : Int) + st
        if b < 0 ∨ (if sluiceVirt t.base then 2 ^ 48 else 2 ^ 21) ≤ b then sluiceFault s c p 101 t.base
        else .next (s.modProg c fun p => { p.next with td := NMap.set p.td d.val { t with base := t.addr st } })

/-- TADDR (R316). -/
def execSTaddr (d : Fin 16) (a : Fin 8) (s : State) : Host.Outcome State Fault Refusal :=
  withProg s fun c p => withTd s c p a fun t => .next (s.modProg c fun p => (p.setX d t.base).next)

/-! ### Synchronisation (R329 to R331) -/

/-- ARRIVE (R329). -/
def execSArrive (a : Fin 16) (cb : Fin 16) (s : State) : Host.Outcome State Fault Refusal :=
  withProg s fun c p =>
    let n := if a.val = 0 then 1 else (p.xAt a).toNat
    if s.pendingDecos c p.cmd.id ≠ [] then .next (progWait s c .deco)
    else
      match p.cmd.group with
      | none => sluiceFault s c p 103 0
      | some gk =>
        let b := s.bar c cb.val
        if n = 0 ∨ 65535 < n ∨ !barGranted s c cb.val gk ∨ b.target = 0 then sluiceFault s c p 103 0
        else .next (arriveAt (s.modProg c fun p => { p.next with tickets := NMap.set p.tickets cb.val b.gen }) c cb.val gk n)

/-- WAITB (R329). -/
def execSWaitb (cb : Fin 16) (s : State) : Host.Outcome State Fault Refusal :=
  withProg s fun c p =>
    if (p.cmd.group.map fun gk => barGranted s c cb.val gk) ≠ some true then sluiceFault s c p 103 0
    else
      let gen := (NMap.get? p.tickets cb.val).getD (s.bar c cb.val).gen
      .next (s.modProg c fun p => { p with tickets := NMap.erase p.tickets cb.val, wait := .barrier cb.val gen })

/-- SIGNAL (R330). -/
def execSSignal (a : Fin 16) (s : State) : Host.Outcome State Fault Refusal :=
  withProg s fun c p =>
    if s.pendingDecos c p.cmd.id ≠ [] then .next (progWait s c .deco)
    else
      match p.cmd.wave with
      | none => sluiceFault s c p 104 0
      | some w =>
        if p.xAt a ≠ 0 ∨ p.signalled then sluiceFault s c p 104 0
        else .next (setToken (s.modProg c fun p => { p.next with signalled := true }) w p.cmd.token.val 0)

/-- TICKW (R331). -/
def execSTickw (a : Fin 16) (s : State) : Host.Outcome State Fault Refusal :=
  withProg s fun c p =>
    if (p.xAt a).toNat ≤ s.tick.toNat then .next (s.modProg c SluiceProg.next) else .next (progWait s c (.tick (p.xAt a)))

/-- TICKW_EXPIRE: the tick counter has reached a TICKW's operand (R331). -/
def execTickwExpire (core : Nat) (s : State) : Host.Outcome State Fault Refusal :=
  match (s.core core).sluice with
  | some p =>
    match p.wait with
    | .tick t => if t.toNat ≤ s.tick.toNat ∧ !progHeld s p then .next (s.modProg core SluiceProg.next) else .next s
    | _ => .next s
  | none => .next s

/-! ### Starting, loading and stopping (R305, R306, R339, R341) -/

/-- A command at the head of its queue may start: its guard is resolved, its tick has passed, its wave's earlier accesses are
performed (R231), its gang stays. -/
def cmdReady (s : State) (q : SluiceCmd) : Bool :=
  q.guard.isNone && (match q.tick with | some t => t.toNat ≤ s.tick.toNat | none => true) &&
    (q.wave.map fun w => waveClear s w q.after).getD true &&
    !((q.gang s).bind s.gang?).elim false (·.suspendReq)

/-- A new program (R304). -/
def newProgram (q : SluiceCmd) : SluiceProg :=
  { cmd := q, x := q.args.zipIdx.foldl (fun m x => NMap.set m (x.2 + 1) x.1) [] }

/-- SLUICE_PROGRAM_START: an idle sluice takes the command at the head of its queue (R305), or goes on with a program that
a suspension had stopped (R341). -/
def execSluiceProgramStart (core : Nat) (s : State) : Host.Outcome State Fault Refusal :=
  let k := s.core core
  match k.sluice, k.sluiceQ with
  | none, q :: rest =>
    if !cmdReady s q then .next s
    else
      let saved := (q.group.bind s.group?).bind (·.savedProg)
      match saved.filter fun p => p.cmd.id = q.id with
      | some p =>
        let s := (q.group.map fun gk => s.modGroup gk fun g => { g with savedProg := none }).getD s
        .next (s.setCore core { k with sluiceQ := rest, sluice := some p })
      | none => .next (s.setCore core { k with sluiceQ := rest, sluice := some (newProgram q) })
  | _, _ => .next s

/-- SLUICE_IMAGE_LOADED: the image is in the instruction buffer (R306), or its load faults with cause 99. -/
def execSluiceImageLoaded (core : Nat) (s : State) : Host.Outcome State Fault Refusal :=
  match (s.core core).sluice with
  | some p =>
    if p.loaded ∨ p.stop ∨ progHeld s p then .next s
    else
      let n := p.cmd.image.toNat / 2 ^ 48 % 2 ^ 10 + 1
      match engineRead s core p.cmd.asid (p.cmd.image.toNat % 2 ^ 48) (4 * n) with
      | (s, .error (_, va)) => .next (endProgram s core 99 (BitVec.ofNat 64 va) 0)
      | (s, .ok bs) =>
        .next (s.modProg core fun p => { p with
          loaded := true, resumed := false, words := (chunksOf 4 n bs).map (BitVec.ofNat 32) })
  | none => .next s

/-- SLUICE_STOP_EFFECT: a program that SSTOP has ended stops at its boundary (R339). -/
def execSluiceStopEffect (core : Nat) (s : State) : Host.Outcome State Fault Refusal :=
  match (s.core core).sluice with
  | some p => if p.stop ∧ p.atBoundary then .next (endProgram s core 109 0 p.spc) else .next s
  | none => .next s

/-- ILLEGAL_SLUICE_INSTRUCTION: the word that is next is no sluice instruction (R78). -/
def execIllegalSluiceInstruction (core : Nat) (s : State) : Host.Outcome State Fault Refusal :=
  match (s.core core).sluice with
  | some p =>
    if p.loaded ∧ !p.resumed ∧ p.xfer.isNone ∧ !p.stop ∧ !progHeld s p ∧ p.spc < p.words.length ∧ (p.instr? p.spc).isNone then
      .next (endProgram s core 96 0 p.spc)
    else .next s
  | none => .next s

end Sys2Proof.Machine
end

