-- ==== Sys2Proof/Machine/SluiceData.lean ====
section
/-! DEFINITION. The sluice instructions that move data (R317 to R322, R328): MOVE, GATHER, CONV and TOPK. Each takes its locks
at its start; its elements then move one at a time. -/

namespace Sys2Proof.Machine

/-! ### Values (R320) -/

/-- An exact integer with a power of two as a float value. -/
def intFV (x k : Int) : FV := .fin (decide (x < 0)) x.natAbs k

/-- A finite value times a power of two. -/
def FV.scale (v : FV) (k : Int) : FV :=
  match v with
  | .fin n m e => .fin n m (e + k)
  | v => v

def FV.finite : FV → Bool
  | .fin .. => true
  | _ => false

/-- `Round` of a value to an integer: 0 for what is no number. -/
def FV.toInt (r : RMode) (v : FV) : Int × Sticky := roundInt r v.pre

/-- The value of a stored element that is neither block-scaled nor a residue, with its flags. -/
def TDesc.value (t : TDesc) (ftz : Bool) (x : Nat) : FV × Sticky :=
  match Fmt.float? t.fmt with
  | some f =>
    let v := f.read ftz x
    (v, sigFlag [v])
  | none =>
    if t.fmt = .ternary then (intFV (ternaryOf x) 0, if x = 2 then fTBAD else 0) else (intFV (Fmt.value t.fmt x) (-t.scl), 0)

/-- What a destination that is no block and no residue receives for a value (R320). An integer destination raises NV for a value
out of its range where the source is no integer (R96).
DEDUCED, unsafe: log entry 41. -/
def TDesc.put (t : TDesc) (nv : Bool) (r : RMode) (v : FV) : Nat × Sticky :=
  match Fmt.int? t.fmt, Fmt.float? t.fmt with
  | some (w, sg), _ =>
    if v.finite then
      let y := (v.scale t.scl).toInt r
      let z := intToInt w sg t.sat y.1
      (wrapTo w z.1, y.2 ||| z.2 ||| if nv ∧ (y.1 < rangeLo w sg ∨ rangeHi w sg < y.1) then fNV else 0)
    else
      let y := floatToInt w sg t.sat r v
      (wrapTo w y.1, y.2)
  | none, some f => f.convert r t.sat v.pre
  | none, none =>
    match v with
    | .nan _ => (0, fNV)
    | .inf n => (if n then 3 else 1, fNV ||| fSAT)
    | v =>
      let y := v.toInt r
      let z := max (-1) (min 1 y.1)
      (wrapTo 2 z, y.2 ||| if z = y.1 then 0 else fSAT)

/-- The INT16 a residue-plane destination receives for a finite value (R287). -/
def TDesc.putResidue (t : TDesc) (r : RMode) (v : FV) : Int × Sticky :=
  let y := (v.scale t.scl).toInt r
  let z := intToInt 16 true t.sat y.1
  (z.1, y.2 ||| z.2)

/-- A block of values quantised (R286, R321): its scale word, its mantissas and its flags. -/
def quantBlock (f : Fmt) (sat : Bool) (r : RMode) (vs : List FV) : Nat × List Int × Sticky :=
  let q : Nat := if f = .bs16 then 32767 else 127
  let ds := vs.map fun v => (v.dyadic.v, v.dyadic.e + Fmt.blockBias f)
  let mant (se : Nat) : List (Int × Sticky) := ds.map fun d => roundInt r (scaledPre d.1 (d.2 - se))
  match (List.range 255).find? fun (se : Nat) => ds.all fun d => magLe d.1 (d.2 - se) q with
  | some se =>
    let ms := mant se
    (se, ms.map (·.1), ms.foldl (fun fl m => fl ||| m.2) 0)
  | none =>
    if sat then
      let ms := mant 254
      (254, ms.map fun m => max (-(q : Int)) (min (q : Int) m.1), ms.foldl (fun fl m => fl ||| m.2) fSAT)
    else (2 ^ 15, vs.map fun _ => 0, fOF)

/-! ### Moving elements -/

/-- The program in the midst of a data instruction, and how it fares. -/
abbrev Moved := State × Option SFault

/-- The rounding of a descriptor (R319). -/
def TDesc.rmode (t : TDesc) (q : SluiceCmd) : RMode := { rnd := if t.rnd = .dyn then q.rnd.val else t.rnd.code.toNat, ftz := q.ftz }

/-- Copy one element plane by plane, a residue checked as it is read (R93, R317); without a source it is zero (R318). -/
def copyElem (s : State) (c : Nat) (q : SluiceCmd) (td ts : TDesc) (de : Nat) (se : Option Nat) (x : Xfer) : Moved :=
  x.mset.zipIdx.foldl (fun r m =>
    match r with
    | (s, some f) => (s, some f)
    | (s, none) =>
      match se with
      | none => writeElem s c q td de m.2 0
      | some se =>
        match readElem s c q ts se m.2 with
        | (s, .error f) => (s, some f)
        | (s, .ok v) =>
          if m.1.2 ≠ 0 ∧ m.1.2 ≤ v then
            let s := s.modProg c fun p => p.note 78 (ts.addr (ts.place se m.2).1)
            writeElem s c q td de m.2 0
          else writeElem s c q td de m.2 v) (s, none)

/-- The source value of a CONV with whether its block is poisoned (R320, R322). -/
def convSource (s : State) (c : Nat) (q : SluiceCmd) (t : TDesc) (e : Nat) : State × Except SFault (FV × Bool) :=
  match readElem s c q t e 0 with
  | (s, .error f) => (s, .error f)
  | (s, .ok x) =>
    if Fmt.isBlock t.fmt then
      let wa := t.addr (t.pitch + 2 * (e / 64) : Nat)
      match sluiceRead s c q wa 2 with
      | (s, .error f) => (s, .error f)
      | (s, .ok bs) =>
        let w := leNat bs
        if scalePoisoned w then (s.modProg c fun p => (p.note 81 wa).raise fPOIS, .ok (intFV 0 0, true))
        else (s, .ok (intFV (Fmt.value t.fmt x) ((w % 256 : Nat) - Fmt.blockBias t.fmt), false))
    else
      let v := t.value q.ftz x
      (s.modProg c fun p => p.raise v.2, .ok (v.1, false))

/-- The source address of an element, for a data cause. -/
def TDesc.at_ (t : TDesc) (e : Nat) : Word64 := t.addr (t.place e 0).1

/-- A source value that is no number meets a destination that cannot hold it (R322). -/
def noteNonFinite (s : State) (c : Nat) (ts : TDesc) (e : Nat) (v : FV) : State :=
  if v.finite then s else s.modProg c fun p => (p.note 80 (ts.at_ e)).raise fPOIS

/-- Convert one element to a destination that is no block. -/
def convElem (s : State) (c : Nat) (q : SluiceCmd) (td ts : TDesc) (e : Nat) (x : Xfer) : Moved :=
  match convSource s c q ts e with
  | (s, .error f) => (s, some f)
  | (s, .ok (v, _)) =>
    if Fmt.isPlane td.fmt then
      let s := noteNonFinite s c ts e v
      let y : Int × Sticky := if v.finite then td.putResidue (td.rmode q) v else (0, 0)
      x.mset.zipIdx.foldl (fun r m =>
        match r with
        | (s, some f) => (s, some f)
        | (s, none) => writeElem s c q td e m.2 (res y.1 m.1.2)) (s.modProg c fun p => p.raise y.2, none)
    else
      let y := td.put (Fmt.int? ts.fmt).isNone (td.rmode q) v
      writeElem (s.modProg c fun p => p.raise y.2) c q td e 0 y.1

/-- Keep what a data instruction has read ahead of its writes. -/
def keepList (s : State) (c : Nat) (l : List Nat) : State :=
  s.modProg c fun p => { p with xfer := p.xfer.map fun x => { x with list := l } }

/-- Read and quantise one block of 64 elements (R321, R322): its scale word and its mantissas, as they are to be written. -/
def quantise (s : State) (c : Nat) (q : SluiceCmd) (td ts : TDesc) (blk : Nat) : State × Except SFault (List Nat) :=
  let es := (List.range 64).map fun i => 64 * blk + i
  let got : State × Except SFault (List FV × Bool) := es.foldl (fun r e =>
    match r with
    | (s, .error f) => (s, .error f)
    | (s, .ok (vs, bad)) =>
      match convSource s c q ts e with
      | (s, .error f) => (s, .error f)
      | (s, .ok (v, p)) => (noteNonFinite s c ts e v, .ok (vs ++ [v], bad || p || !v.finite))) (s, .ok ([], false))
  match got with
  | (s, .error f) => (s, .error f)
  | (s, .ok (vs, bad)) =>
    let b := if bad then (2 ^ 15, vs.map fun _ => 0, 0) else quantBlock td.fmt td.sat (td.rmode q) vs
    (s.modProg c fun p => p.raise b.2.2, .ok (b.1 :: b.2.1.map (wrapTo td.bits)))

/-- The address of a scale word (R309). -/
def TDesc.scaleAddr (t : TDesc) (blk : Nat) : Word64 := t.addr (t.pitch + 2 * blk : Nat)

/-- One unit of a CONV to a block-scaled destination: 65 to a block, of which the first reads and quantises it, the first 64
write a mantissa each and the last its scale word. -/
def convUnit (s : State) (c : Nat) (q : SluiceCmd) (td ts : TDesc) (x : Xfer) : Moved :=
  let blk := x.done / 65
  let i := x.done % 65
  let got := if i = 0 then quantise s c q td ts blk else (s, .ok x.list)
  match got with
  | (s, .error f) => (s, some f)
  | (s, .ok l) =>
    let s := keepList s c l
    if i < 64 then writeElem s c q td (64 * blk + i) 0 (l.getD (i + 1) 0)
    else sluiceWrite s c q (td.scaleAddr blk) (leBytes (l.getD 0 0) 2)

/-! ### Top-k (R328) -/

/-- a ranks at or before b: larger magnitude first, a NaN above every number. -/
def rankBefore (a b : FV) : Bool :=
  match a, b with
  | .nan _, _ => true
  | _, .nan _ => false
  | .inf _, _ => true
  | _, .inf _ => false
  | .fin _ m e, .fin _ m' e' =>
    let lo := min e e'
    m' * 2 ^ (e' - lo).toNat ≤ m * 2 ^ (e - lo).toNat

/-- The upper half of a pair: the value as FP32, or as INT32. -/
def pairValue (t : TDesc) (v : FV) (x : Nat) : Nat :=
  if (Fmt.float? t.fmt).isSome then (fp32.convert { rnd := 1 } false v.pre).1 else wrapTo 32 (Fmt.value t.fmt x)

/-- A residual after an element that is not kept has been added. -/
def addResidual (t : TDesc) (r : RMode) (old x : Nat) : Nat × Sticky :=
  match Fmt.float? t.fmt with
  | some f =>
    let p := fAddPre r (fp32.read r.ftz old) (f.read r.ftz x)
    let y := fp32.round r p.1
    (y.1, p.2 ||| y.2)
  | none =>
    let z := intToInt 32 true t.sat (signed 32 old + Fmt.value t.fmt x)
    (wrapTo 32 z.1, z.2)

/-- The elements of a row as read. -/
def readRow (s : State) (c : Nat) (q : SluiceCmd) (t : TDesc) (r : Nat) : State × Except SFault (List Nat) :=
  (List.range t.n0).foldl (fun a i =>
    match a with
    | (s, .error f) => (s, .error f)
    | (s, .ok xs) =>
      match readElem s c q t (r * t.n0 + i) 0 with
      | (s, .error f) => (s, .error f)
      | (s, .ok x) => (s, .ok (xs ++ [x]))) (s, .ok [])

/-- The elements of a row with their positions, ranked. -/
def TDesc.ranked (t : TDesc) (xs : List Nat) : List (Nat × Nat) :=
  sortBy (fun a b : Nat × Nat => rankBefore (t.value false a.1).1 (t.value false b.1).1) xs.zipIdx

/-- The address of a residual. -/
def residAddr (resid : Word64) (e : Nat) : Word64 := resid + BitVec.ofNat 64 (4 * e)

/-- Add an element that is not kept to its residual. -/
def putResidual (s : State) (c : Nat) (q : SluiceCmd) (ts : TDesc) (ra : Word64) (x : Nat) : Moved :=
  match sluiceRead s c q ra 4 with
  | (s, .error f) => (s, some f)
  | (s, .ok bs) =>
    let y := addResidual ts (ts.rmode q) (leNat bs) x
    sluiceWrite (s.modProg c fun p => p.raise y.2) c q ra (leBytes y.1 4)

/-- One unit of a TOPK: to a row, one for each pair and then one for each element, of which the first reads the row. -/
def topkUnit (s : State) (c : Nat) (q : SluiceCmd) (td ts : TDesc) (resid : Word64) (k : Nat) (x : Xfer) : Moved :=
  let r := x.done / (k + ts.n0)
  let i := x.done % (k + ts.n0)
  let got := if i = 0 then readRow s c q ts r else (s, .ok x.list)
  match got with
  | (s, .error f) => (s, some f)
  | (s, .ok xs) =>
    let s := keepList s c xs
    let kept := (ts.ranked xs).take k
    if i < k then
      let y := kept.getD i (0, 0)
      writeElem s c q td (r * k + i) 0 (y.2 + pairValue ts (ts.value false y.1).1 y.1 * 2 ^ 32)
    else if kept.any fun y => y.2 = i - k then (s, none)
    else putResidual s c q ts (residAddr resid (r * ts.n0 + (i - k))) (xs.getD (i - k) 0)

/-! ### One unit of a data instruction -/

def SluiceProg.td? (p : SluiceProg) (n : Fin 8) : Option TDesc := NMap.get? p.td n.val

/-- Move the next unit: an element, a pair, a residual or a scale word.
DEDUCED, unsafe: log entry 41. -/
def moveUnit (s : State) (c : Nat) (p : SluiceProg) (x : Xfer) : Moved :=
  let q := p.cmd
  match x.instr with
  | .sMove d a _ =>
    match p.td? d, p.td? a with
    | some td, some ts => copyElem s c q td ts x.done (some x.done) x
    | _, _ => (s, none)
  | .sGather d a _ =>
    match p.td? d, p.td? a with
    | some td, some ts =>
      let i := x.list.getD (x.done / td.n0) 0
      copyElem s c q td ts x.done (if i = 2 ^ 32 - 1 then none else some (i * td.n0 + x.done % td.n0)) x
    | _, _ => (s, none)
  | .sConv d a _ _ =>
    match p.td? d, p.td? a with
    | some td, some ts => if Fmt.isBlock td.fmt then convUnit s c q td ts x else convElem s c q td ts x.done x
    | _, _ => (s, none)
  | .sTopk d a b k =>
    match p.td? d, p.td? a with
    | some td, some ts => topkUnit s c q td ts (p.xAt b) k.toNat x
    | _, _ => (s, none)
  | _ => (s, none)

/-- The destination address of a unit. -/
def unitAddr (p : SluiceProg) (i : Instr) (n : Nat) : Word64 :=
  match i with
  | .sMove d .. | .sGather d .. => ((p.td? d).map fun t => t.at_ n).getD 0
  | .sConv d .. =>
    ((p.td? d).map fun t =>
      if !Fmt.isBlock t.fmt then t.at_ n else if n % 65 < 64 then t.at_ (64 * (n / 65) + n % 65) else t.scaleAddr (n / 65)).getD 0
  | .sTopk d a b k =>
    match p.td? d, p.td? a with
    | some td, some ts =>
      let w := k.toNat + ts.n0
      if n % w < k.toNat then td.at_ (n / w * k.toNat + n % w) else residAddr (p.xAt b) (n / w * ts.n0 + (n % w - k.toNat))
    | _, _ => 0
  | _ => 0

/-- The granule of the destination that a unit begins in (R339). -/
def unitGranule (p : SluiceProg) (i : Instr) (n : Nat) : Nat := (unitAddr p i n).toNat / 64

/-- One move of a data instruction in progress; a fault ends the program. -/
def moveStep (s : State) (c : Nat) (p : SluiceProg) (x : Xfer) : State :=
  if x.total ≤ x.done then s
  else
    match moveUnit s c p x with
    | (s, some (k, a)) => endProgram s c k a p.spc
    | (s, none) =>
      let n := x.done + 1
      let mid := decide (n < x.total) && unitGranule p x.instr n = unitGranule p x.instr x.done
      let s := s.modProg c fun p => { p with xfer := p.xfer.map fun x => { x with done := n, mid := mid } }
      match p.cmd.group with
      | some gk => if mid then s else settleSuspend s (s.group gk).gang
      | none => s

/-! ### Starting -/

/-- The locks of a data instruction are taken, or it waits (R31, R323, R332). -/
def lockData (s : State) (c : Nat) (p : SluiceProg) (rs : List SRange) (f : State → State) : State :=
  if meetsDeco s c p.cmd.id rs then progWait s c .deco
  else
    match takeLocksIn s (rs.map fun r => r.lock s c p.cmd (.sluice c p.cmd.id)) with
    | none => progWait s c .locks
    | some s => f s

/-- A data instruction starts: it takes its locks, and its elements are to move. -/
def startData (s : State) (c : Nat) (p : SluiceProg) (x : Xfer) (rs : List SRange) : Host.Outcome State Fault Refusal :=
  .next (lockData s c p rs fun s => s.modProg c fun p => { p with wait := .xfer, xfer := some x })

/-- The launching group's set; a node's is the default set (R309, R351). -/
def progSet (s : State) (q : SluiceCmd) : Option ModRecord :=
  match q.group with
  | some gk => (s.group gk).mset
  | none => some defaultRecord

/-- Channels and moduli that a data instruction reads: one plane without a modulus for what is no residue plane. -/
def planesOf (s : State) (q : SluiceCmd) (f : Fmt) : Option (List (Nat × Nat)) :=
  if Fmt.isPlane f then (progSet s q).map fun r => (recordChans r).map fun c => (c.h, c.m) else some [(0, 0)]

/-- A 1-byte residue plane under a modulus above 256 (R92). -/
def planeTooNarrow (f : Fmt) (ms : List (Nat × Nat)) : Bool := f = .plane1 && ms.any fun m => 256 < m.2

/-- The instruction writes nothing and records its data cause (R92, R336).
DEDUCED, unsafe: log entry 41. -/
def skipNarrow (s : State) (c : Nat) : Host.Outcome State Fault Refusal := .next (s.modProg c fun p => (p.note 79 0).next)

/-- MOVE (R317). -/
def execSMove (d a : Fin 8) (b : Fin 16) (s : State) : Host.Outcome State Fault Refusal :=
  withProg s fun c p =>
    withTd s c p d fun td =>
      withTd s c p a fun ts =>
        let n := if p.xAt b = 0 then td.count else (p.xAt b).toNat
        if td.count < n ∨ ts.count < n then sluiceFault s c p 101 0
        else if td.fmt ≠ ts.fmt ∨ Fmt.isBlock td.fmt then sluiceFault s c p 108 0
        else
          match planesOf s p.cmd td.fmt with
          | none => sluiceFault s c p 108 0
          | some ms =>
            if !ts.fits s p.cmd ms.length then sluiceFault s c p 101 ts.base
            else if !td.fits s p.cmd ms.length then sluiceFault s c p 101 td.base
            else if planeTooNarrow td.fmt ms then skipNarrow s c
            else startData s c p { instr := .sMove d a b, total := n, mset := ms }
              [ts.range ms.length false, td.range ms.length true]

/-- The first index of a list that names no row (R318). -/
def badIndex (rows : Nat) (is : List Nat) : Option Nat := is.findIdx? fun i => decide (rows ≤ i ∧ i ≠ 2 ^ 32 - 1)

/-- GATHER (R318): the whole list is read first. -/
def execSGather (d a : Fin 8) (b : Fin 16) (s : State) : Host.Outcome State Fault Refusal :=
  withProg s fun c p =>
    withTd s c p d fun td =>
      withTd s c p a fun ts =>
        let la := p.xAt b
        let list : SRange := ⟨la, 4 * td.rows, false⟩
        if td.fmt ≠ ts.fmt ∨ td.n0 ≠ ts.n0 ∨ Fmt.isBlock td.fmt then sluiceFault s c p 108 0
        else
          match planesOf s p.cmd td.fmt with
          | none => sluiceFault s c p 108 0
          | some ms =>
            if la.toNat % 4 ≠ 0 ∨ !sluiceOk s p.cmd la (4 * td.rows) then sluiceFault s c p 101 la
            else if !ts.fits s p.cmd ms.length then sluiceFault s c p 101 ts.base
            else if !td.fits s p.cmd ms.length then sluiceFault s c p 101 td.base
            else if planeTooNarrow td.fmt ms then skipNarrow s c
            else
              let rs := [ts.range ms.length false, list, td.range ms.length true]
              if meetsDeco s c p.cmd.id rs then .next (progWait s c .deco)
              else
                match takeLocksIn s (rs.map fun r => r.lock s c p.cmd (.sluice c p.cmd.id)) with
                | none => .next (progWait s c .locks)
                | some s =>
                  match sluiceRead s c p.cmd la (4 * td.rows) with
                  | (s, .error (k, fa)) => sluiceFault s c p k fa
                  | (s, .ok bs) =>
                    let is := chunksOf 4 td.rows bs
                    match badIndex ts.rows is with
                    | some j => sluiceFault s c p 101 (la + BitVec.ofNat 64 (4 * j))
                    | none =>
                      .next (s.modProg c fun p => { p with
                        wait := .xfer, xfer := some { instr := .sGather d a b, total := td.count, list := is, mset := ms } })

/-- CONV (R319). -/
def execSConv (d a : Fin 8) (src dst : Fmt) (s : State) : Host.Outcome State Fault Refusal :=
  withProg s fun c p =>
    withTd s c p d fun td =>
      withTd s c p a fun ts =>
        if src ≠ ts.fmt ∨ dst ≠ td.fmt ∨ td.count ≠ ts.count ∨ Fmt.isPlane ts.fmt ∨ (td.rmode p.cmd).rnd = 6 then
          sluiceFault s c p 108 0
        else
          match planesOf s p.cmd td.fmt with
          | none => sluiceFault s c p 108 0
          | some ms =>
            if !ts.fits s p.cmd 1 then sluiceFault s c p 101 ts.base
            else if !td.fits s p.cmd ms.length then sluiceFault s c p 101 td.base
            else if planeTooNarrow td.fmt ms then skipNarrow s c
            else startData s c p
              { instr := .sConv d a src dst, total := if Fmt.isBlock td.fmt then td.count / 64 * 65 else td.count, mset := ms }
              [ts.range 1 false, td.range ms.length true]

/-- A source format of TOPK (R328). -/
def topkSource (f : Fmt) : Bool := (Fmt.float? f).isSome || f = .i8 || f = .i16 || f = .i32

/-- TOPK (R328). -/
def execSTopk (d a : Fin 8) (b : Fin 16) (k : BitVec 14) (s : State) : Host.Outcome State Fault Refusal :=
  withProg s fun c p =>
    withTd s c p d fun td =>
      withTd s c p a fun ts =>
        let ra := p.xAt b
        if !topkSource ts.fmt ∨ (td.fmt ≠ .i64 ∧ td.fmt ≠ .u64) ∨ td.n0 ≠ k.toNat ∨ td.rows ≠ ts.rows ∨ ra.toNat % 4 ≠ 0 ∨
            k.toNat = 0 ∨ ts.n0 < k.toNat ∨ 4096 < k.toNat ∨ (ts.rmode p.cmd).rnd = 6 then sluiceFault s c p 110 0
        else if !ts.fits s p.cmd 1 then sluiceFault s c p 101 ts.base
        else if !td.fits s p.cmd 1 then sluiceFault s c p 101 td.base
        else if !sluiceOk s p.cmd ra (4 * ts.count) then sluiceFault s c p 101 ra
        else startData s c p { instr := .sTopk d a b k, total := ts.rows * (k.toNat + ts.n0) }
          [ts.range 1 false, td.range 1 true, ⟨ra, 4 * ts.count, true⟩]

/-- The ranges that a data instruction in progress holds locked. -/
def xferRanges (p : SluiceProg) (x : Xfer) : List SRange :=
  let n := x.mset.length
  match x.instr with
  | .sMove d a _ | .sConv d a _ _ =>
    match p.td? d, p.td? a with
    | some td, some ts => [ts.range (if Fmt.isPlane ts.fmt then n else 1) false, td.range n true]
    | _, _ => []
  | .sGather d a b =>
    match p.td? d, p.td? a with
    | some td, some ts => [ts.range n false, ⟨p.xAt b, 4 * td.rows, false⟩, td.range n true]
    | _, _ => []
  | .sTopk d a b _ =>
    match p.td? d, p.td? a with
    | some td, some ts => [ts.range 1 false, td.range 1 true, ⟨p.xAt b, 4 * ts.count, true⟩]
    | _, _ => []
  | _ => []

/-- A program that a suspension had stopped goes on (R341): with the cause kept of a failed block it faults; otherwise it
takes the locks of its instruction again. -/
def resumeProgram (s : State) (c : Nat) (p : SluiceProg) : State :=
  match p.kept with
  | some (k, a, spc) => endProgram s c k a spc
  | none =>
    match p.xfer with
    | none => s.modProg c fun p => { p with resumed := false }
    | some x => lockData s c p (xferRanges p x) fun s => s.modProg c fun p => { p with resumed := false, wait := .xfer }

/-- SLUICE_TRANSFER_COMPLETE: a data instruction has performed its last access (R332). -/
def execSluiceTransferComplete (core : Nat) (s : State) : Host.Outcome State Fault Refusal :=
  match (s.core core).sluice with
  | some p =>
    match p.xfer with
    | some x =>
      if x.done < x.total ∨ p.resumed then .next s
      else
        let s := dropCmdOwner s (.sluice core p.cmd.id)
        let s := s.modProg core fun p => { p.next with xfer := none }
        .next ((p.cmd.group.map fun gk => settleSuspend s (s.group gk).gang).getD s)
    | none => .next s
  | none => .next s

end Sys2Proof.Machine
end

