-- ==== Sys2Proof/Machine/Bamgar.lean ====
section
/-! DEFINITION. The Bamgar decompressor (R323 to R327): its blocks, its code, the DECO instruction, and the choice and completion
of a block. -/

namespace Sys2Proof.Machine

/-! ### Blocks (R324, R325) -/

/-- The header of a block. -/
structure BHead where
  magic : Nat
  fmt : Nat
  mode : Nat
  raw : Nat
  coded : Nat
  lens : List Nat
  crc : Nat
  tail : Nat
  deriving DecidableEq, Repr

def readHead (bs : List Byte) : BHead :=
  let at_ (i n : Nat) : Nat := leNat ((bs.drop i).take n)
  { magic := at_ 0 2, fmt := at_ 2 1, mode := at_ 3 1, raw := at_ 4 4, coded := at_ 8 4
    lens := (List.range 16).map fun k => at_ 12 8 / 16 ^ k % 16, crc := at_ 20 4, tail := at_ 24 8 }

/-- The code lengths are valid: one is used, and the code fits (R325). -/
def lensValid (ls : List Nat) : Bool :=
  ls.any (fun l => l ≠ 0) && ls.foldl (fun n l => n + if l = 0 then 0 else 2 ^ (15 - l)) 0 ≤ 2 ^ 15

/-- Check 2 of R327, against the descriptor it fills. -/
def headValid (h : BHead) (t : TDesc) : Bool :=
  h.magic = 0x4742 && h.tail = 0 && h.fmt = (Fmt.code t.fmt).toNat && h.mode < 2 && 1 ≤ h.raw && h.raw ≤ 16384 &&
    8 * h.raw = t.count * t.bits && 1 ≤ h.coded && h.coded ≤ 65536 &&
    if h.mode = 1 then h.coded = h.raw && h.lens.all (fun l => l = 0) else lensValid h.lens

/-- The canonical code: length, code and symbol, shortest first (R325). -/
def codeTable (ls : List Nat) : List (Nat × Nat × Nat) :=
  ((List.range 15).foldl (fun (a : Nat × List (Nat × Nat × Nat)) l =>
    let syms := (List.range 16).filter fun k => ls.getD k 0 = l + 1
    ((a.1 + syms.length) * 2, a.2 ++ syms.zipIdx.map fun x => (l + 1, a.1 + x.2, x.1))) (0, [])).2

/-- The next symbol of a bit stream, with the bits after it. -/
def nextSym (tab : List (Nat × Nat × Nat)) : Nat → Nat → Nat → List Bool → Option (Nat × List Bool)
  | 0, _, _, _ => none
  | _ + 1, _, _, [] => none
  | fuel + 1, len, code, b :: bs =>
    let code := 2 * code + if b then 1 else 0
    match tab.find? fun x => x.1 = len + 1 && x.2.1 = code with
    | some x => some (x.2.2, bs)
    | none => nextSym tab fuel (len + 1) code bs

/-- n symbols, in order, with the bits after them. -/
def readSyms (tab : List (Nat × Nat × Nat)) : Nat → List Bool → Option (List Nat × List Bool)
  | 0, bs => some ([], bs)
  | n + 1, bs =>
    match nextSym tab 15 0 0 bs with
    | none => none
    | some (x, bs) => (readSyms tab n bs).map fun r => (x :: r.1, r.2)

/-- Bytes of nibble symbols, low nibble first. -/
def nibbleBytes : List Nat → List Byte
  | a :: b :: rest => BitVec.ofNat 8 (a + 16 * b) :: nibbleBytes rest
  | _ => []

/-- Decode a body (check 4 of R327). -/
def decodeBody (h : BHead) (body : List Byte) : Option (List Byte) :=
  if h.mode = 1 then some body
  else
    let bits := body.flatMap fun b => (List.range 8).map fun i => bitOf b.toNat i
    match readSyms (codeTable h.lens) (2 * h.raw) bits with
    | none => none
    | some (xs, rest) => if rest.length < 8 && rest.all (fun b => !b) then some (nibbleBytes xs) else none

/-! ### Checking a block (R327) -/

/-- The raw output of a block, or the cause of the first check it fails. -/
def readBlock (s : State) (q : SluiceCmd) (b : DecoBlock) : State × Except (BitVec 8) (List Byte) :=
  match sluiceRead s b.core q b.addr 32 with
  | (s, .error (k, _)) => (s, .error k)
  | (s, .ok bs) =>
    let h := readHead bs
    if !headValid h b.td then (s, .error 105)
    else
      match sluiceRead s b.core q (b.addr + 32) h.coded with
      | (s, .error (k, _)) => (s, .error k)
      | (s, .ok body) =>
        match decodeBody h body with
        | none => (s, .error 106)
        | some out => if crc32c out = h.crc then (s, .ok out) else (s, .error 107)

/-- The range a block's read lock covers: its header alone where that fails checks 1 or 2. -/
def blockRange (s : State) (q : SluiceCmd) (b : DecoBlock) : State × SRange :=
  match sluiceRead s b.core q b.addr 32 with
  | (s, .error _) => (s, ⟨b.addr, 32, false⟩)
  | (s, .ok bs) =>
    let h := readHead bs
    let n := 32 + h.coded
    (s, ⟨b.addr, if headValid h b.td && sluiceOk s q b.addr n then n else 32, false⟩)

/-! ### The queue (R326) -/

def blockOwner (b : DecoBlock) : LockOwner := .deco b.core b.cmd b.block

/-- The command that a queued block belongs to. -/
def blockCmd (s : State) (b : DecoBlock) : Option SluiceCmd :=
  ((s.core b.core).sluice.map (·.cmd)).filter fun q => q.id = b.cmd

/-- Take the read lock of a block; none where the table cannot. -/
def lockBlock (s : State) (b : DecoBlock) : Option State :=
  match blockCmd s b with
  | none => none
  | some q =>
    let (s, r) := blockRange s q b
    if sluiceOk s q r.a r.n then takeLocksIn s [r.lock s b.core q (blockOwner b)] else some s

/-- The heads of a cluster's queues in round-robin order, after the sluice served last. -/
def decoHeads (k : Cluster) : List (Nat × DecoBlock) :=
  let order := match k.decoLast with
    | some l => [l + 1, l + 2, l + 3, l + 4].map (· % 4)
    | none => [0, 1, 2, 3]
  order.filterMap fun p => ((NMap.getD k.decoQ p []).head?).map fun b => (p, b)

/-- DECO_BLOCK_SELECT: the decompressor takes up the next block whose read lock it can take (R326). -/
def execDecoBlockSelect (cluster : Nat) (s : State) : Host.Outcome State Fault Refusal :=
  let k := s.cluster cluster
  if k.decoNow.isSome then .next s
  else
    match (decoHeads k).findSome? fun x => (lockBlock s x.2).map fun t => (x, t) with
    | some ((p, b), t) =>
      .next (t.modCluster cluster fun k => { k with decoNow := some { b with locked := true }, decoLast := some p })
    | none => .next s

/-- Write a block's output to its destination in linear order. -/
def writeBlock (s : State) (q : SluiceCmd) (b : DecoBlock) (out : List Byte) : Moved :=
  let z := b.td.bits
  (List.range b.td.count).foldl (fun r e =>
    match r with
    | (s, some f) => (s, some f)
    | (s, none) =>
      let x := leNat ((out.drop (e * z / 8)).take b.td.elemBytes) / 2 ^ (e * z % 8) % 2 ^ z
      writeElem s b.core q b.td e 0 x) (s, none)

/-- A block leaves the queue, and its locks go. -/
def freeBlock (s : State) (cluster : Nat) (b : DecoBlock) : State :=
  dropCmdOwner (s.modCluster cluster fun k => { k with
    decoNow := none
    decoQ := NMap.modify k.decoQ (b.core % 4) fun q => q.filter fun x => !(x.cmd = b.cmd && x.block = b.block) }) (blockOwner b)

/-- Release the locks of every DECO of a command. -/
def dropDecoLocks (s : State) (cmd : Nat) : State :=
  { s with cores := NMap.mapVal s.cores fun _ k => { k with locks := k.locks.filter fun l => match l.owner with
      | .deco _ x _ => x ≠ cmd
      | _ => true } }

/-- A block has failed: its program faults at the DECO that handed it off (R335); a program that a suspension has stopped
keeps the cause (R341), and one that SSTOP has ended is not to be faulted. -/
def blockFails (s : State) (p : SluiceProg) (b : DecoBlock) (k : BitVec 8) : State :=
  if p.stop then s
  else if progHeld s p && p.atBoundary then
    (dropDecoLocks (discardDecos s b.core b.cmd) b.cmd).modProg b.core fun p => { p with kept := some (k, b.addr, b.spc) }
  else endProgram s b.core k b.addr b.spc

/-- DECO_BLOCK_COMPLETE: a block is written whole, or nothing of it is and its program faults (R327). -/
def execDecoBlockComplete (cluster : Nat) (s : State) : Host.Outcome State Fault Refusal :=
  match (s.cluster cluster).decoNow with
  | none => .next s
  | some b =>
    match (s.core b.core).sluice with
    | none => .next (freeBlock s cluster b)
    | some p =>
      let t := match readBlock s p.cmd b with
        | (s, .error k) => blockFails (freeBlock s cluster b) p b k
        | (s, .ok out) =>
          match writeBlock s p.cmd b out with
          | (s, some (k, _)) => blockFails (freeBlock s cluster b) p b k
          | (s, none) => freeBlock s cluster b
      .next ((p.cmd.group.map fun gk => settleSuspend t (s.group gk).gang).getD t)

/-! ### DECO (R323) -/

/-- DECO: it hands its block off once the queue has room and the lock on its destination is free. -/
def execSDeco (d : Fin 8) (a : Fin 16) (s : State) : Host.Outcome State Fault Refusal :=
  withProg s fun c p =>
    withTd s c p d fun td =>
      let ba := p.xAt a
      let q := p.cmd
      if ba.toNat % 32 ≠ 0 then sluiceFault s c p 101 ba
      else if Fmt.isBlock td.fmt ∨ Fmt.isPlane td.fmt then sluiceFault s c p 108 0
      else if !td.fits s q 1 then sluiceFault s c p 101 td.base
      else if 4 ≤ (NMap.getD (s.cluster (clusterOf c)).decoQ (c % 4) []).length then .next (progWait s c .room)
      else if meetsDeco s c q.id [td.range 1 true] then .next (progWait s c .deco)
      else
        match takeLocksIn s [(td.range 1 true).lock s c q (.deco c q.id p.blocks)] with
        | none => .next (progWait s c .locks)
        | some s =>
          let b : DecoBlock := { core := c, cmd := q.id, block := p.blocks, td := td, addr := ba, spc := p.spc }
          let s := s.modCluster (clusterOf c) fun k => { k with
            decoQ := NMap.set k.decoQ (c % 4) (NMap.getD k.decoQ (c % 4) [] ++ [b]) }
          .next (s.modProg c fun p => { p.next with blocks := p.blocks + 1 })

end Sys2Proof.Machine
end

