-- ==== Sys2Proof/Machine/Control.lean ====
section
/-! DEFINITION. Control flow: branches, divergence and confluence (R155 to R162), REP (R164 to R166), ending and pausing
(R167), barriers (R168 to R172), and the spin detector (R174). -/

namespace Sys2Proof.Machine

/-! ### Targets and moves -/

/-- The address of the instruction in hand. -/
def Ctx.here (c : Ctx) : VAddr := c.iw.hdr + BitVec.ofNat 48 (8 * (c.iw.idx + 1))

/-- The splits that take the lanes of the issuing split: the first keeps the table entry (R123, R160). -/
def Wave.scatter (w : Wave) (e : Nat) (helper : Bool) : List (VAddr × LaneMask) → Wave
  | [] => w
  | (pc, m) :: rest =>
    let w := { w with splits := NMap.modify w.splits e fun sp => { sp with pc := pc, mask := m, state := .ready } }
    rest.foldl (fun w d => w.addSplit { pc := d.1, mask := d.2, state := .ready, helper := helper } e) w

/-- Move the lanes of the issuing split and go on. -/
def Ctx.goTo (c : Ctx) (s : State) (ds : List (VAddr × LaneMask)) : Host.Outcome State Fault Refusal :=
  .next ((s.modWave c.wid fun w => w.scatter c.iss.split c.helper ds).advance c.wid)

/-! ### The spin detector (R174) -/

/-- What a pass has written to registers and predicates: each with the value that the split's lanes now hold there.
DESIGN CHOICE, safe: log entry 22. -/
def Ctx.spinValues (c : Ctx) (regs : List Nat) : List Nat :=
  regs.flatMap fun r =>
    if r < 192 then r :: (lanesOf c.iss.mask).map fun l => (c.w.vAt r l).val.toNat
    else if r < 256 then [r, (c.w.sAt (r - 192)).val.toNat]
    else [r, (c.w.pAt (r - 256) &&& c.iss.mask).toNat]

/-- The split leaves the loop whose branch stands here. -/
def Ctx.leaveSpin (c : Ctx) (s : State) : State :=
  match NMap.get? c.w.spin c.iss.split with
  | some x => if x.word = c.here then endSpin s c.wid c.iss.split else s
  | none => s

/-- The branch here is taken to an address: a short backward one is counted, and the 64th with an unchanged hash marks
the group. -/
def Ctx.spin (c : Ctx) (s : State) (tgt : VAddr) : State :=
  if tgt.toNat ≤ c.here.toNat ∧ c.here.toNat ≤ tgt.toNat + 128 then
    let start : Spin := { word := c.here, head := tgt, depth := c.w.depth (lowestLane c.iss.mask) }
    let put (s : State) (x : Spin) : State := s.modWave c.wid fun w => { w with spin := NMap.set w.spin c.iss.split x }
    match (NMap.get? c.w.spin c.iss.split).filter fun x => x.word = c.here with
    | none => put (endSpin s c.wid c.iss.split) { start with count := 1 }
    | some x =>
      let h := Config.hash (c.spinValues x.regs)
      if x.hash = none ∨ x.hash = some h then
        let s := put s { start with count := x.count + 1, hash := some h }
        if x.count + 1 = 64 then
          s.modGroup c.w.group fun g => { g with
            lowered := true, loweredAt := s.cycle, spinLines := x.lines.take 8, spinMany := decide (8 < x.lines.length) }
        else s
      else put (clearSpin s c.w.group) { start with count := 1, hash := some h }
  else c.leaveSpin s

/-! ### Branches (R159) -/

/-- The branch is taken: check the target (R45), then move the whole split. -/
def Ctx.take (c : Ctx) (s : State) (tgt : VAddr) : Host.Outcome State Fault Refusal :=
  match checkTarget s c.core c.w.asid tgt c.iss.mask with
  | (s, some t) => instrTrap c s t
  | (s, none) => c.goTo (c.spin s tgt) [(tgt, c.iss.mask)]

/-- The branch falls through. -/
def Ctx.fall (c : Ctx) (s : State) : Host.Outcome State Fault Refusal := .next ((c.leaveSpin s).advance c.wid)

/-- BRA (R159). -/
def execBra (tgt : BitVec 20) (s : State) : Host.Outcome State Fault Refusal :=
  withCtx s fun c => c.take s (c.wordAt tgt)

/-- BANY (R159). -/
def execBany (g : Guard) (tgt : BitVec 20) (s : State) : Host.Outcome State Fault Refusal :=
  withCtx s fun c => if c.trueLanes g ≠ 0 then c.take s (c.wordAt tgt) else c.fall s

/-- BALL (R159). -/
def execBall (g : Guard) (tgt : BitVec 20) (s : State) : Host.Outcome State Fault Refusal :=
  withCtx s fun c => if c.trueLanes g = c.iss.mask then c.take s (c.wordAt tgt) else c.fall s

/-- BNONE (R159). -/
def execBnone (g : Guard) (tgt : BitVec 20) (s : State) : Host.Outcome State Fault Refusal :=
  withCtx s fun c => if c.trueLanes g = 0 then c.take s (c.wordAt tgt) else c.fall s

/-! ### Divergence (R155 to R157, R160) -/

/-- The innermost record of lane l: the open one of largest SEQ that holds it (R157). -/
def Wave.innermost (w : Wave) (l : Nat) : Option (Nat × DivRecord) := (w.recs.filter fun r => r.2.member.getLsbD l).getLast?

/-- Every lane already stands inside a record with this confluence at its own depth. -/
def Ctx.inside (c : Ctx) (conf : VAddr) : Bool :=
  (lanesOf c.iss.mask).all fun l => match c.w.innermost l with
    | some (_, r) => r.cpc = conf && NMap.getD r.ldepth l 0 = c.w.depth l
    | none => false

/-- Create the record of a divergent BDIV. -/
def Ctx.record (c : Ctx) (w : Wave) (conf : VAddr) : Wave :=
  { w with
    nextSeq := w.nextSeq + 1
    recs := recache (NMap.set w.recs w.nextSeq
      { cpc := conf, member := c.iss.mask, arrived := 0, helper := c.helper,
        ldepth := (lanesOf c.iss.mask).map fun l => (l, w.depth l) }) }

/-- BDIV (R160). Helper lanes of the recruiter's own wave share its eight split entries and its limit of 64 open records.
DESIGN CHOICE, unsafe: log entry 58. -/
def execBdiv (g : Guard) (tgt conf : BitVec 20) (s : State) : Host.Outcome State Fault Refusal :=
  withCtx s fun c =>
    let t := c.wordAt tgt
    let cf := c.wordAt conf
    match checkTarget s c.core c.w.asid t c.iss.mask with
    | (s, some x) => instrTrap c s x
    | (s, none) =>
      match checkConf s c.core c.w.asid cf with
      | (s, some x) => instrTrap c s x
      | (s, none) =>
        let yes := c.trueLanes g
        let no := c.iss.mask &&& ~~~yes
        if no = 0 then c.goTo (c.spin s t) [(t, yes)]
        else if yes = 0 then c.fall s
        else if c.inside cf then c.goTo (c.spin s t) [(t, yes), (c.iss.next, no)]
        else if 64 ≤ c.w.recs.length then instrTrap c s { cause := 130 }
        else c.goTo ((c.spin s t).modWave c.wid fun w => c.record w cf) [(t, yes), (c.iss.next, no)]

/-! ### Confluence (R158) -/

/-- The record lane l arrives at from header H: of largest SEQ, not yet arrived, this confluence, this depth. -/
def Wave.match? (w : Wave) (h : VAddr) (l : Nat) : Option Nat :=
  ((w.recs.filter fun r => r.2.member.getLsbD l && !r.2.arrived.getLsbD l && r.2.cpc = h &&
    NMap.getD r.2.ldepth l 0 = w.depth l).getLast?).map (·.1)

/-- Lane l arrives at record q: it departs the records inside, and those complete now are deleted. -/
def Wave.arrive (w : Wave) (q l : Nat) : Wave :=
  { w with recs := NMap.mapVal w.recs fun i r =>
      if q < i then { r with member := r.member &&& ~~~(laneBit l), arrived := r.arrived &&& ~~~(laneBit l) }
      else if i = q then { r with arrived := r.arrived ||| laneBit l }
      else r }.settleRecs

/-- CONF for the lanes in hand, in ascending order. `waits` lists lanes that wait with their record; a lane whose record
completes meanwhile looks again.
DEDUCED, unsafe: log entry 25. -/
def confLanes (h : VAddr) : Nat → Wave → List Nat → List (Nat × Nat) → Wave × List (Nat × Nat)
  | 0, w, _, waits => (w, waits)
  | _ + 1, w, [], waits => (w, waits)
  | n + 1, w, l :: ls, waits =>
    match w.match? h l with
    | none => confLanes h n w ls waits
    | some q =>
      let w := w.arrive q l
      let waits := if (NMap.get? w.recs q).isSome then (l, q) :: waits else waits
      let (still, free) := waits.partition fun x => (NMap.get? w.recs x.2).isSome
      let again := if (NMap.get? w.recs q).isSome then ls else l :: ls
      confLanes h n w (again ++ free.map (·.1)) still

/-- Lanes that wait join the Confluent split of their record, or form a new one (R158). -/
def Wave.addWaiters (w : Wave) (pc : VAddr) (helper : Bool) (q : Nat) (m : LaneMask) (e : Nat) : Wave :=
  let joins (sp : Split) : Bool := sp.state = .confluent q
  match w.splits.find? fun x => joins x.2 with
  | some (i, sp) => { w with splits := NMap.set w.splits i { sp with mask := sp.mask ||| m } }
  | none =>
    if w.parkedSplits.any joins then
      { w with parkedSplits := w.parkedSplits.map fun sp => if joins sp then { sp with mask := sp.mask ||| m } else sp }
    else w.addSplit { pc := pc, mask := m, state := .confluent q, helper := helper } e

/-- The lanes that wait leave the issuing split; with none left the clause ends. -/
def Ctx.leaveFor (c : Ctx) (w : Wave) (waits : List (Nat × Nat)) : Wave :=
  let gone := maskOf fun l => waits.any fun x => x.1 = l
  let rest := c.iss.mask &&& ~~~gone
  let w := { w with
    splits := (NMap.modify w.splits c.iss.split fun sp => { sp with mask := rest }).filter fun x => x.2.mask ≠ 0
    issue := w.issue.map fun i => { i with mask := rest, idx := if rest = 0 then i.words.length else i.idx } }
  ((waits.map (·.2)).dedup).foldl (fun w q =>
    w.addWaiters c.iw.hdr c.helper q (maskOf fun l => waits.any fun x => x = (l, q)) c.iss.split) w

/-- CONF (R158). -/
def execConf (s : State) : Host.Outcome State Fault Refusal :=
  withCtx s fun c =>
    let r := confLanes c.iw.hdr 4096 c.w (lanesOf c.iss.mask) []
    let s := (s.setWave c.wid r.1).advance c.wid
    if r.2 = [] then .next s else .next (s.modWave c.wid fun w => c.leaveFor w r.2)

/-! ### Calls (R161) -/

/-- CALL (R161). -/
def execCall (tgt : BitVec 20) (s : State) : Host.Outcome State Fault Refusal :=
  withCtx s fun c =>
    let full := maskOf fun l => c.iss.mask.getLsbD l && 32 ≤ c.w.depth l
    if full ≠ 0 then instrTrap c s { cause := 11, lanes := full }
    else
      let t := c.wordAt tgt
      match checkTarget s c.core c.w.asid t c.iss.mask with
      | (s, some x) => instrTrap c s x
      | (s, none) =>
        c.goTo (s.modWave c.wid fun w => { w with
          rets := (lanesOf c.iss.mask).foldl (fun r l => NMap.set r l (c.iss.next :: NMap.getD r l [])) w.rets })
          [(t, c.iss.mask)]

/-- Pop the return stack of each lane, and depart the records made at a greater depth (R157). -/
def Wave.pop (w : Wave) (m : LaneMask) : Wave :=
  let rets := (lanesOf m).foldl (fun r l => NMap.set r l (NMap.getD r l []).tail) w.rets
  { w with
    rets := rets
    recs := NMap.mapVal w.recs fun _ r =>
      let gone := maskOf fun l => m.getLsbD l && r.member.getLsbD l && (NMap.getD rets l []).length < NMap.getD r.ldepth l 0
      { r with member := r.member &&& ~~~gone, arrived := r.arrived &&& ~~~gone } }.settleRecs

/-- RET (R161). -/
def execRet (s : State) : Host.Outcome State Fault Refusal :=
  withCtx s fun c =>
    let none_ := maskOf fun l => c.iss.mask.getLsbD l && c.w.depth l = 0
    if none_ ≠ 0 then instrTrap c s { cause := 11, lanes := none_ }
    else
      let ds := groupLanes (fun l => (NMap.getD c.w.rets l []).headD 0) (lanesOf c.iss.mask)
      match checkTargets s c.core c.w.asid ds with
      | (s, some t) => instrTrap c s t
      | (s, none) => c.goTo (s.modWave c.wid fun w => w.pop c.iss.mask) ds

/-! ### Jump tables (R58, R162) -/

/-- JTB (R162). -/
def execJtb (a : Operand) (table dflt : BitVec 20) (s : State) : Host.Outcome State Fault Refusal :=
  withCtx s fun c =>
    let hdr := c.wordAt table
    let at_ : Word64 := BitVec.ofNat 64 hdr.toNat
    match codeWord s c.core c.w.asid hdr with
    | (s, .error b) => instrTrap c s { cause := b.1, addr := at_, lanes := c.iss.mask, info := b.2 }
    | (s, .ok h) =>
      match tableLength h with
      | none => instrTrap c s { cause := 5, addr := at_ }
      | some len =>
        let idx := groupLanes (fun l => BitVec.ofNat 48 (lo32 (c.get s l a false).val).toNat) (lanesOf c.iss.mask)
        match tableTargets s c hdr (c.wordAt dflt) len (idx.map fun g => (g.1.toNat, g.2)) with
        | (s, .error t) => instrTrap c s t
        | (s, .ok ds) =>
          let ds := mergeTargets ds
          match checkTargets s c.core c.w.asid ds with
          | (s, some t) => instrTrap c s t
          | (s, none) =>
            match ds with
            | (t, _) :: _ => c.goTo (c.spin s t) ds
            | [] => c.goTo s ds

/-! ### REP (R164, R165) -/

/-- The 8-bit code of an operand field of a word, and its stride. -/
def RepForm.fields (f : RepForm) (w : Word64) : List (Nat × Field × Nat × Nat) :=
  let n := w.toNat
  [(0, .d, n / 2 ^ 40 % 256, f.sd.val), (1, .a, n / 2 ^ 32 % 256, f.sa.val), (2, .b, n / 2 ^ 24 % 256, f.sb.val),
   (3, .c, n / 2 ^ 16 % 256, f.sc.val)]

/-- A stepped code stays within what its use may name. -/
def OpUse.reaches (u : OpUse) (allot code : Nat) : Bool :=
  match u.o with
  | .v _ => code < allot && code % u.align = 0
  | .s _ => 0xC0 ≤ code && code + u.scalars ≤ 0xE0
  | _ => true

/-- The first iteration and field of a REP whose register leaves its range. -/
def repRange (f : RepForm) (i : Instr) (w : Word64) (allot : Nat) (n : Nat) : Option (Nat × Nat) :=
  (List.range n).findSome? fun k =>
    (RepForm.fields f w).findSome? fun x =>
      if x.2.2.2 ≠ 0 ∧ (i.uses.any fun u => u.fld = x.2.1 && !OpUse.reaches u allot (x.2.2.1 + k * x.2.2.2)) then
        some (k, x.1)
      else none

/-- REP (R165): the check of every iteration first; then the next word is repeated, or skipped. -/
def execRep (f : RepForm) (s : State) : Host.Outcome State Fault Refusal :=
  withCtx s fun c =>
    let n := RepForm.times f c.w
    if 4095 < n then instrTrap c s { cause := 12, info := BitVec.ofNat 64 n }
    else
      match c.iss.words[c.iss.idx + 1]? with
      | none => .next (s.advance c.wid)
      | some x =>
        match (decodeWave x.word).bind fun i => repRange f i x.word c.w.allot n with
        | some (k, fld) => instrTrap c s { cause := 6, info := BitVec.ofNat 64 (k + fld * 2 ^ 12) }
        | none =>
          .next (s.modWave c.wid fun w => { w with issue := w.issue.map fun i =>
            if n = 0 then { i with idx := i.idx + 2, began := false }
            else { i with idx := i.idx + 1, rep := some (0, n, f), began := false } })

/-! ### EFENCE's wait (R419) and EXIT (R167) -/

/-- What EFENCE waits for (R419, R23, R201, R340, R367). -/
def efenceDone (s : State) (c : Ctx) : Bool :=
  let w := c.w
  let g := s.group w.group
  w.loads.all (fun o => if o.isAtom then w.opSettled o else o.stuck) && w.stores.all w.opSettled && w.asyncs.all MemOp.isFence &&
    !(w.s.any fun x => x.2.pending) && g.batches = [] && !(g.mq.any fun e => e.batch = none) &&
    !(s.cores.any fun k => k.2.sluiceQ.any (fun q => q.wave = some c.wid) ||
      (match k.2.sluice with
        | some p => p.cmd.wave = some c.wid
        | none => false) ||
      k.2.launchQ.any (fun q => q.wave = c.wid && q.guard.isSome) || k.2.spawnQ.any fun q => q.wave = c.wid) &&
    w.joinIncr = []

/-- Wait as EFENCE does, then go on, or take the first pending late fault as a late trap; in the handler none is
reported. The instruction itself becomes a Rest entry, so TRET runs it again. -/
def afterEfence (c : Ctx) (s : State) (f : State → Host.Outcome State Fault Refusal) : Host.Outcome State Fault Refusal :=
  if !efenceDone s c then .next (s.stall c)
  else
    match c.w.faults with
    | x :: _ =>
      if c.w.frame.inh then f s
      else .next (lateTrap s c.wid c.core c.slot c.iss.split c.iss.next x (c.iss.restEntries false))
    | [] => f s

/-- Lanes exit: they depart their records and leave their splits. -/
def Wave.exitLanes (w : Wave) (m : LaneMask) : Wave :=
  let w : Wave := { w.dropLanes m with
    exited := w.exited ||| m
    recs := NMap.depart w.recs m
    tx := w.tx.filter (fun t => !m.getLsbD t.1) }
  w.settleRecs.unpark

/-- Some live lanes wait at BAR and the others all at GBAR (R169). -/
def Wave.mixedBars (w : Wave) : Bool :=
  let sps := (w.splits.map (·.2) ++ w.parkedSplits).filter fun sp => !sp.helper
  sps.all (fun sp => sp.hold = some .bar || sp.hold = some .gbar) && sps.any (fun sp => sp.hold = some .bar) &&
    sps.any fun sp => sp.hold = some .gbar

/-- The later of two splits by their last clause start. -/
def laterSplit (a b : Option (Nat × Split)) : Option (Nat × Split) :=
  match a, b with
  | some x, some y => if x.2.issued < y.2.issued then b else a
  | none, _ => b
  | _, none => a

/-- The entry of the split, among those that wait, which issued last; a parked one takes the entry of the first in the
table, which parks. -/
def Wave.lastIssued (w : Wave) : Wave × Option (Nat × Split) :=
  let inTable := (w.splits.filter fun x => !x.2.helper).foldl (fun a x => laterSplit a (some x)) none
  let parked := (((List.range w.parkedSplits.length).zip w.parkedSplits).filter fun x => !x.2.helper).foldl
    (fun a x => laterSplit a (some x)) none
  match inTable, parked with
  | some (e, t), some (k, q) =>
    if t.issued < q.issued then
      ({ w with splits := NMap.set w.splits e q, parkedSplits := w.parkedSplits.set k t }, some (e, q))
    else (w, inTable)
  | _, _ => (w, inTable)

/-- An EXIT that leaves only lanes waiting at both kinds of barrier: the wave traps at the split that issued last, whose
lanes stop waiting (R169). -/
def mixedTrap (s : State) (c : Ctx) : State :=
  match (s.wave? c.wid).map fun w => (w.mixedBars, w.lastIssued) with
  | some (true, w, some (e, sp)) =>
    takeTrap (s.setWave c.wid { w with splits := NMap.set w.splits e { sp with state := .ready } }) c.wid c.core
      c.slot e { cause := 131, lanes := sp.mask } sp.pc []
  | _ => s

/-- The lanes of Eff exit; in the handler every live lane does (R410). -/
def exitRun (c : Ctx) (eff : LaneMask) (s : State) : State :=
  let m := if c.w.frame.inh then c.w.live else eff
  if c.w.live &&& ~~~m = 0 then endWave (s.modWave c.wid fun w => w.exitLanes m) c.wid
  else
    let s := (s.modWave c.wid fun w => w.exitLanes m).advance c.wid
    mixedTrap (checkBars s c.w.group) c

/-- EXIT (R167, R298). With an empty Eff it waits for nothing and reports nothing.
DESIGN CHOICE, unsafe: log entry 57. -/
def execExit (g : Guard) (s : State) : Host.Outcome State Fault Refusal :=
  withCtx s fun c =>
    let eff := c.eff g
    if eff = 0 then .next (s.advance c.wid)
    else
      let opened := openTurnouts s c.wid (if c.w.frame.inh then c.w.live else eff)
      if opened ≠ 0 then instrTrap c s { cause := 133, lanes := opened }
      else if openDrain s c.w.group c.wid 0 then instrTrap c s { cause := 139, info := c.iw.word }
      else afterEfence c s fun s => .next (exitRun c eff s)

/-- NOP (R167). -/
def execNop (s : State) : Host.Outcome State Fault Refusal := withCtx s fun c => .next (s.advance c.wid)

/-- YIELD (R167). -/
def execYield (s : State) : Host.Outcome State Fault Refusal :=
  withCtx s fun c => .next ((s.modWave c.wid fun w => { w with yielded := true }).advance c.wid)

/-- NAP (R167). Of several NAPs in one clause the largest count holds.
DESIGN CHOICE, safe: log entry 72. -/
def execNap (n : Word32) (s : State) : Host.Outcome State Fault Refusal :=
  withCtx s fun c =>
    .next ((s.modWave c.wid fun w => { w with issue := w.issue.map fun i => { i with nap := max i.nap n.toNat } }).advance c.wid)

/-! ### Barriers (R168 to R172) -/

/-- The issuing split waits, to go on at the next clause. -/
def Wave.holdSplit (w : Wave) (i : Issue) (why : HoldWhy) : Wave :=
  { w with splits := NMap.modify w.splits i.split fun sp => { sp with pc := i.next, state := .held why } }

def Ctx.hold (c : Ctx) (s : State) (why : HoldWhy) : State :=
  (s.modWave c.wid fun w => w.holdSplit c.iss why).advance c.wid

/-- Arrive at BAR or GBAR (R169, R170): the phase completes once the earlier accesses of the waves it counts are performed. -/
def barRun (why : HoldWhy) (scope : Scope) (s : State) : Host.Outcome State Fault Refusal :=
  withCtx s fun c =>
    if c.w.frame.inh then instrTrap c s { cause := 146, info := c.iw.word }
    else if c.w.rejoined then instrTrap c s { cause := 131, lanes := c.iss.mask }
    else if (c.w.holdSplit c.iss why).mixedBars then instrTrap c s { cause := 131, lanes := c.iss.mask }
    else
      .next (checkBars (c.hold (fenceNow s c.wid (.fence noGuard .acqRel scope) c.w.live) why) c.w.group)

/-- BAR (R169). -/
def execBar (s : State) : Host.Outcome State Fault Refusal := barRun .bar .group s

/-- GBAR (R169). -/
def execGbar (s : State) : Host.Outcome State Fault Refusal := barRun .gbar .cluster s

/-- The count of CBAR and CBAR.arm. -/
def Count.value (n : Count) (c : Ctx) : Nat :=
  match n with
  | .reg a => (c.sVal a).toNat
  | .imm k => k.toNat

/-- CBAR (R171, R172): a release at GROUP scope for the wave's earlier accesses, a ticket, and one arrival. It stalls in place
for an access that cannot be performed yet. -/
def execCbar (g : Guard) (n : Count) (cb : Fin 16) (s : State) : Host.Outcome State Fault Refusal :=
  withCtx s fun c =>
    let k := Count.value n c
    if !c.guardHolds g then .next (s.advance c.wid)
    else
      match barCheck c s cb with
      | some t => instrTrap c s t
      | none =>
        if k = 0 ∨ 65535 < k then instrTrap c s { cause := 13, info := BitVec.ofNat 64 k }
        else if (s.bar c.core cb.val).target = 0 then instrTrap c s { cause := 129, info := BitVec.ofNat 64 cb.val }
        else
          let t := drainWave s c.wid
          if t.owes c.wid allLanes then .next (t.stall c)
          else
            let t := t.modWave c.wid fun w => { w with tickets := NMap.set w.tickets cb.val (s.bar c.core cb.val).gen }
            .next ((arriveAt t c.core cb.val c.w.group k).advance c.wid)

/-- CBAR.arm (R28, R171). -/
def execCbarArm (g : Guard) (n : Count) (cb : Fin 16) (s : State) : Host.Outcome State Fault Refusal :=
  withCtx s fun c =>
    let k := Count.value n c
    if !c.guardHolds g then .next (s.advance c.wid)
    else
      match barCheck c s cb with
      | some t => instrTrap c s t
      | none =>
        if 65535 < k then instrTrap c s { cause := 13, info := BitVec.ofNat 64 k }
        else
          let b := (s.bar c.core cb.val).arm (BitVec.ofNat 16 k)
          .next ((clearSpin (s.setBar c.core cb.val b) c.w.group).advance c.wid)

/-- CBWT (R172). -/
def execCbwt (g : Guard) (cb : Fin 16) (s : State) : Host.Outcome State Fault Refusal :=
  withCtx s fun c =>
    if !c.guardHolds g then .next (s.advance c.wid)
    else if c.w.frame.inh then instrTrap c s { cause := 146, info := c.iw.word }
    else
      match barCheck c s cb with
      | some t => instrTrap c s t
      | none =>
        let now := (s.bar c.core cb.val).gen
        let seen := (NMap.get? c.w.tickets cb.val).getD now
        let s := s.modWave c.wid fun w => { w with tickets := NMap.erase w.tickets cb.val }
        if now = seen then .next (c.hold s (.cbwt cb.val seen)) else .next (s.advance c.wid)

end Sys2Proof.Machine
end

