-- ==== Sys2Proof/Machine/Lanes.lean ====
section
/-! DEFINITION. Lane and quad instructions (R148 to R153, R100 to R104), the re-division of registers (R118), and LDK
(R59). -/

namespace Sys2Proof.Machine

/-! ### Src (R119, R146, R384) -/

/-- Two helper lanes serve the same turnout. -/
def Ctx.samePlace (c : Ctx) (l j : Nat) : Bool :=
  match NMap.get? c.w.helpers l, NMap.get? c.w.helpers j with
  | some a, some b => a.at_ b.core b.entry
  | _, _ => false

/-- Lane j belongs to the context lane l issues in: its own wave's lanes, or in helper code its own turnout's. -/
def Ctx.sees (c : Ctx) (l j : Nat) : Bool :=
  if c.helper then c.samePlace l j else (NMap.get? c.w.helpers j).isNone

/-- `Src(A, j)` as lane l reads it: a filler position reads 0 (R146, R384). -/
def Ctx.srcAt (c : Ctx) (s : State) (l j : Nat) (a : Operand) (w64 : Bool) : Word64 :=
  if c.sees l j then (c.get s j a w64).val else 0

/-- The lanes of Eff that lane l combines with: in helper code those of its own turnout. -/
def Ctx.peers (c : Ctx) (eff : LaneMask) (l : Nat) : LaneMask := maskOf fun j => eff.getLsbD j && c.sees l j

/-! ### VOTE and PLOP (R148, R153) -/

/-- The result of a vote over the lanes with bit 1, among those of Eff. -/
def VoteForm.result (f : VoteForm) (eff ones : LaneMask) : Nat :=
  match f with
  | .some => bit (ones ≠ 0)
  | .every => bit (ones = eff)
  | .gather => ones.toNat
  | .agree => bit (ones = eff || ones = 0)
  | .count => (lanesOf ones).length
  | .lead => (lanesOf ones).headD 32

def VoteForm.toPred : VoteForm → Bool
  | .some | .every | .agree => true
  | .gather | .count | .lead => false

/-- The lanes whose source bit is 1. -/
def Ctx.voteBits (c : Ctx) (p : Fin 8) (neg : Bool) : LaneMask := if neg then ~~~(c.w.pAt p.val) else c.w.pAt p.val

/-- VOTE (R148). -/
def execVote (g : Guard) (form : VoteForm) (d : Operand) (pd p : Fin 8) (neg : Bool) (s : State) :
    Host.Outcome State Fault Refusal :=
  withCtx s fun c =>
    let eff := c.eff g
    let bits := c.voteBits p neg
    if VoteForm.toPred form then
      .next ((s.modWave c.wid fun w => (lanesOf eff).foldl (fun w l =>
        let e := c.peers eff l
        w.setPBits pd.val (laneBit l) (if VoteForm.result form e (bits &&& e) = 0 then 0 else allLanes)) w).advance c.wid)
    else
      AluOp.run { g := g, dst := .reg d false .zero, srcs := [],
                  f := fun _ _ _ _ => plain (BitVec.ofNat 64 (VoteForm.result form eff (bits &&& eff))) } s

def PlopOp.apply (o : PlopOp) (a b : LaneMask) : LaneMask :=
  match o with
  | .and => a &&& b
  | .or => a ||| b
  | .xor => a ^^^ b
  | .andn => a &&& ~~~b
  | .not => ~~~a
  | .mov => a

/-- PLOP (R153). -/
def execPlop (g : Guard) (op : PlopOp) (pd pa pb : Fin 8) (s : State) : Host.Outcome State Fault Refusal :=
  withCtx s fun c =>
    .next ((s.modWave c.wid fun w =>
      w.setPBits pd.val (c.eff g) (PlopOp.apply op (c.w.pAt pa.val) (c.w.pAt pb.val))).advance c.wid)

/-! ### SHFL, RDLANE, QXCH (R149, R150, R152) -/

def LaneTy.wide : LaneTy → Bool
  | .w64s | .w64z => true
  | .w32s | .w32z => false

/-- How a scalar receives the value (R127). -/
def LaneTy.ext : LaneTy → Ext
  | .w32s | .w64s => .sign
  | .w32z | .w64z => .zero

/-- The source lane of a shuffle, or none for an edge. -/
def ShflForm.source (k : ShflForm) (l n : Nat) : Option Nat :=
  match k with
  | .from => some (n % 32)
  | .back => if l < n then none else some (l - n)
  | .ahead => if 31 < l + n then none else some (l + n)
  | .mirror => some (l ^^^ (n % 32))
  | .rot => some ((l + n) % 32)

/-- SHFL (R149). -/
def execShfl (k : ShflForm) (f : ShflFields) (s : State) : Host.Outcome State Fault Refusal :=
  AluOp.run { g := f.g, dst := .reg f.d (LaneTy.wide f.ty) (LaneTy.ext f.ty),
              srcs := [.op f.b false, .op f.c (LaneTy.wide f.ty)],
              f := fun c s l vs => match ShflForm.source k l (u32At vs 0) with
                | some j => plain (c.srcAt s l j f.a (LaneTy.wide f.ty))
                | none => plain (bitsOf vs 1) } s

/-- RDLANE (R150). -/
def execRdlane (g : Guard) (ty : LaneTy) (d a b : Operand) (s : State) : Host.Outcome State Fault Refusal :=
  AluOp.run { g := g, dst := .reg d (LaneTy.wide ty) (LaneTy.ext ty), srcs := [.op b false],
              f := fun c s l vs => plain (c.srcAt s l (u32At vs 0 % 32) a (LaneTy.wide ty)) } s

/-- The partner lane in a quad. -/
def QxchForm.partner (k : QxchForm) (l : Nat) : Nat :=
  match k with
  | .h => 4 * (l / 4) + (l % 4 ^^^ 1)
  | .v => 4 * (l / 4) + (l % 4 ^^^ 2)
  | .d => 4 * (l / 4) + (l % 4 ^^^ 3)
  | .bc pos => 4 * (l / 4) + pos.val

/-- QXCH (R152). -/
def execQxch (g : Guard) (k : QxchForm) (ty : LaneTy) (d a : Operand) (s : State) : Host.Outcome State Fault Refusal :=
  AluOp.run { g := g, dst := .reg d (LaneTy.wide ty) (LaneTy.ext ty), srcs := [],
              f := fun c s l _ => plain (c.srcAt s l (QxchForm.partner k l) a (LaneTy.wide ty)) } s

/-! ### REDUCE and SCAN (R100 to R104, R151) -/

def RedTy.wide : RedTy → Bool
  | .s64 | .z64 => true
  | _ => false

/-- Width and signedness of an integer TYPE. -/
def RedTy.int? : RedTy → Option (Nat × Bool)
  | .s32 => some (32, true) | .z32 => some (32, false)
  | .s64 => some (64, true) | .z64 => some (64, false)
  | .f32 | .f16x2 | .bf16x2 => none

def RedTy.float : RedTy → FloatTy
  | .f16x2 => .f16x2
  | .bf16x2 => .bf16x2
  | _ => .f32

def RedTy.ext : RedTy → Ext
  | .s32 | .s64 => .sign
  | _ => .zero

/-- Combine two integers. -/
def RedOp.int (op : RedOp) (w : Nat) (sg : Bool) (a b : Nat) : Nat :=
  let v (x : Nat) : Int := if sg then signed w x else x
  match op with
  | .add => (a + b) % 2 ^ w
  | .min => if v b < v a then b else a
  | .max => if v a < v b then b else a
  | .and => a &&& b
  | .or => a ||| b
  | .xor => a ^^^ b

/-- Combine two packed float values; each element rounds once with its own draw (R145, R151). -/
def RedOp.float (op : RedOp) (t : FloatTy) (m : Nat → RMode) (a b : Nat) : Nat × Sticky :=
  let f := FloatTy.fmt t
  let rs := (List.range (FloatTy.elems t)).map fun e =>
    let r := m e
    let x := f.read r.ftz (elemU f.width e a)
    let y := f.read r.ftz (elemU f.width e b)
    match op with
    | .min | .max =>
      let z := fMinMax (decide (op = RedOp.max)) x y
      (f.put z.1, z.2)
    | _ =>
      let p := fAddPre r x y
      let z := f.round r p.1
      (z.1, p.2 ||| z.2)
  (packElems f.width (rs.map (·.1)), rs.foldl (fun x y => x ||| y.2) 0)

/-- The identity of an operation (R104). -/
def RedOp.identity (op : RedOp) (t : RedTy) : Nat :=
  match RedTy.int? t with
  | some (w, sg) => match op with
    | .add | .or | .xor => 0
    | .min => wrapTo w (rangeHi w sg)
    | .max => wrapTo w (rangeLo w sg)
    | .and => 2 ^ w - 1
  | none =>
    let f := FloatTy.fmt (RedTy.float t)
    let e := match op with
      | .min => f.infBits false
      | .max => f.infBits true
      | _ => 0
    packElems f.width (List.replicate (FloatTy.elems (RedTy.float t)) e)

/-- A position's or block's value: absent, or the value with the flags of its nodes and its lowest participating lane. -/
structure Block where
  v : Nat
  fl : Sticky
  low : Nat
  deriving DecidableEq, Repr

/-- The draw of a node (R100): tag 3 in a wave, the helper lane's row in helper code. -/
def Ctx.nodeDraw (c : Ctx) (s : State) (first node low e : Nat) : Nat :=
  let a : Word64 := BitVec.ofNat 64 (gangIdOf s c.w)
  if c.helper then
    drawU (c.seed s low) a (c.drawB s low e + BitVec.ofNat 64 (node * 2 ^ 44)) (BitVec.ofNat 64 (c.rstoCount low))
  else
    drawU (c.seed s low) a
      (BitVec.ofNat 64 (3 * 2 ^ 62 + e * 2 ^ 16 + node * 2 ^ 20 + groupIdOf s c.w * 2 ^ 10 + c.w.waveid * 2 ^ 5))
      (c.w.lseqAt first)

/-- How the nodes of an instruction combine: node number, lowest participating lane, and the two values. -/
def Ctx.combine (c : Ctx) (s : State) (op : RedOp) (t : RedTy) (first node low a b : Nat) : Nat × Sticky :=
  match RedTy.int? t with
  | some (w, sg) => (RedOp.int op w sg a b, 0)
  | none =>
    let mode := c.mode s low
    RedOp.float op (RedTy.float t) (fun e =>
      { rnd := modeRnd mode, ftz := modeFtz mode,
        u := if modeRnd mode = 6 then c.nodeDraw s first node low e else 0 }) a b

/-- Combine two blocks; an absent one passes the other through. -/
def joinBlocks (f : Nat → Nat → Nat → Nat × Sticky) (a b : Option Block) : Option Block :=
  match a, b with
  | some x, some y =>
    let r := f (min x.low y.low) x.v y.v
    some ⟨r.1, x.fl ||| y.fl ||| r.2, min x.low y.low⟩
  | some x, none => some x
  | none, y => y

/-- `Block(lo, 2^k)` (R102, R103); its top node has number 32·(k-1) + lo (R100). -/
def blockOf (f : Nat → Nat → Nat → Nat → Nat × Sticky) (leaf : Nat → Option Block) : Nat → Nat → Option Block
  | 0, lo => leaf lo
  | k + 1, lo => joinBlocks (f (32 * k + lo)) (blockOf f leaf k lo) (blockOf f leaf k (lo + 2 ^ k))

/-- The prefix of n positions for lane i (R103), from step j on. -/
def scanFrom (f : Nat → Nat → Nat → Nat → Nat × Sticky) (leaf : Nat → Option Block) (i n : Nat) :
    List Nat → Nat → Option Block → Option Block
  | [], _, acc => acc
  | j :: js, base, acc =>
    if bitOf n (5 - j) then
      scanFrom f leaf i n js (base + 2 ^ (5 - j)) (joinBlocks (f (160 + 32 * j + i)) acc (blockOf f leaf (5 - j) base))
    else scanFrom f leaf i n js base acc

/-- The value of a position that participates. -/
def Ctx.leaf (c : Ctx) (s : State) (part : LaneMask) (a : Operand) (t : RedTy) (l : Nat) : Option Block :=
  if part.getLsbD l then
    let x := (c.get s l a (RedTy.wide t)).val.toNat
    some ⟨if RedTy.wide t then x else x % 2 ^ 32, 0, l⟩
  else none

/-- RSTO roundings REDUCE and SCAN count in each participating lane (R100). -/
def RedTy.counts (t : RedTy) (mode : Word64) : Nat :=
  match RedTy.int? t with
  | some _ => 0
  | none => if modeRnd mode = 6 then FloatTy.elems (RedTy.float t) else 0

/-- Write-back of REDUCE and SCAN: trap on an enabled exception, else write, count and raise. -/
def reduceCommit (c : Ctx) (s : State) (eff : LaneMask) (d : Operand) (t : RedTy) (scalar : Bool) (outs : List LaneOut) :
    Host.Outcome State Fault Refusal :=
  let fs := outs.map fun o => (o.l, o.fl)
  match xenTrap c s fs with
  | some x => instrTrap c s (if scalar then { x with lanes := eff } else x)
  | none =>
    let s := s.modWave c.wid fun w =>
      (lanesOf eff).foldl (fun w l =>
        let n := RedTy.counts t (c.mode s l)
        if n = 0 then w else w.countRsto c.helper l n) (w.writeOuts d (RedTy.wide t) (RedTy.ext t) outs)
    .next ((raiseFlags c s fs).advance c.wid)

/-- REDUCE (R102, R151). -/
def execReduce (g : Guard) (op : RedOp) (ty : RedTy) (d a : Operand) (s : State) : Host.Outcome State Fault Refusal :=
  withCtx s fun c =>
    let eff := c.eff g
    match blockOf (c.combine s op ty (lowestLane eff)) (c.leaf s eff a ty) 5 0 with
    | some b => reduceCommit c s eff d ty true [⟨lowestLane eff, .nat b.v, b.fl⟩]
    | none => .next (s.advance c.wid)

/-- SCAN: a helper lane combines the lanes of its own turnout (R103, R151). -/
def execScan (g : Guard) (op : RedOp) (excl : Bool) (ty : RedTy) (d a : Operand) (s : State) :
    Host.Outcome State Fault Refusal :=
  withCtx s fun c =>
    let eff := c.eff g
    reduceCommit c s eff d ty false ((lanesOf eff).map fun i =>
      let part := c.peers eff i
      match scanFrom (c.combine s op ty (lowestLane eff)) (c.leaf s part a ty) i (if excl then i else i + 1)
          (List.range 6) 0 none with
      | some b => ⟨i, .nat b.v, b.fl⟩
      | none => ⟨i, .nat (RedOp.identity op ty), 0⟩)

/-! ### GIVE and CLAIM (R118) -/

/-- An access still outstanding writes a register of the wave from v(lo) up. -/
def writesAbove (lo : Nat) (o : MemOp) : Bool :=
  o.instr.uses.any fun u => u.kind.writes && match u.o with
    | .v n => lo < n.val + u.regs
    | _ => false

/-- An MDRAINV of a closed batch writes a register of the wave from v(lo) up. -/
def closedDrain (s : State) (gk w lo : Nat) : Bool :=
  (s.group gk).mq.any fun e => e.wave = w && e.batch ≠ some (s.group gk).openSeq && match e.instr with
    | .mdrainv _ _ _ _ pair => lo ≤ 2 * pair.val + 1
    | _ => false

/-- The key of the group pool of the wave's quarter. -/
def Ctx.poolKey (c : Ctx) : Nat := 4 * c.core + quarterOf c.slot

/-- GIVE (R118). -/
def execGive (g : Guard) (n : BitVec 8) (s : State) : Host.Outcome State Fault Refusal :=
  withCtx s fun c =>
    match valueCheck c s (.give g n) with
    | some t => instrTrap c s t
    | none =>
      if !c.guardHolds g then .next (s.advance c.wid)
      else if c.w.allot < 8 * n.toNat + 8 then instrTrap c s { cause := 10, info := BitVec.ofNat 64 n.toNat }
      else if c.w.loads.any (writesAbove (c.w.allot - 8 * n.toNat)) ∨
          closedDrain s c.w.group c.wid (c.w.allot - 8 * n.toNat) = true then .next (s.stall c)
      else
        let s := (abortOpen c s (c.eff g)).modWave c.wid fun w => { w with allot := w.allot - 8 * n.toNat }
        .next ((s.modGroup c.w.group fun x => { x with pools := addBlocks x.pools c.core c.slot n.toNat }).advance c.wid)

/-- CLAIM (R118). -/
def execClaim (g : Guard) (pd : Fin 8) (n : BitVec 8) (s : State) : Host.Outcome State Fault Refusal :=
  withCtx s fun c =>
    match valueCheck c s (.claim g pd n) with
    | some t => instrTrap c s t
    | none =>
      let s := abortOpen c s (c.eff g)
      if !c.guardHolds g then .next (s.advance c.wid)
      else if n.toNat ≤ NMap.getD (s.group c.w.group).pools c.poolKey 0 ∧ c.w.allot + 8 * n.toNat ≤ 192 then
        let s := s.modWave c.wid fun w =>
          let lo := 32 * w.allot
          let hi := 32 * (w.allot + 8 * n.toNat)
          { w with v := w.v.filter (fun e => e.1 < lo ∨ hi ≤ e.1), allot := w.allot + 8 * n.toNat }
        let s := s.modGroup c.w.group fun x => { x with pools := dropBlocks x.pools c.poolKey n.toNat }
        .next ((s.modWave c.wid fun w => w.setPBits pd.val c.mask allLanes).advance c.wid)
      else .next ((s.modWave c.wid fun w => w.setPBits pd.val c.mask 0).advance c.wid)

/-! ### LDK (R59) -/

/-- Read the pool word, trap on a header or a failed fetch, and write it where the guard holds.
DEDUCED, unsafe: log entry 28. -/
def ldkRun (f : LdkForm) (sign : Bool) (s : State) : Host.Outcome State Fault Refusal :=
  withCtx s fun c =>
    let addr := c.iw.hdr + BitVec.ofNat 48 (8 * (BitVec.signExtend 64 f.off).toNat)
    let at_ : Word64 := BitVec.ofNat 64 addr.toNat
    match codeWord s c.core c.w.asid addr with
    | (s, .error b) => instrTrap c s { cause := b.1, addr := at_, lanes := c.mask, info := b.2 }
    | (s, .ok w) =>
      if isHeader w then instrTrap c s { cause := 5, addr := at_ }
      else
        let x : Word64 := if sign then BitVec.signExtend 64 (BitVec.ofNat 63 w.toNat) else w
        AluOp.run { g := f.g, dst := .reg f.d f.d.isS .zero, srcs := [], f := fun _ _ _ _ => plain x } s

/-- LDK (R59). -/
def execLdk (f : LdkForm) (s : State) : Host.Outcome State Fault Refusal := ldkRun f false s

/-- LDK.s (R59). -/
def execLdkS (f : LdkForm) (s : State) : Host.Outcome State Fault Refusal := ldkRun f true s

end Sys2Proof.Machine
end

