-- ==== Sys2Proof/Machine/SluiceWave.lean ====
section
/-! DEFINITION. The wave side of a sluice (R337 to R340): SLAUNCH, SSTAT and SSTOP; and what a sluice does when it moves. -/

namespace Sys2Proof.Machine

/-- The tick a command carries, if any. -/
def Ctx.tick (c : Ctx) (t : TickArg) : Option Word64 := t.map c.sVal

/-- SLAUNCH (R337). -/
def execSlaunch (g : Guard) (d a b : Fin 32) (t : TickArg) (s : State) : Host.Outcome State Fault Refusal :=
  withCtx s fun c =>
    match valueCheck c s (.slaunch g d a b t) with
    | some x => instrTrap c s x
    | none =>
      c.whenGuard s g fun u gr =>
        if 8 ≤ (u.core c.core).sluiceQ.length then .next (u.stall c)
        else
          let u := pendToken (abortOpen c u (c.eff g)) c.wid d.val
          let m := (s.group c.w.group).mode
          let q : SluiceCmd := {
            id := u.stamp, wave := some c.wid, group := some c.w.group, asid := c.w.asid, token := d, image := c.sVal a
            args := (List.range 4).map fun i => (c.w.sAt (b.val + i)).val, tick := c.tick t, guard := gr
            rnd := Fin.ofNat 8 (modeRnd m), ftz := modeFtz m, xen := modeXen m, after := c.w.nextOp }
          .next ((u.bump.modCore c.core fun k => { k with sluiceQ := k.sluiceQ ++ [q] }).advance c.wid)

/-- STATE of SSTAT (R338). -/
def progState (p : SluiceProg) : Nat :=
  if p.stop then 4
  else if !p.loaded then 1
  else match p.wait with
    | .none | .xfer => if p.resumed then 3 else 2
    | _ => 3

/-- The slot of a resident wave; 0 elsewhere. -/
def slotOf (s : State) (w : Nat) : Nat :=
  match s.wave? w with
  | some x =>
    match x.place with
    | .resident _ sl => sl
    | _ => 0
  | none => 0

/-- Pending DECOs, with one that waits for queue room (R304, R338). -/
def pendCount (s : State) (c : Nat) (p : SluiceProg) : Nat :=
  (s.pendingDecos c p.cmd.id).length + if p.wait = .room then 1 else 0

/-- The word SSTAT writes (R338). -/
def sstatWord (s : State) (c wid gk : Nat) : Word64 :=
  let k := s.core c
  let base := min 8 k.sluiceQ.length * 2 ^ 28
  BitVec.ofNat 64 <| match k.sluice with
    | none => base
    | some p =>
      let same := decide (p.cmd.group = some gk)
      base + progState p * 2 ^ 14 + bit (p.cmd.wave = some wid) * 2 ^ 21 +
        if same then
          2 ^ 20 + p.spc % 1024 * 2 ^ 32 + ((p.cmd.wave.map (slotOf s)).getD 0) * 2 ^ 22 + pendCount s c p * 2 ^ 17 +
            cmdLocks s p.cmd.id % 64 * 2 ^ 8
        else 0

/-- SSTAT (R338). -/
def execSstat (g : Guard) (d : Fin 32) (s : State) : Host.Outcome State Fault Refusal :=
  withCtx s fun c =>
    if !c.guardHolds g then .next (s.advance c.wid)
    else
      let x := sstatWord s c.core c.wid c.w.group
      .next (((abortOpen c s (c.eff g)).modWave c.wid fun w => w.setS d.val (Scalar.of x)).advance c.wid)

/-- A queued command of a wave is ended with 109 (R339); one that a suspension had stopped leaves its sticky record. -/
def endQueued (s : State) (c wid : Nat) (q : SluiceCmd) : State :=
  match ((q.group.bind s.group?).bind (·.savedProg)).filter fun p => p.cmd.id = q.id with
  | some p =>
    let s := (q.group.map fun gk => s.modGroup gk fun g => { g with savedProg := none }).getD s
    finishProgram s c p 109 0 p.spc
  | none => setToken s wid q.token.val 109

/-- SSTOP (R339): every command of the wave is ended; its running program stops at the next boundary. -/
def execSstop (g : Guard) (d : Fin 32) (s : State) : Host.Outcome State Fault Refusal :=
  withCtx s fun c =>
    if !c.guardHolds g then .next (s.advance c.wid)
    else
      let k := s.core c.core
      let mine := k.sluiceQ.filter fun q => q.wave = some c.wid
      let run := k.sluice.filter fun p => p.cmd.wave = some c.wid && !p.stop
      let lck := (run.map fun p => cmdLocks s p.cmd.id).getD 0
      let x := bit run.isSome * 2 ^ 16 + lck * 2 ^ 8 + mine.length + bit run.isSome
      let s := s.modCore c.core fun k => { k with
        sluiceQ := k.sluiceQ.filter fun q => q.wave ≠ some c.wid
        sluice := k.sluice.map fun p => if p.cmd.wave = some c.wid then { p with stop := true } else p }
      let s := mine.foldl (fun s q => endQueued s c.core c.wid q) s
      .next (((abortOpen c s (c.eff g)).modWave c.wid fun w => w.setS d.val (Scalar.of (BitVec.ofNat 64 x))).advance c.wid)

/-! ### The sluice moves (R305) -/

/-- The phase that a WAITB recorded has completed (R329). -/
def waitOver (s : State) (c : Nat) (p : SluiceProg) : Bool :=
  match p.wait with
  | .barrier n g => (s.bar c n).gen ≠ g
  | _ => false

/-- The next instruction of a core's program, or one move of its engine. -/
def sluiceTodo (s : State) (c : Nat) : Todo :=
  match (s.core c).sluice with
  | none => .done s
  | some p =>
    if !p.loaded then .done s
    else if (p.stop || progHeld s p) && p.atBoundary then .done s
    else if p.resumed then .done (resumeProgram s c p)
    else
      match p.wait, p.xfer with
      | .barrier .., _ => .done (if waitOver s c p then s.modProg c SluiceProg.next else s)
      | .tick _, _ => .done s
      | _, some x => .done (moveStep s c p x)
      | _, none =>
        match p.words[p.spc]? with
        | none => .done (endProgram s c 97 0 p.spc)
        | some w =>
          match decodeSluice w with
          | some i => .run i { s with cur := (c, 0) }
          | none => .done (endProgram s c 96 0 p.spc)

end Sys2Proof.Machine
end

