-- ==== Sys2Proof/Machine/Tasks.lean ====
section
/-! DEFINITION. The scheduler's instructions (R362, R367 to R376): LAUNCH, JOINW, SPAWN, TAKE and PRIO. -/

namespace Sys2Proof.Machine

/-! ### LAUNCH (R367) -/

/-- Add to a join counter at its home slice; one that is misplaced faults as an access there does. -/
def joinAdd (s : State) (c asid : Nat) (va : Word64) (d : Nat) : State × Except Bad Unit :=
  if 2 ^ 48 < va.toNat + 8 then (s, .error (39, 0))
  else if va.toNat % 8 ≠ 0 then (s, .error (40, 0))
  else homeAdd s c asid va d

/-- The join increment of a LAUNCH; one that faults is reported at the wave's next EFENCE. -/
def launchJoin (s : State) (wid c asid : Nat) (bs : List Byte) : State :=
  let j : Word64 := BitVec.ofNat 64 (recNat bs 0x38 8)
  if j = 0 then s
  else
    match joinAdd s c asid j 1 with
    | (s, .ok _) => s
    | (s, .error b) => addFault s wid { cause := b.1, addr := j, info := b.2 }

/-- A LAUNCH whose guard has resolved true, and whose wave's earlier accesses are performed, proceeds: its release at DEVICE
scope, its increment, and a fault of its record read, reported. -/
def launchProceeds (s : State) (c wid node : Nat) : State :=
  match s.node? node with
  | none => s
  | some nd =>
    let s := releaseDevice s (clusterOf c)
    let s := s.modWave wid fun w => { w with joinIncr := w.joinIncr.filter fun j => j.1 ≠ node }
    match nd.invalid with
    | some k => addFault s wid { cause := k, addr := nd.addr }
    | none => launchJoin s wid c nd.asid nd.bytes

/-- An access of the wave that may write one of n bytes from a is not performed, and no fault keeps it back. -/
def Wave.writing (w : Wave) (a : Word64) (n : Nat) : Bool :=
  (w.loads ++ w.stores).any fun o => (o.storeClass || o.isAtom) && !Instr.scratch o.instr &&
    (lanesOf (o.undone &&& ~~~w.faultLanes)).any fun l =>
      let x := (o.at_ l).toNat % 65536
      let y := a.toNat % 65536
      x < y + n && y < x + Instr.bytes o.instr

/-- Read a record at the issue of a command, with what the wave's stores that a fault keeps back put over it.
DEDUCED, safe: log entry 63. -/
def recordRead (c : Ctx) (s : State) (a : Word64) (n : Nat) : State × Except (Bad × Nat) (List Byte) :=
  let o : MemOp := { c.newOp .nop with scal := true, owner := c.w.live, mask := laneBit 0, ea := [(0, a)] }
  match engineRead s c.core c.w.asid a.toNat n with
  | (s, .error e) => (s, .error e)
  | (s, .ok bs) => (s, .ok (((s.wave? c.wid).map fun w => w.overlay o 0 a.toNat bs).getD bs))

/-- The wave's earlier accesses may still write a record, so that its read waits. -/
def recordWaits (s : State) (wid : Nat) (a : Word64) (n : Nat) : Bool := ((s.wave? wid).map fun w => w.writing a n).getD false

/-- LAUNCH enters the pending-launch queue and reads its record. While an earlier access of the wave is not performed the entry is held as for a guard that is true.
DEDUCED, safe: log entry 63. -/
def launchEnter (c : Ctx) (s : State) (a : Word64) (t : Option Word64) (gr : Option GuardRef) : State :=
  let r := recordRead c s a 128
  let bs : List Byte := match r.2 with
    | .ok bs => bs
    | .error _ => []
  let bad : Option (BitVec 8) := match r.2 with
    | .ok _ => none
    | .error (b, _) => some b.1
  let s := r.1
  let start : Word64 := BitVec.ofNat 64 (recNat bs 0x48 8)
  let n := NMap.fresh s.nodes
  let cap := (((nodeOfWave s c.wid).bind s.node?).map (·.prio)).getD 0
  let nd : Node := { addr := a, asid := c.w.asid, wave := some c.wid, bytes := bs, invalid := bad, cap := cap }
  let gr := if gr.isNone && !waveClear s c.wid c.w.nextOp then some { value := true } else gr
  let e : LaunchEntry := { wave := c.wid, asid := c.w.asid, node := n, guard := gr, after := c.w.nextOp,
                           tick := t <|> if start = 0 then none else some start }
  let s := { s with nodes := NMap.set s.nodes n nd }.modCore c.core fun k => { k with launchQ := k.launchQ ++ [e] }
  match gr with
  | none => launchProceeds s c.core c.wid n
  | some _ =>
    let j := recNat bs 0x38 8
    if j = 0 then s else s.modWave c.wid fun w => { w with joinIncr := w.joinIncr ++ [(n, j)] }

/-- LAUNCH (R367). -/
def execLaunch (g : Guard) (a : Fin 32) (t : TickArg) (s : State) : Host.Outcome State Fault Refusal :=
  withCtx s fun c =>
    match valueCheck c s (.launch g a t) with
    | some x => instrTrap c s x
    | none =>
      c.whenGuard s g fun u gr =>
        if 4 ≤ (u.core c.core).launchQ.length then
          if gr.isSome then .next (u.stall c)
          else .next ((refuse (abortOpen c u (c.eff g)) c.wid c.w.nextOp g c.mask).advance c.wid)
        else
          let u := drainWave u c.wid
          if recordWaits u c.wid (c.sVal a) 128 then .next (u.stall c)
          else .next ((launchEnter c (abortOpen c u (c.eff g)) (c.sVal a) (c.tick t) gr).advance c.wid)

/-! ### JOINW (R373) -/

/-- Loads that JOINW waits for: all but FWAIT, and but what has faulted (R201, R373). -/
def MemOp.holdsJoin (o : MemOp) : Bool :=
  match o.instr with
  | .fwait _ => false
  | _ => !o.stuck

/-- The counter JOINW checks, at its home slice.
DEDUCED, unsafe: log entry 42. -/
def joinTarget (s : State) (c : Ctx) (a : Word64) : State × Except Bad Nat :=
  match translate s c.core c.w.asid a.toNat .read with
  | (s, .error b) => (s, .error b)
  | (s, .ok p) =>
    if p.host then (s, .error (45, 0))
    else if p.remote then (s, .error (46, 0))
    else if lineBad s p.pa then (s, .error (42, 0))
    else (settleLine s (clusterOf c.core) (lineNo p.pa) true, .ok p.pa)

/-- There is room for one more phase record (R374, R423). -/
def phaseRoom (s : State) (c : Ctx) : Bool :=
  phaseRecords s (clusterOf c.core) < 64 || poolFits s (towerOf c.core) (waveBlocks s c.wid)

/-- The issuing split goes on at the next clause. -/
def Ctx.toNext (c : Ctx) (s : State) : State :=
  s.modWave c.wid fun w => { w with
    splits := NMap.modify w.splits c.iss.split fun sp => { sp with pc := c.iss.next, state := .ready } }

/-- The wave parks; in a gang that is being suspended it is Suspended at once (R366). -/
def joinParks (s : State) (c : Ctx) (pa : Nat) (a : Word64) : State :=
  let s := parkJoin (c.toNext (abortOpen c s c.mask)) c.wid pa a
  let gi := (s.group c.w.group).gang
  if ((s.gang? gi).map (·.suspendReq)).getD false then
    settleSuspend (s.modWave c.wid fun w => { w with place := .suspended true }) gi
  else s

/-- JOINW (R373). -/
def execJoinw (a : Fin 32) (s : State) : Host.Outcome State Fault Refusal :=
  withCtx s fun c =>
    match valueCheck c s (.joinw a) with
    | some x => instrTrap c s x
    | none =>
      let va := c.sVal a
      let u := drainWave s c.wid
      let w := (u.wave? c.wid).getD c.w
      if w.loads.any MemOp.holdsJoin ∨ w.joinIncr.any (fun j => decide (j.2 = va.toNat)) ∨ w.writing va 8 then .next (u.stall c)
      else
        match joinTarget u c va with
        | (u, .error b) => instrTrap c u { cause := b.1, addr := va, lanes := c.mask, info := b.2 }
        | (u, .ok pa) =>
          if Memory.readNat u.mem pa 8 = 0 then .next ((acquireDevice (abortOpen c u c.mask) c.core).advance c.wid)
          else if !phaseRoom u c then .next (u.stall c)
          else .next (joinParks u c pa va)

/-! ### SPAWN and TAKE (R370, R371) -/

/-- The range and the alignment of lane l's record and counter. -/
def spawnRange (a b : Word64) : Bool := a.toNat + 64 ≤ 2 ^ 48 && (b = 0 || b.toNat + 8 ≤ 2 ^ 48)
def spawnAligned (a b : Word64) : Bool := a.toNat % 64 = 0 && b.toNat % 8 = 0

/-- The lock that lane l's SPAWN conflicts with: its record is read, its counter written. -/
def spawnLock (s : State) (c : Ctx) (a b : Word64) : Option Lock :=
  lockConflict (s.locksAt c.core) (.virt c.w.asid) a.toNat 64 false <|>
    if b = 0 then none else lockConflict (s.locksAt c.core) (.virt c.w.asid) b.toNat 8 true

/-- The trap of the first of these lanes that fail a check. -/
def spawnTrap (cause : BitVec 8) (ls : List Nat) (at_ : Nat → Word64) (bad : Nat → Bool) (info : Nat → Word64) : Option TrapInfo :=
  match ls.filter bad with
  | [] => none
  | l :: rest => some { cause := cause, addr := at_ l, lanes := maskOf fun j => (l :: rest).contains j, info := info l }

/-- The checks of R182 over these lanes. -/
def spawnCheck (s : State) (c : Ctx) (a : Operand) (b : Fin 32) (ls : List Nat) : Option TrapInfo :=
  let at_ (l : Nat) : Word64 := (c.get s l a true).val
  let bv := c.sVal b
  let lock (l : Nat) : Option Lock := spawnLock s c (at_ l) bv
  residueTrap c s ls [(a, true)] <|> residueTrap c s ls [(.s b, true)] <|>
    spawnTrap 39 ls at_ (fun l => !spawnRange (at_ l) bv) (fun _ => 0) <|>
    spawnTrap 40 ls at_ (fun l => !spawnAligned (at_ l) bv) (fun _ => 0) <|>
    spawnTrap 41 ls at_ (fun l => (lock l).isSome) (fun l => BitVec.ofNat 64 (bit (((lock l).map (·.write)).getD false))) <|>
    spawnTrap 178 ls at_ (fun l => watched s c.core 49 (at_ l).toNat) (fun _ => 0)

/-- SPAWN (R370): store-class; with its predicate write outstanding, or behind such a SPAWN, it waits. -/
def execSpawn (g : Guard) (a : Operand) (b : Fin 32) (s : State) : Host.Outcome State Fault Refusal :=
  withCtx s fun c =>
    let i : Instr := .spawn g a b
    c.whenGuard s g fun u gr =>
      let eff := c.eff g
      let ls := lanesOf (if gr.isSome then c.mask else eff)
      match spawnCheck s c a b ls with
      | some t => instrTrap c s t
      | none =>
        if c.w.noRoom i then .next (awaitRoom c u)
        else if 64 ≤ (u.core c.core).spawnQ.length then .next (u.stall c)
        else
          let waits := gr.isSome || !(u.core c.core).spawnQ.isEmpty
          let u := abortOpen c u eff
          let o : MemOp := { c.newOp i with
            mask := eff, held := waits, ea := (lanesOf eff).map fun l => (l, (c.get s l a true).val)
            data := (lanesOf eff).map fun l => (l, BitVec.ofNat 128 (c.sVal b).toNat) }
          let u := if !waits then u else
            u.modCore c.core fun k => { k with spawnQ := k.spawnQ ++ [{ op := o.id, wave := c.wid, guard := gr.getD { value := true } }] }
          .next ((u.modWave c.wid fun w => w.pushStore o).advance c.wid)

/-- TAKE (R371): load-class, on the scalar unit; it probes the deques when it is performed. -/
def execTake (g : Guard) (d : Fin 32) (s : State) : Host.Outcome State Fault Refusal :=
  withCtx s fun c =>
    let i : Instr := .take g d
    if !c.guardHolds g then .next (s.advance c.wid)
    else if c.w.noRoom i then .next (awaitRoom c s)
    else
      let o : MemOp := { c.newOp i with
        mask := laneBit (lowestLane (c.eff g)), scal := true, data := [(8, BitVec.ofNat 128 c.mask.toNat)] }
      .next (((abortOpen c s (c.eff g)).modWave c.wid fun w => w.pushLoad o).advance c.wid)

/-- PRIO (R362): the lesser of n and the grid's ceiling. -/
def execPrio (n : Fin 8) (s : State) : Host.Outcome State Fault Refusal :=
  withCtx s fun c =>
    let s := abortOpen c s c.mask
    .next ((s.modWave c.wid fun w => { w with level := min n.val (wavePrio s c.wid) }).advance c.wid)

end Sys2Proof.Machine
end

