-- ==== Sys2Proof/Machine/Turnout.lean ====
section
/-! DEFINITION. Turnouts (R379 to R406): RECRUIT, TCLAIM, TDONE, TJOIN and TFREE, and the commit and release of helper
lanes. -/

namespace Sys2Proof.Machine

/-! ### Granting helper lanes (R381 to R384, R396) -/

/-- Work waits for a place on a core: a wave to be restored, a wave to be resumed in its cluster, or a Ready gang, which
may be waiting for this core or another: a free choice. -/
def coreAwaited (s : State) (c : Nat) : State × Bool :=
  let evicted := s.waves.any fun w => homeCore s w.2 = c && match w.2.place with
    | .evicted _ => true
    | _ => false
  let woken := s.waves.any fun w => w.2.joinZero && w.2.place = .joining && clusterOf (homeCore s w.2) = clusterOf c
  let resuming := s.gangs.any fun g => g.2.live && g.2.suspended.isSome && g.2.cluster = clusterOf c
  if evicted || woken || resuming then (s, true)
  else if s.nodes.any fun n => n.2.st = .ready then (s.choose.2, s.choose.1)
  else (s, false)

/-- A grant in progress: lanes granted so far, and why the last place gave no more. -/
structure Grant where
  s : State
  got : Nat := 0
  why : Nat := 2

/-- Grant these lanes of a wave, up to the number wanted (R381). -/
def Grant.lanes (gr : Grant) (w tc te want : Nat) (ls : List Nat) : Grant :=
  let ls := ls.take (want - gr.got)
  { gr with s := ls.foldl (fun s l => serve s w l tc te) gr.s, got := gr.got + ls.length }

/-- Lanes of a wave that serve no turnout. -/
def Wave.idleLanes (w : Wave) (m : LaneMask) : List Nat := (lanesOf m).filter fun l => (NMap.get? w.helpers l).isNone

/-- Order 2: the empty positions of helper waves of the group on a core. -/
def Grant.helperWaves (gr : Grant) (r : Wave) (c tc te want : Nat) : Grant :=
  (List.range 64).foldl (fun gr sl =>
    match (NMap.get? (gr.s.core c).slots sl).bind fun i => (gr.s.wave? i).map fun w => (i, w) with
    | some (i, w) =>
      if w.helperWave ∧ w.group = r.group ∧ w.allot = r.allot then gr.lanes i tc te want (w.idleLanes allLanes) else gr
    | none => gr) gr

/-- A new helper wave in a slot (R383). Its lanes read their names, and it takes its level, from their recruiters' waves. -/
def newHelperWave (s : State) (r : Wave) (c sl : Nat) : State × Nat :=
  let i := NMap.fresh s.waves
  let w : Wave := { group := r.group, waveid := r.waveid, role := r.role, asid := r.asid, place := .resident c sl,
                    placedAt := s.stamp, allot := r.allot, level := r.level, exited := allLanes, helperWave := true }
  (((s.setWave i w).modCore c fun k => { k with slots := NMap.set k.slots sl i }).bump, i)

/-- Order 3: new helper waves in the free slots of a core, while slots and registers last. -/
def Grant.newWaves (r : Wave) (c tc te want : Nat) : Nat → Grant → Grant
  | 0, gr => gr
  | fuel + 1, gr =>
    if want ≤ gr.got then gr
    else
      let free := (List.range 64).filter fun sl => slotFree gr.s c sl
      if free = [] then { gr with why := 3 }
      else
        match coreAwaited gr.s c with
        | (s, true) => { gr with s := s, why := 5 }
        | (s, false) =>
          match free.find? fun sl => r.allot ≤ freeRegs s c (quarterOf sl) with
          | none => { gr with s := s, why := 4 }
          | some sl =>
            let (s, i) := newHelperWave s r c sl
            Grant.newWaves r c tc te want fuel ({ gr with s := s }.lanes i tc te want (List.range 32))

/-- The cores examined after the recruiter's own (R381). -/
def otherCores (c : Nat) : List Nat := [1, 2, 3].map fun i => 4 * clusterOf c + (c + i) % 4

/-- The places of R381 in order, as far as the limit allows. -/
def grantAll (s : State) (wid : Nat) (lim : RecruitLimit) (c e want : Nat) : Grant :=
  match s.wave? wid with
  | none => { s := s }
  | some r =>
    let gr := ({ s := s } : Grant).lanes wid c e want (r.idleLanes r.exited)
    let place (gr : Grant) (d : Nat) : Grant :=
      if want ≤ gr.got then gr else Grant.newWaves r d c e want 64 (gr.helperWaves r d c e want)
    match lim with
    | .wave => gr
    | .core => place gr c
    | .cluster => (otherCores c).foldl place (place gr c)

/-! ### RECRUIT (R400) -/

/-- The handle word (R399). -/
def handleWord (refuse wanted granted gen e : Nat) : Word64 :=
  BitVec.ofNat 64 (2 ^ 63 + refuse * 2 ^ 48 + wanted * 2 ^ 40 + granted * 2 ^ 32 + gen * 2 ^ 8 + e)

/-- A handle that names no turnout. -/
def noHandle (refuse : Nat) : Word64 := BitVec.ofNat 64 (refuse * 2 ^ 48)

/-- The window read in the recruiter lane (R385). -/
def Ctx.windowOf (c : Ctx) (win : Operand) (r : Nat) : List Scalar :=
  (List.range 16).map fun i => match win with
    | .v n =>
      let x := c.w.vAt (n.val + i) r
      { val := BitVec.ofNat 64 x.val.toNat, codeLo := x.code }
    | .s n => { c.w.sAt (n.val + i) with pending := false }
    | _ => {}

/-- RECRUIT (R400). The helper lanes start once what precedes it in the recruiter lane is performed (R234). -/
def execRecruit (g : Guard) (lim : RecruitLimit) (d : Fin 32) (a b : Operand) (cc : Fin 32) (win : Operand) (s : State) :
    Host.Outcome State Fault Refusal :=
  withCtx s fun c =>
    match valueCheck c s (.recruit g lim d a b cc win) with
    | some x => instrTrap c s x
    | none =>
      let eff := c.eff g
      let r := lowestLane eff
      let n := (lo32 (c.get s r a false).val).toNat
      let size := (lo32 (c.get s r b false).val).toNat
      let put (s : State) (x : Word64) : State := (s.modWave c.wid fun w => w.setS d.val (Scalar.of x)).advance c.wid
      if eff = 0 then .next (s.advance c.wid)
      else if n = 0 then .next (put (abortOpen c s eff) (noHandle 8))
      else
        match (List.range 8).find? fun e => (s.turnout c.core e).st = .free with
        | none => .next (put (abortOpen c s eff) (noHandle 1))
        | some e =>
          let u := abortOpen c (drainWave s c.wid) eff
          let gr := u.group c.w.group
          let gen := (u.turnout c.core e).gen + 1
          let u := u.modTurnout c.core e fun _ => {
            st := .open_, gen := gen, wave := c.wid, lane := r, n := n, b := size
            entryPc := BitVec.ofNat 48 (c.sVal cc).toNat, window := c.windowOf win r, winVec := win.isV
            mode := gr.mode, seed := gr.seed, after := c.w.nextOp }
          let want := min ((n + size - 1) / size) 128
          let gt := grantAll u c.wid lim c.core e want
          .next (put gt.s (handleWord (if gt.got < want then gt.why else 0) want gt.got gen.toNat e))

/-! ### Handles (R399) -/

/-- What a handle names. -/
inductive HandleUse where
  | empty
  | bad
  | entry (e : Nat)
  deriving DecidableEq, Repr

/-- The entry a handle word names, if it is of this kind of use: its generation is the entry's and its recruiter a lane of
the issuing split. -/
def Ctx.named (c : Ctx) (s : State) (h : Word64) : Bool :=
  let t := s.turnout c.core (h.toNat % 8)
  h.toNat / 2 ^ 8 % 2 ^ 16 = t.gen.toNat && t.wave = c.wid && c.iss.mask.getLsbD t.lane

/-- Validity of a handle (R399). -/
def Ctx.handle (c : Ctx) (s : State) (h : Word64) : HandleUse :=
  let t := s.turnout c.core (h.toNat % 8)
  if !bitOf h.toNat 63 then .empty
  else if t.st ≠ .free ∧ c.named s h then .entry (h.toNat % 8)
  else .bad

/-- The trap of an invalid handle. -/
def badHandle (h : Word64) : TrapInfo := { cause := 134, info := h }

/-- The trap of a chunk in the wrong state. -/
def badChunk (h : Word64) : TrapInfo := { cause := 135, info := h }

/-- The claim word of TCLAIM (R401). -/
def claimWord (t : Turnout) (i : Nat) : Word64 :=
  BitVec.ofNat 64 (2 ^ 63 + (t.last i - t.first i + 1) * 2 ^ 32 + t.first i)

/-- TCLAIM (R401). -/
def execTclaim (g : Guard) (d a : Fin 32) (s : State) : Host.Outcome State Fault Refusal :=
  withCtx s fun c =>
    let h := c.sVal a
    let put (s : State) (x : Word64) : State :=
      ((abortOpen c s (c.eff g)).modWave c.wid fun w => w.setS d.val (Scalar.of x)).advance c.wid
    if !c.guardHolds g then .next (s.advance c.wid)
    else
      match c.handle s h with
      | .empty => .next (put s 0)
      | .bad => instrTrap c s (badHandle h)
      | .entry e =>
        let t := s.turnout c.core e
        if t.own.isSome then instrTrap c s (badChunk h)
        else
          match (if t.st = .open_ ∨ t.st = .draining then t.claim else none) with
          | some (i, t') => .next (put (s.modTurnout c.core e fun _ => { t' with own := some i }) (claimWord t i))
          | none => .next (put s 0)

/-- One more chunk is Committed; with the last one a Draining turnout is Complete (R398). -/
def Turnout.commit (t : Turnout) : Turnout :=
  { t with committed := t.committed + 1
           st := if t.st = .draining ∧ t.committed + 1 = t.chunks then .complete else t.st }

/-- The recruiter form of TDONE (R402). A chunk that TFREE took from the recruiter is no longer held (R404). -/
def execTdoneRecruiter (a : Fin 32) (s : State) : Host.Outcome State Fault Refusal :=
  withCtx s fun c =>
    let h := c.sVal a
    match c.handle s h with
    | .empty => .next ((abortOpen c s c.mask).advance c.wid)
    | .bad => instrTrap c s (if c.named s h && (s.turnout c.core (h.toNat % 8)).lost then badChunk h else badHandle h)
    | .entry e =>
      if (s.turnout c.core e).own.isNone then instrTrap c s (badChunk h)
      else
        let s := s.modTurnout c.core e fun t => { t.commit with own := none, rchunks := satInc t.rchunks }
        .next ((abortOpen c s c.mask).advance c.wid)

/-! ### Commit (R390, R391) -/

/-- What a held entry needs of its page. -/
def HeldOp.need (x : HeldOp) : Need :=
  match x.op.instr with
  | .ffill _ => .both
  | _ => .write

/-- An entry that goes to virtual memory. -/
def HeldOp.virt (x : HeldOp) : Bool :=
  !Instr.scratch x.op.instr && match x.op.instr with
    | .bndmin .. => false
    | _ => true

/-- Translate every held entry; the first that fails. -/
def translateHeld (s : State) (c asid : Nat) : List HeldOp → State × Option (HeldOp × Bad)
  | [] => (s, none)
  | x :: xs =>
    if !x.virt then translateHeld s c asid xs
    else
      match target s c asid (x.op.at_ x.lane) x.need with
      | (s, .error b) => (s, some (x, b))
      | (s, .ok _) => translateHeld s c asid xs

/-- A range lock stands against an entry (R32). -/
def heldLocked (s : State) (c asid gang : Nat) (x : HeldOp) : Bool :=
  let a := x.op.at_ x.lane
  match x.op.instr with
  | .bndmin .. => false
  | _ =>
    if Instr.scratch x.op.instr then
      match scratchTarget s gang a with
      | some (gr, off) => (lockConflict (s.locksAt (s.group gr).core) (.scratch gr) off (Instr.bytes x.op.instr) true).isSome
      | none => false
    else (lockConflict (s.locksAt c) (.virt asid) a.toNat (Instr.bytes x.op.instr) true).isSome

/-- Perform one held entry as an ordinary access of its wave. -/
def performEntry (s : State) (wid : Nat) (x : HeldOp) : State :=
  match s.wave? wid with
  | none => s
  | some w =>
    let o : MemOp := { x.op with id := w.nextOp, mask := laneBit x.lane, done := 0, faulted := 0 }
    (performOp (s.modWave wid fun w => w.pushStore o) wid o o.mask).modWave wid Wave.settleStores

/-- A store of the lane that was sent to another device has not been acknowledged (R449). -/
def Wave.unacknowledged (w : Wave) (l : Nat) : Bool := w.stores.any fun o => !o.scal && o.undone.getLsbD l

/-- Perform the held entries of lane l in order, until one meets a range lock or one before it is not yet acknowledged; those
left. -/
def performHeldAll (s : State) (wid c asid gang l : Nat) : List HeldOp → State × List HeldOp
  | [] => (s, [])
  | x :: xs =>
    if heldLocked s c asid gang x || ((s.wave? wid).map fun w => w.unacknowledged l).getD false then (s, x :: xs)
    else performHeldAll (performEntry s wid x) wid c asid gang l xs

/-- The helper lane of a wave. -/
def State.helper? (s : State) (wid l : Nat) : Option HelperLane := (s.wave? wid).bind fun w => NMap.get? w.helpers l

/-- A wave that is away, in its handler, or about to stop claims no more; its lanes rejoin when it goes on (R394, R395). -/
def Wave.leaving (w : Wave) (s : State) : Bool :=
  w.evictReq || w.frame.inh || ((s.gang? (s.group w.group).gang).map (·.suspendReq)).getD false || match w.place with
    | .resident .. => false
    | _ => true

/-- The chunk is Committed: its flags reach the group's MODE, the commit releases, and the lane claims again (R391). -/
def finishCommit (s : State) (wid l c : Nat) (h : HelperLane) : State :=
  match s.wave? wid with
  | none => s
  | some w =>
    let s := releaseFor s c .release ((h.fence).getD .cluster)
    let s := s.modGroup w.group fun g => { g with mode := modeOr g.mode h.sticky }
    let s := s.modTurnout h.core h.entry Turnout.commit
    if w.release.getLsbD l then endServing s wid l
    else if w.leaving s then
      let s := if w.helperWave then s else s.modWave wid fun w => w.addRejoin [(l, (h.entry, h.gen))]
      endServing s wid l
    else serveNext s wid l h.core h.entry

/-- The chunk is Committing: perform what is left of its entries; once the last is performed it is Committed. -/
def performCommit (s : State) (wid l : Nat) : State :=
  match s.wave? wid with
  | none => s
  | some w =>
    match NMap.get? w.helpers l with
    | none => s
    | some h =>
      let c := waveCore s w
      let r := performHeldAll s wid c w.asid (gangOf s w) l h.buf
      let s := r.1.modWave wid fun w => { w with helpers := NMap.modify w.helpers l fun h => { h with buf := r.2 } }
      if r.2 = [] ∧ !((s.wave? wid).map fun w => w.unacknowledged l).getD false then finishCommit s wid l c h else s

/-- The wait of R391 ends: the lane's loads have returned and its entries are checked; then the chunk commits. A fault found in
the wait is charged.
DEDUCED, unsafe: log entry 43. -/
def tryCommit (s : State) (wid l : Nat) : State :=
  match s.wave? wid with
  | none => s
  | some w =>
    match NMap.get? w.helpers l with
    | none => s
    | some h =>
      match h.phase with
      | .running => s
      | .committing => performCommit s wid l
      | .waiting =>
        match h.late with
        | f :: _ => helperFault s wid (waveCore s w) (waveSlot w) f.hdr f.cause f.addr l
        | [] =>
          if w.loads.any fun o => !o.scal && o.mask.getLsbD l then s
          else
            match translateHeld s (waveCore s w) w.asid h.buf with
            | (s, some (x, b)) => helperFault s wid (waveCore s w) (waveSlot w) x.op.hdr b.1 (x.op.at_ l) l
            | (s, none) =>
              performCommit (s.modWave wid fun w => { w with
                helpers := NMap.modify w.helpers l fun h => { h with phase := .committing } }) wid l

/-- CHUNK_COMMIT (R391). A wave whose stop waited for the chunk may stop then (R406). -/
def execChunkCommit (wave lane : Nat) (s : State) : Host.Outcome State Fault Refusal :=
  let t := tryCommit s wave lane
  let idle := ((t.wave? wave).map fun w => w.issue.isNone).getD false
  .next (if idle && ((s.helper? wave lane).map (·.keep)).getD false then settleBoundary t wave else t)

/-! ### The helper form of TDONE (R402) -/

/-- Lanes whose chunk is done wait in a Held split (R391). -/
def Wave.waitCommit (w : Wave) (m : LaneMask) (pc : VAddr) : Wave :=
  if m = 0 then w
  else
    let w := { w with
      helpers := NMap.mapVal w.helpers fun l h => if m.getLsbD l then { h with phase := .waiting } else h }
    (w.dropLanes m).addSplit { pc := pc, mask := m, state := .held .commit, helper := true } 8

/-- One lane ends an iteration that is not its chunk's last. -/
def nextIteration (s : State) (wid l : Nat) : State :=
  match s.helper? wid l with
  | some h =>
    s.modWave wid fun w => w.startIter l { h with iter := h.iter + 1 } (s.turnout h.core h.entry).entryPc
  | none => s

/-- The lanes' chunks commit before the release that pends (R406). -/
def Wave.keepChunks (w : Wave) (m : LaneMask) : Wave :=
  { w with helpers := NMap.mapVal w.helpers fun l h => if m.getLsbD l then { h with keep := true } else h }

/-- The helper form of TDONE (R402). A release that pends lets the chunk commit (R406). -/
def execTdoneHelper (s : State) : Host.Outcome State Fault Refusal :=
  withCtx s fun c =>
    if !c.helper then instrTrap c s { cause := 2, info := c.iw.word }
    else
      let last := maskOf fun l => c.mask.getLsbD l && match NMap.get? c.w.helpers l with
        | some h => h.iter = h.last
        | none => false
      let s := s.advance c.wid
      let s := s.modWave c.wid fun w => w.waitCommit last c.iss.next
      let s := (lanesOf (c.mask &&& ~~~last)).foldl (fun s l => nextIteration s c.wid l) s
      let pends := c.w.release &&& last
      let now := if c.w.leaving s then last else pends
      .next ((lanesOf now).foldl (fun s l => tryCommit s c.wid l) (s.modWave c.wid fun w => w.keepChunks now))

/-! ### TJOIN and TFREE (R403, R404) -/

/-- TJOIN (R403): the split waits in Held; its end is `endJoin`. -/
def execTjoin (d a : Fin 32) (s : State) : Host.Outcome State Fault Refusal :=
  withCtx s fun c =>
    let h := c.sVal a
    match c.handle s h with
    | .empty =>
      .next (((abortOpen c s c.mask).modWave c.wid fun w => w.setS d.val (Scalar.of 0)).advance c.wid)
    | .bad => instrTrap c s (badHandle h)
    | .entry e =>
      let t := s.turnout c.core e
      if t.st = .releasing then instrTrap c s (badHandle h)
      else if t.own.isSome then instrTrap c s (badChunk h)
      else .next (c.hold (abortOpen c s c.mask) (.tjoin d.val e h))

/-- Release a turnout that is neither Complete nor Free (R404). -/
def freeTurnout (s : State) (c e wid : Nat) (handle : Word64) : State :=
  let t := s.turnout c e
  let s := match t.st, t.fault with
    | .faulted, some f => addFault s wid { f with handle := handle }
    | _, _ => s
  let s := s.modTurnout c e fun t => { t with st := .releasing, own := none, lost := t.own.isSome }
  settleTurnout (markRelease s (servers s c e)) c e

/-- TFREE (R404). -/
def execTfree (g : Guard) (a : Fin 32) (s : State) : Host.Outcome State Fault Refusal :=
  withCtx s fun c =>
    let h := c.sVal a
    if !c.guardHolds g then .next (s.advance c.wid)
    else
      match c.handle s h with
      | .empty => .next ((abortOpen c s (c.eff g)).advance c.wid)
      | .bad => instrTrap c s (badHandle h)
      | .entry e =>
        let s' := abortOpen c s (c.eff g)
        match (s.turnout c.core e).st with
        | .releasing => instrTrap c s (badHandle h)
        | .complete => .next ((s'.modTurnout c.core e fun t => { t with st := .free }).advance c.wid)
        | _ => .next ((freeTurnout s' c.core e c.wid h).advance c.wid)

/-! ### The release of a helper wave (R394, R396) -/

/-- A grid with a gang to place. -/
def Node.wantsCore (n : Node) : Bool :=
  let f := recNat n.bytes
  f 0 1 = 0 && !n.ended && (n.st = .ready || (n.st = .running && n.nextGang < f 0x10 2 * f 0x12 2 * f 0x14 2))

/-- Some placement, restore or resumption may need what a helper wave of the core holds (R396). -/
def coreWanted (s : State) (c : Nat) : Bool :=
  (coreAwaited { s with nodes := [] } c).2 || s.nodes.any fun n => n.2.wantsCore

/-- HELPER_RELEASE (R394, R396): the scheduler needs a helper wave's slot or registers; every lane of it is released. -/
def execHelperRelease (wave : Nat) (s : State) : Host.Outcome State Fault Refusal :=
  match s.wave? wave with
  | some w =>
    match w.helperWave, w.place with
    | true, .resident c _ => .next (if coreWanted s c then markRelease s (w.helpers.map fun h => (wave, h.1)) else s)
    | _, _ => .next s
  | none => .next s

end Sys2Proof.Machine
end

