-- ==== Sys2Proof/Machine/Flume.lean ====
section
/-! DEFINITION. The flume (R446 to R474): communicators, collectives, chunks and their arbitration, reductions, and the
instructions COLL, CWAIT, CSTAT and CABORT. Each rank sends its own blocks to the ranks that need them: the spec leaves a
collective's schedule open, and no result depends on it (R462). DESIGN CHOICE: log entry 30. -/

namespace Sys2Proof.Machine

/-! ### The communicator table and the routes (R448, R450) -/

/-- An entry of the communicator table. -/
structure CommEntry where
  en : Bool
  prio : Nat
  nrank : Nat
  my : Nat
  flume : Nat
  casid : Nat
  ranks : Nat
  chmax : Nat
  tmo : Nat
  ok : Bool
  deriving DecidableEq, Repr

/-- A power of two from 4 KiB to 1 MiB. -/
def chunkSize (n : Nat) : Bool := (List.range 9).any fun k => n = 4096 * 2 ^ k

/-- Entry c of the table at CMBASE as it stands. -/
def commEntry (s : State) (c : Nat) : CommEntry :=
  let a := s.dev.cmBase.toNat + 64 * c
  let f (o n : Nat) : Nat := Memory.readNat s.mem (a + o) n
  { en := bitOf (f 0 1) 0, prio := f 1 1 % 8, nrank := f 2 2, my := f 4 2, flume := f 6 1, casid := f 8 2, ranks := f 16 8
    chmax := f 32 4, tmo := f 36 4
    ok := bitOf (f 0 1) 0 && f 0 1 < 2 && f 1 1 < 8 && 1 ≤ f 2 2 && f 2 2 ≤ 1024 && f 4 2 < f 2 2 && f 6 1 < 4 &&
      f 7 1 = 0 && f 8 2 < 4096 && f 10 6 = 0 && f 16 8 % 64 = 0 && f 24 8 % 65536 = 0 && chunkSize (f 32 4) &&
      f 40 24 = 0 && !lineBad s a && !(s.tower (f 6 1)).gone }

/-- The state of a communicator (R451): Disabled while its entry is not in order or its flume is out of service. -/
def commState (s : State) (c : Nat) : CommState :=
  if !(commEntry s c).ok then .disabled
  else match (s.comm c).st with
    | .disabled => .idle
    | x => x

/-- The other ranks, from the next one round. -/
def CommEntry.peers (e : CommEntry) : List Nat := (List.range (e.nrank - 1)).map fun i => (e.my + 1 + i) % e.nrank

/-- The device identifier of a rank. -/
def CommEntry.device (e : CommEntry) (s : State) (r : Nat) : Nat := Memory.readNat s.mem (e.ranks + 2 * r) 2 % 1024

/-- Port i is up. -/
def portUp (s : State) (i : Nat) : Bool := NMap.getD s.dev.ports i 0 = 2

/-- The ports that reach a device (R448). -/
def routeMask (s : State) (dev : Nat) : Nat := Memory.readNat s.mem (s.dev.rtBase.toNat + 2 * dev) 2 % 4096

def routeUp (s : State) (dev : Nat) : Bool := (List.range 12).any fun i => bitOf (routeMask s dev) i && portUp s i

/-! ### Descriptors (R457, R458, R465) -/

/-- A collective descriptor. -/
structure CollDesc where
  op : Nat
  comm : Nat
  dtype : Nat
  rop : Nat
  root : Nat
  fctl : Nat
  src : Nat
  dst : Nat
  n : Nat
  mset : Nat
  chunk : Nat
  zero : Bool
  deriving DecidableEq, Repr

def readColl (bs : List Byte) : CollDesc :=
  let f (o n : Nat) : Nat := recNat bs o n
  { op := f 0 1, comm := f 1 1, dtype := f 2 1, rop := f 3 1, root := f 4 2, fctl := f 6 1, src := f 8 8, dst := f 16 8
    n := f 24 8, mset := f 32 8, chunk := f 40 4, zero := f 7 1 = 0 && f 44 20 = 0 }

/-- The operations, by OP. -/
def CollDesc.barrier (d : CollDesc) : Bool := d.op = 0
def CollDesc.bcast (d : CollDesc) : Bool := d.op = 1
def CollDesc.gather (d : CollDesc) : Bool := d.op = 2
def CollDesc.redscat (d : CollDesc) : Bool := d.op = 3
def CollDesc.reduces (d : CollDesc) : Bool := 3 ≤ d.op
def CollDesc.isPlane (d : CollDesc) : Bool := d.dtype = 0x10 || d.dtype = 0x11

/-- Bytes of an element. -/
def CollDesc.z (d : CollDesc) : Nat :=
  match d.dtype with
  | 0x06 | 0x0A => 4
  | 0x08 => 8
  | 0x0C | 0x11 => 2
  | _ => 1

/-- The moduli of the planes; a plain block counts as one. -/
def CollDesc.moduli (d : CollDesc) (mset : List Byte) : List Nat :=
  if d.isPlane then (recordChans (readRecord mset)).map (·.m) else [0]

/-- Bytes that a block of k elements spans, with np planes. -/
def CollDesc.span (d : CollDesc) (np k : Nat) : Nat := if k = 0 then 0 else (np - 1) * up64 (k * d.z) + k * d.z

/-- Elements of SRC and of DST on a rank. -/
def CollDesc.srcElems (d : CollDesc) (e : CommEntry) : Nat :=
  if d.barrier || (d.bcast && e.my ≠ d.root) then 0 else if d.redscat then e.nrank * d.n else d.n
def CollDesc.dstElems (d : CollDesc) (e : CommEntry) : Nat :=
  if d.barrier then 0 else if d.gather then e.nrank * d.n else d.n

/-- SRC and DST stand in one of the ways R458 allows. -/
def CollDesc.apart (d : CollDesc) (e : CommEntry) (np : Nat) : Bool :=
  let a := d.span np (d.srcElems e)
  let b := d.span np (d.dstElems e)
  a = 0 || d.src + a ≤ d.dst || d.dst + b ≤ d.src || (d.src = d.dst && a = b && (d.op = 4 || d.bcast))

/-- The descriptor keeps R457, R458 and R465. -/
def CollDesc.ok (d : CollDesc) (e : CommEntry) (mset : List Byte) : Bool :=
  let np := (d.moduli mset).length
  d.op ≤ 4 && d.comm < 16 && d.fctl < 4 && d.zero &&
    if d.barrier then
      d.dtype = 0 && d.rop = 0 && d.root = 0 && d.src = 0 && d.dst = 0 && d.n = 0 && d.mset = 0 && d.chunk = 0
    else
      chunkSize d.chunk && d.chunk ≤ e.chmax && d.src % 64 = 0 && d.dst % 64 = 0 && 1 ≤ d.n && d.n ≤ 2 ^ 32 &&
        (if d.reduces then
          [0x06, 0x08, 0x0A, 0x0C, 0x10, 0x11].contains d.dtype && d.rop ≤ 2 && (!d.isPlane || d.rop = 0)
        else d.dtype = 3 && d.rop = 0) &&
        (if d.isPlane then d.mset % 32 = 0 && recordBytesValid mset else d.mset = 0) &&
        (if d.bcast then d.root < e.nrank && (e.my = d.root || d.src = 0) else d.root = 0) &&
        (!bitOf d.fctl 1 || d.span np (d.dstElems e) % 64 = 0) && d.apart e np

/-- The parts of a payload range that hold data: plane, first byte in it, length. -/
def CollDesc.pieces (d : CollDesc) (np off len : Nat) : List (Nat × Nat × Nat) :=
  let p := up64 (d.n * d.z)
  (List.range np).filterMap fun i =>
    let lo := max off (i * p)
    let hi := min (off + len) (i * p + d.n * d.z)
    if lo < hi then some (i, lo - i * p, hi - lo) else none

/-- Bytes of data in a payload range. -/
def CollDesc.dataLen (d : CollDesc) (np off len : Nat) : Nat := (d.pieces np off len).foldl (fun n x => n + x.2.2) 0

/-- The addresses of a payload range of the block that starts at element e0 of a tensor of k elements. -/
def CollDesc.places (d : CollDesc) (np base k e0 off len : Nat) : List (Nat × Nat) :=
  (d.pieces np off len).map fun x => (base + x.1 * up64 (k * d.z) + e0 * d.z + x.2.1, x.2.2)

/-! ### The flume's own accesses (R459, R466) -/

/-- The cause a failed access ends a collective with: 119 for a translation fault, else the access's own.
DEDUCED, unsafe: log entry 44. -/
def flumeFault (c : Nat) (b : Bad) (a : Nat) : LateFault :=
  { cause := if 32 ≤ b.1.toNat ∧ b.1.toNat ≤ 39 then 119 else b.1, addr := BitVec.ofNat 64 a, info := BitVec.ofNat 64 c }

/-- The physical place of an access of a flume. -/
def flumePlace (s : State) (core asid a : Nat) (need : Need) : State × Except Bad Phys :=
  if !vaOk a 1 then (s, .error (39, 0))
  else
    match translate s core asid a need with
    | (s, .error b) => (s, .error b)
    | (s, .ok p) =>
      if p.host then (s, .ok p)
      else if p.remote then (s, .error (46, 0))
      else if (if need = .read then lineBad s p.pa else !reaches s p.pa) then (s, .error (42, 0))
      else (s, .ok p)

/-- Read a virtual range at its home slices. -/
def flumeRead (s : State) (c core asid a n : Nat) : State × Except LateFault (List Byte) :=
  (linePieces a n).foldl (fun r x =>
    match r with
    | (s, .error e) => (s, .error e)
    | (s, .ok bs) =>
      match flumePlace s core asid x.1 .read with
      | (s, .error b) => (s, .error (flumeFault c b x.1))
      | (s, .ok p) => (s, .ok (bs ++ Memory.readBytes (if p.host then s.hostMem else s.mem) p.pa x.2))) (s, .ok [])

/-- Bytes have been written to a line of DST: once its final value is whole its counter takes one contribution (R465). -/
def fillLine (s : State) (c a ln n : Nat) : State :=
  let got := NMap.getD (s.comm c).run.filled (a / 64) 0 + n
  let s := s.modComm c fun k => { k with run := { k.run with filled := NMap.set k.run.filled (a / 64) got } }
  if got = 64 then countLine s ln 1 else s

/-- Write a virtual range at its home slices; no copy of a line stays in the L1s of the issuing core's cluster (R233). With
`count` the write adds to the lines' counters (R221). -/
def flumeWrite (s : State) (c core asid a : Nat) (bs : List Byte) (count : Bool) : State × Option LateFault :=
  (linePieces a bs.length).foldl (fun r x =>
    match r with
    | (s, some e) => (s, some e)
    | (s, none) =>
      match flumePlace s core asid x.1 .write with
      | (s, .error b) => (s, some (flumeFault c b x.1))
      | (s, .ok p) =>
        let part := (bs.drop (x.1 - a)).take x.2
        if p.host then ({ s with hostMem := Memory.writeBytes s.hostMem p.pa part }, none)
        else
          let k := clusterOf core
          let s := homeWrite (dropCopies (writeBackTo s k (lineNo p.pa)) k (lineNo p.pa)) p.pa part
          (if count then fillLine s c x.1 (lineNo p.pa) x.2 else s, none)) (s, none)

/-- Read several ranges one after the other. -/
def flumeReads (s : State) (c core asid : Nat) (ps : List (Nat × Nat)) : State × Except LateFault (List Byte) :=
  ps.foldl (fun r x =>
    match r with
    | (s, .error e) => (s, .error e)
    | (s, .ok bs) =>
      match flumeRead s c core asid x.1 x.2 with
      | (s, .error e) => (s, .error e)
      | (s, .ok more) => (s, .ok (bs ++ more))) (s, .ok [])

/-- Write bytes over several ranges one after the other. -/
def flumeWrites (s : State) (c core asid : Nat) (count : Bool) : List (Nat × Nat) → List Byte → State × Option LateFault
  | [], _ => (s, none)
  | (a, n) :: ps, bs =>
    match flumeWrite s c core asid a (bs.take n) count with
    | (s, some e) => (s, some e)
    | (s, none) => flumeWrites s c core asid count ps (bs.drop n)

/-! ### Contribution counters (R220, R465) -/

/-- Counters in use at the home slice of a line. -/
def countersAt (s : State) (slice : Nat) : Nat :=
  (s.lines.filter fun x => x.2.counter.isSome && homeSlice s (64 * x.1) = slice).length

/-- Why a line's counter cannot be armed, if so: 1 no counter is free, 2 it is armed already (R220, R433). -/
def armFails (s : State) (ln : Nat) : Option Nat :=
  if (s.line ln).counter.isSome then some 2
  else if 4096 ≤ countersAt s (homeSlice s (64 * ln)) then some 1
  else none

/-- Disarm a line: its words become Full (R465). -/
def disarmLine (s : State) (ln : Nat) : State :=
  if (s.line ln).counter.isSome then
    (List.range 8).foldl (fun s w => wakeWord s ln w) (s.modLine ln fun i => { i with counter := none })
  else s

/-! ### Ending collectives (R451, R468) -/

/-- A collective ends on this device: its token, its wave's list, and the communicator's counts (R471). -/
def endColl (s : State) (c : Nat) (q : Coll) (f : LateFault) (report : Bool) : State :=
  let s := finishToken (wideToken s q.wave q.token.val) q.wave q.token.val f report
  let s := s.modWave q.wave fun w => { w with colls := w.colls.filter fun x => x.2 ≠ q.id }
  s.modComm c fun k => { k with ndone := k.ndone + 1, last := f.cause }

/-- A cause with the communicator as its information (R429). -/
def commFault (c : Nat) (cause : BitVec 8) (a : Word64 := 0) : LateFault :=
  { cause := cause, addr := a, info := BitVec.ofNat 64 c }

/-- Release every lock of a communicator's collective. -/
def dropCommLocks (s : State) (c : Nat) : State :=
  let mine (o : LockOwner) : Bool := match o with
    | .flume x _ => x = c
    | _ => false
  { s with cores := NMap.mapVal s.cores fun _ k => { k with locks := k.locks.filter fun l => !mine l.owner } }

/-- Range-lock entries a communicator's collective holds. -/
def commLocks (s : State) (c : Nat) : Nat :=
  s.cores.foldl (fun n k => n + (k.2.locks.filter fun l => match l.owner with
    | .flume x _ => x = c
    | _ => false).length) 0

/-- Stop what runs for a communicator: its chunks, its receive area, its locks, its counters (R465, R468). -/
def stopRun (s : State) (c : Nat) : State :=
  let clear (x : Option Chunk) : Option Chunk := x.filter fun k => k.comm ≠ c
  let s := dropCommLocks s c
  let s := { s with towers := NMap.mapVal s.towers fun _ t => { t with slotA := clear t.slotA, slotB := clear t.slotB } }
  let s := (s.comm c).run.armed.foldl disarmLine s
  s.modComm c fun k => { k with rx := [], run := {} }

/-- What the head of a communicator's queue comes to: it begins to match, or ends at once. -/
def settleQueue (c : Nat) : List Coll → State → State
  | [], s => s
  | q :: rest, s =>
    match commState s c with
    | .disabled =>
      settleQueue c rest (endColl (s.modComm c fun k => { k with queue := rest }) c q (commFault c 115) true)
    | .aborting =>
      settleQueue c rest (endColl (s.modComm c fun k => { k with queue := rest }) c q (commFault c 117)
        (decide ((s.comm c).abortBy ≠ some q.wave)))
    | .idle => s.modComm c fun k => { k with st := .matching, run := { lastRx := s.tick } }
    | .matching | .running => s

def settleComm (s : State) (c : Nat) : State := settleQueue c (s.comm c).queue s

/-- The current collective ends on every rank alike, and the communicator is Idle again. -/
def closeColl (s : State) (c : Nat) (f : LateFault) : State :=
  match (s.comm c).queue with
  | [] => s
  | q :: rest =>
    let s := (stopRun s c).modComm c fun k => { k with queue := rest, st := .idle }
    settleComm (endColl s c q f true) c

/-- The communicator begins to abort: every peer is told, and acknowledges. -/
def startAbort (s : State) (c : Nat) (by_ : Option Nat) : State :=
  let ps := (commEntry s c).peers
  s.modComm c fun k => { k with st := if ps = [] then .idle else .aborting, acks := ps, abortBy := by_ }

/-- The current collective ends here with a cause, and its peers are told to abort (R467, R468). -/
def failColl (s : State) (c : Nat) (f : LateFault) : State :=
  match (s.comm c).queue with
  | [] => s
  | q :: rest =>
    let s := (stopRun s c).modComm c fun k => { k with queue := rest }
    settleComm (startAbort (endColl s c q f true) c none) c

/-- The communicator has a collective that has started (R451). -/
def commActive (s : State) (c : Nat) : Bool :=
  (s.comm c).queue ≠ [] && (commState s c = .matching || commState s c = .running)

/-- An active communicator that cannot reach one of its peers ends its collective (R448, R467). -/
def checkRoutes (s : State) (c : Nat) : State :=
  let e := commEntry s c
  if commActive s c && e.peers.any fun r => !routeUp s (e.device s r) then failColl s c (commFault c 116) else s

/-! ### COLL (R469) -/

/-- What COLL reads: its descriptor, communicator and modulus set; `early` ends it before it enters a queue. -/
def collRead (x : Ctx) (s : State) (a : Word64) (q : Coll) : State × Coll :=
  match recordRead x s a 64 with
  | (s, .error (b, va)) => (s, { q with early := some { cause := b.1, addr := BitVec.ofNat 64 va, info := b.2 } })
  | (s, .ok bs) =>
    let d := readColl bs
    let c := d.comm % 16
    let e := commEntry s c
    let q := { q with desc := bs, comm := c }
    if !e.ok || e.casid ≠ x.w.asid then (s, { q with early := some (commFault c 115) })
    else if d.isPlane then
      match recordRead x s (BitVec.ofNat 64 d.mset) 32 with
      | (s, .error (b, va)) => (s, { q with bad := some { cause := b.1, addr := BitVec.ofNat 64 va, info := b.2 } })
      | (s, .ok ms) => (s, { q with mset := ms, bad := if d.ok e ms then none else some (commFault c 114 a) })
    else (s, { q with bad := if d.ok e [] then none else some (commFault c 114 a) })

/-- The record of a residue set that a COLL names, still to be written by an earlier access of the wave. -/
def setWaits (s : State) (wid : Nat) (q : Coll) : Bool :=
  let d := readColl q.desc
  d.isPlane && q.early.isNone && recordWaits s wid (BitVec.ofNat 64 d.mset) 32

/-- COLL (R469). While an earlier access of the wave is not performed it is held as for a guard that is true (R231). -/
def execColl (g : Guard) (d a : Fin 32) (t : TickArg) (s : State) : Host.Outcome State Fault Refusal :=
  withCtx s fun c =>
    match valueCheck c s (.coll g d a t) with
    | some x => instrTrap c s x
    | none =>
      c.whenGuard s g fun u gr =>
        let v := drainWave u c.wid
        let gr := if gr.isNone && !waveClear v c.wid c.w.nextOp then some { value := true } else gr
        let q : Coll := { id := v.stamp, wave := c.wid, core := c.core, asid := c.w.asid, token := d, comm := 0, desc := []
                          addr := c.sVal a, tick := c.tick t, guard := gr, after := c.w.nextOp }
        let r := collRead c (if gr.isNone then releaseDevice v (clusterOf c.core) else v) (c.sVal a) q
        if 16 ≤ (u.core c.core).flumeQ.length ∨ recordWaits v c.wid (c.sVal a) 64 ∨ setWaits v c.wid r.2 then .next (v.stall c)
        else
          let u := pendToken (abortOpen c r.1 (c.eff g)) c.wid d.val
          match gr, r.2.early with
          | none, some f => .next ((finishToken u c.wid d.val f true).advance c.wid)
          | _, _ =>
            let u := u.bump.modWave c.wid fun w => { w with colls := w.colls ++ [(r.2.comm, q.id)] }
            .next ((u.modCore c.core fun k => { k with flumeQ := k.flumeQ ++ [r.2] }).advance c.wid)

/-- Resolve the guard of the collective at the head of a core's queue (R37, R38); one that is true waits for its wave's earlier
accesses and then releases at DEVICE scope (R466). -/
def resolveColl (s : State) (core : Nat) : State :=
  match (s.core core).flumeQ with
  | [] => s
  | q :: rest =>
    match q.guard.bind s.resolved with
    | none => s
    | some g =>
      let drop (s : State) (f : LateFault) (report : Bool) : State :=
        let s := s.modCore core fun k => { k with flumeQ := rest }
        (finishToken s q.wave q.token.val f report).modWave q.wave fun w => { w with
          colls := w.colls.filter fun x => x.2 ≠ q.id }
      match g.cause, g.value, q.early with
      | some k, _, _ => drop s { cause := k } false
      | none, false, _ => drop s { cause := 0 } false
      | none, true, early =>
        if !waveClear s q.wave q.after then s
        else
          let s := releaseDevice s (clusterOf core)
          match early with
          | some f => drop s f true
          | none => s.modCore core fun k => { k with flumeQ := { q with guard := none } :: rest }

/-- COLL_DEQUEUE: the head of a core's queue goes to its communicator once its tick has passed and there is room. -/
def execCollDequeue (core : Nat) (s : State) : Host.Outcome State Fault Refusal :=
  match (s.core core).flumeQ with
  | [] => .next s
  | q :: rest =>
    let due := match q.tick with
      | some t => decide (t.toNat ≤ s.tick.toNat)
      | none => true
    if q.guard.isSome || !due || 16 ≤ (s.comm q.comm).queue.length then .next s
    else
      let s := (s.modCore core fun k => { k with flumeQ := rest }).modComm q.comm fun k => { k with queue := k.queue ++ [q] }
      .next (settleComm s q.comm)

/-! ### Header exchange (R461, R465) -/

/-- The header a rank sends. -/
def Coll.header (q : Coll) : CollHeader :=
  let d := readColl q.desc
  { op := d.op, dtype := d.dtype, rop := d.rop, root := d.root, fctl := d.fctl, count := d.n, chunk := d.chunk
    mset := q.mset, bad := q.bad.isSome }

/-- The chunks this rank sends, in its schedule. -/
def sendList (e : CommEntry) (d : CollDesc) (c coll np : Nat) (first : Nat) : List Chunk :=
  let len := d.span np d.n
  let tgts := if d.barrier || (d.bcast && e.my ≠ d.root) then [] else e.peers
  let per := (len + d.chunk - 1) / d.chunk
  tgts.zipIdx.flatMap fun r => (List.range per).map fun i =>
    { id := first + r.2 * per + i, comm := c, coll := coll, peer := r.1, off := i * d.chunk,
      len := min d.chunk (len - i * d.chunk) }

/-- The ranks whose data this rank receives. -/
def senders (e : CommEntry) (d : CollDesc) : List Nat :=
  if d.barrier then [] else if d.bcast then (if e.my = d.root then [] else [d.root]) else e.peers

/-- Arm the counters of every line of DST, or none (R465): the lines armed, or the address of the line that failed. -/
def armAll (s : State) (q : Coll) (d : CollDesc) (np k : Nat) : State × Except LateFault (List Nat) :=
  let ranges := (List.range np).map fun i => (d.dst + i * up64 (k * d.z), k * d.z)
  (ranges.flatMap fun x => linePieces x.1 x.2).foldl (fun r x =>
    match r with
    | (s, .error e) => (s, .error e)
    | (s, .ok ls) =>
      let fail (s : State) (f : LateFault) : State × Except LateFault (List Nat) := (ls.foldl disarmLine s, .error f)
      match flumePlace s q.core q.asid x.1 .write with
      | (s, .error b) => fail s (flumeFault q.comm b x.1)
      | (s, .ok p) =>
        if p.host || (armFails s (lineNo p.pa)).isSome then
          fail s { cause := 118, addr := BitVec.ofNat 64 x.1, info := 0 }
        else (armLine s (lineNo p.pa) 1, .ok (ls ++ [lineNo p.pa]))) (s, .ok [])

/-- The collective enters Running. -/
def startRun (s : State) (c : Nat) (e : CommEntry) (q : Coll) : State :=
  let d := readColl q.desc
  let ms := d.moduli q.mset
  if d.dtype = 0x10 && ms.any fun m => decide (256 < m) then closeColl s c (commFault c 79)
  else
    let (s, armed) := if bitOf d.fctl 1 && !d.barrier then armAll s q d ms.length (d.dstElems e) else (s, .ok [])
    match armed with
    | .error f => failColl s c f
    | .ok ls =>
      s.modComm c fun k =>
        let todo := sendList e d c q.id ms.length (k.nextChunk + 1)
        { k with st := .running, nextChunk := k.nextChunk + todo.length
                 run := { k.run with todo := todo, armed := ls, localDone := d.barrier, lastRx := s.tick } }

/-- FLUME_HEADER_EXCHANGE (R461): every other rank's header is here. -/
def execFlumeHeaderExchange (comm : Nat) (headers : List (Nat × CollHeader)) (s : State) : Host.Outcome State Fault Refusal :=
  let e := commEntry s comm
  match (s.comm comm).queue with
  | [] => .next s
  | q :: _ =>
    if commState s comm ≠ .matching ∨ !(e.peers.all fun r => headers.any fun h => h.1 = r) then .next s
    else
      let own := q.header
      let others := headers.filter fun h => e.peers.contains h.1
      if own.bad then .next (closeColl s comm (q.bad.getD (commFault comm 114 q.addr)))
      else if others.any fun h => h.2 ≠ own then .next (closeColl s comm (commFault comm 114 q.addr))
      else .next (startRun s comm e q)

/-! ### Chunks (R454, R455) -/

/-- The SRC ranges that a chunk reads. -/
def chunkPlaces (e : CommEntry) (q : Coll) (k : Chunk) : List (Nat × Nat) :=
  let d := readColl q.desc
  d.places (d.moduli q.mset).length d.src (d.srcElems e) (if d.redscat then k.peer * d.n else 0) k.off k.len

/-- Locks on virtual ranges for an item of a communicator. -/
def flumeLocks (q : Coll) (c item : Nat) (write : Bool) (ps : List (Nat × Nat)) : List Lock :=
  ps.map fun x => Lock.of (.virt q.asid) x.1 x.2 write (.flume c item)

/-- The read locks of a chunk; one sent again has its data already. -/
def chunkLocks (e : CommEntry) (q : Coll) (k : Chunk) : List Lock :=
  if k.data.isSome then [] else flumeLocks q k.comm k.id false (chunkPlaces e q k)

/-- A chunk is eligible: its collective runs, it holds a credit, and its locks can be taken (R454). -/
def chunkReady (s : State) (e : CommEntry) (q : Coll) (k : Chunk) : Bool :=
  1 ≤ NMap.getD (s.comm k.comm).credits k.peer 0 && s.lockable q.core (chunkLocks e q k)

/-- The chunk a communicator of a flume would send next. -/
def nextChunkOf (s : State) (t c : Nat) : Option (Coll × Chunk) :=
  let e := commEntry s c
  match (s.comm c).queue with
  | [] => none
  | q :: _ =>
    if commState s c = .running ∧ e.flume = t then
      ((s.comm c).run.todo.find? fun k => chunkReady s e q k).map fun k => (q, k)
    else none

/-- The communicator that a free slot serves: highest priority, then round-robin (R455). -/
def grantChoice (s : State) (t : Nat) : Option (Nat × Coll × Chunk) :=
  let cs := (List.range 16).filterMap fun c => (nextChunkOf s t c).map fun x => (c, x.1, x.2)
  let top := cs.foldl (fun p x => max p (commEntry s x.1).prio) 0
  let mine := cs.filter fun x => (commEntry s x.1).prio = top
  (rotateFrom 16 (NMap.get? (s.tower t).lastComm top)).findSome? fun c => mine.find? fun x => x.1 = c

/-- FLUME_CHUNK_GRANT (R455): a free slot, A before B, takes a chunk; one with no port to its peer ends its collective. -/
def execFlumeChunkGrant (tower : Nat) (s : State) : Host.Outcome State Fault Refusal :=
  let t := s.tower tower
  if t.gone || (t.slotA.isSome && t.slotB.isSome) then .next s
  else
    match grantChoice s tower with
    | none => .next s
    | some (c, q, k) =>
      let e := commEntry s c
      if !routeUp s (e.device s k.peer) then .next (failColl s c (commFault c 116))
      else
        match takeLocks s q.core (chunkLocks e q k) with
        | none => .next s
        | some s =>
          let s := s.modComm c fun x => { x with
            credits := NMap.set x.credits k.peer (NMap.getD x.credits k.peer 0 - 1)
            run := { x.run with todo := x.run.todo.erase k } }
          .next (s.modTower tower fun t =>
            let t := { t with lastComm := NMap.set t.lastComm e.prio c }
            if t.slotA.isNone then { t with slotA := some k } else { t with slotB := some k })

/-- FLUME_CHUNK_DONE (R454): the chunk in a slot has been sent; its slot and locks are free. -/
def execFlumeChunkDone (tower : Nat) (slotB : Bool) (s : State) : Host.Outcome State Fault Refusal :=
  let t := s.tower tower
  match (if slotB then t.slotB else t.slotA) with
  | none => .next s
  | some k =>
    match (s.comm k.comm).queue with
    | [] => .next s
    | q :: _ =>
      let free (s : State) : State :=
        dropLocks (s.modTower tower fun t => if slotB then { t with slotB := none } else { t with slotA := none }) q.core
          (.flume k.comm k.id)
      let keep (s : State) (bs : List Byte) : State :=
        s.modComm k.comm fun x => { x with run := { x.run with sent := x.run.sent ++ [{ k with data := some bs }] } }
      match k.data with
      | some bs => .next (free (keep s bs))
      | none =>
        match flumeReads s k.comm q.core q.asid (chunkPlaces (commEntry s k.comm) q k) with
        | (s, .error f) => .next (failColl s k.comm f)
        | (s, .ok bs) => .next (free (keep s bs))

/-- Something has arrived on the communicator's channel. -/
def arrived (s : State) (c : Nat) : State := s.modComm c fun k => { k with run := { k.run with lastRx := s.tick } }

/-- FLUME_CHUNK_RECEIVE (R467): a chunk with a good CRC takes a buffer; a bad one is asked for once more. -/
def execFlumeChunkReceive (comm rank off : Nat) (data : List Byte) (crcOk : Bool) (s : State) :
    Host.Outcome State Fault Refusal :=
  let e := commEntry s comm
  match (s.comm comm).queue with
  | [] => .next s
  | q :: _ =>
    let d := readColl q.desc
    let np := (d.moduli q.mset).length
    let len := min d.chunk (d.span np d.n - off)
    let run := (s.comm comm).run
    if commState s comm ≠ .running ∨ !(senders e d).contains rank ∨ run.recvd.contains (rank, off) ∨ off % d.chunk ≠ 0 ∨
        d.span np d.n ≤ off ∨ data.length ≠ d.dataLen np off len ∨ 2 ≤ (s.comm comm).rx.length then .next s
    else
      let s := arrived s comm
      if crcOk then
        .next (s.modComm comm fun k => { k with
          rx := k.rx ++ [{ rank := rank, off := off, data := data }]
          run := { k.run with recvd := k.run.recvd ++ [(rank, off)] } })
      else if run.retried.contains (rank, off) then .next (failColl s comm (commFault comm 120))
      else .next (s.modComm comm fun k => { k with run := { k.run with retried := k.run.retried ++ [(rank, off)] } })

/-! ### Reductions (R462, R463) -/

/-- Combine two FP32 values of the canonical tree: RNE, no FTZ. -/
def treeNode (rop : Nat) (a b : Nat) : Nat × Sticky :=
  RedOp.float (if rop = 0 then .add else if rop = 1 then .min else .max) .f32 (fun _ => { rnd := 1, ftz := false, u := 0 }) a b

/-- The smallest k with n ≤ 2^k. -/
def treeDepth (n : Nat) : Nat := if n ≤ 1 then 0 else (n - 1).log2 + 1

/-- A reduced element with its flags, and whether a residue was invalid. -/
structure Reduced where
  x : Nat
  fl : Sticky := 0
  bad : Bool := false
  deriving DecidableEq, Repr

/-- Element values of all ranks, by rank, reduced (R462); `m` is the plane's modulus. -/
def CollDesc.reduce (d : CollDesc) (m : Nat) (xs : List Nat) : Reduced :=
  if d.isPlane then
    { x := (xs.map fun x => if x < m then x else 0).foldl (fun a b => (a + b) % m) 0, bad := xs.any fun x => decide (m ≤ x) }
  else if d.dtype = 0x0A ∨ d.dtype = 0x0C then
    let leaf (r : Nat) : Option Block := (xs[r]?).map fun x => ⟨if d.dtype = 0x0C then x * 2 ^ 16 else x, 0, r⟩
    match blockOf (fun _ _ a b => treeNode d.rop a b) leaf (treeDepth xs.length) 0 with
    | none => { x := 0 }
    | some b =>
      if d.dtype = 0x0C then
        let v := fp32.read false b.v
        let r := bf16.round { rnd := 1, ftz := false, u := 0 } v.pre
        { x := r.1, fl := b.fl ||| r.2 ||| sigFlag [v] }
      else { x := b.v, fl := b.fl }
  else
    let op : RedOp := if d.rop = 0 then .add else if d.rop = 1 then .min else .max
    match xs with
    | [] => { x := 0 }
    | x :: rest => { x := rest.foldl (RedOp.int op (8 * d.z) true) x }

/-- Every element of a payload range reduced, as bytes. -/
def reduceBytes (d : CollDesc) (ms : List Nat) (blocks : List Memory) : List Byte × Sticky × Bool :=
  let p := up64 (d.n * d.z)
  ms.zipIdx.foldl (fun r m => (List.range d.n).foldl (fun r e =>
    let v := d.reduce m.1 (blocks.map fun b => Memory.readNat b (m.2 * p + e * d.z) d.z)
    (r.1 ++ leBytes v.x d.z, r.2.1 ||| v.fl, r.2.2 || v.bad)) r) ([], 0, false)

/-! ### The receive drain (R453, R459) and the local part -/

/-- The whole payload. -/
def CollDesc.len (d : CollDesc) (np : Nat) : Nat := d.span np d.n

/-- Put the bytes of a payload range into a rank's payload. -/
def putPayload (d : CollDesc) (np off len : Nat) (m : Memory) (bs : List Byte) : Memory :=
  let p := up64 (d.n * d.z)
  ((d.pieces np off len).foldl (fun (r : Memory × List Byte) x =>
    (Memory.writeBytes r.1 (x.1 * p + x.2.1) (r.2.take x.2.2), r.2.drop x.2.2)) (m, bs)).1

/-- Where in DST a received chunk goes, for the operations that write it at once. -/
def rxPlaces (d : CollDesc) (e : CommEntry) (np : Nat) (x : RxChunk) : List (Nat × Nat) :=
  if d.reduces then []
  else d.places np d.dst (d.dstElems e) (if d.gather then x.rank * d.n else 0) x.off (min d.chunk (d.len np - x.off))

/-- Drain the oldest received chunk: take its locks, then write it and free its buffer. -/
def drainRx (s : State) (c : Nat) (e : CommEntry) (q : Coll) (x : RxChunk) (rest : List RxChunk) : State :=
  let d := readColl q.desc
  let np := (d.moduli q.mset).length
  let ps := rxPlaces d e np x
  if x.item = 0 then
    let item := (s.comm c).nextChunk + 1
    match takeLocks s q.core (flumeLocks q c item true ps) with
    | none => s
    | some s => s.modComm c fun k => { k with rx := { x with item := item } :: rest, nextChunk := item }
  else
    match flumeWrites s c q.core q.asid (bitOf d.fctl 1) ps x.data with
    | (s, some f) => failColl s c f
    | (s, none) =>
      (dropLocks s q.core (.flume c x.item)).modComm c fun k => { k with
        rx := rest
        run := { k.run with
          gotLen := NMap.set k.run.gotLen x.rank (NMap.getD k.run.gotLen x.rank 0 + x.data.length)
          got := if d.reduces then
              NMap.set k.run.got x.rank
                (putPayload d np x.off (min d.chunk (d.len np - x.off)) (NMap.getD k.run.got x.rank []) x.data)
            else k.run.got } }

/-- Everything has been received, and every chunk of this rank sent. -/
def partReady (s : State) (c : Nat) (e : CommEntry) (q : Coll) : Bool :=
  let d := readColl q.desc
  let np := (d.moduli q.mset).length
  let run := (s.comm c).run
  let mine (k : Option Chunk) : Bool := (k.map fun k => decide (k.comm = c)).getD false
  (senders e d).all (fun r => NMap.getD run.gotLen r 0 = d.n * d.z * np) && run.todo = [] &&
    !mine (s.tower e.flume).slotA && !mine (s.tower e.flume).slotB

/-- The ranges of DST that the local part writes: a reduction's block, or this rank's own copy. -/
def localPlaces (d : CollDesc) (e : CommEntry) (np : Nat) : List (Nat × Nat) :=
  let all (e0 : Nat) : List (Nat × Nat) := d.places np d.dst (d.dstElems e) e0 0 (d.len np)
  if d.reduces then all 0
  else if d.gather then all (e.my * d.n)
  else if d.bcast && e.my = d.root && d.src ≠ d.dst then all 0
  else []

/-- The block of SRC that this rank contributes itself. -/
def ownPlaces (d : CollDesc) (e : CommEntry) (np : Nat) : List (Nat × Nat) :=
  d.places np d.src (d.srcElems e) (if d.redscat then e.my * d.n else 0) 0 (d.len np)

/-- The bytes the local part writes, with the flags raised and whether a residue was invalid. The flags that other ranks
raise in their own blocks of a reduce-scatter are theirs to tell: a free value. -/
def localBytes (s : State) (c : Nat) (e : CommEntry) (q : Coll) : State × Except LateFault (List Byte × Sticky × Bool) :=
  let d := readColl q.desc
  let ms := d.moduli q.mset
  match flumeReads s c q.core q.asid (ownPlaces d e ms.length) with
  | (s, .error f) => (s, .error f)
  | (s, .ok own) =>
    if d.reduces then
      let mine := putPayload d ms.length 0 (d.len ms.length) [] own
      let r := reduceBytes d ms ((List.range e.nrank).map fun i =>
        if i = e.my then mine else NMap.getD (s.comm c).run.got i [])
      let far := d.redscat && (d.dtype = 0x0A || d.dtype = 0x0C) && 1 < e.nrank
      let fl : Sticky := if far then BitVec.ofNat 8 (Config.word s.free).toNat &&& (fNV ||| fOF ||| fUF ||| fNX) else 0
      ({ s with free := s.free + 1 }, .ok (r.1, r.2.1 ||| fl, r.2.2))
    else (s, .ok (own, 0, false))

/-- The local part: take the locks of DST, then write it. -/
def localPart (s : State) (c : Nat) (e : CommEntry) (q : Coll) : State :=
  let d := readColl q.desc
  let ps := localPlaces d e (d.moduli q.mset).length
  if ps = [] then s.modComm c fun k => { k with run := { k.run with localDone := true } }
  else if !(s.comm c).run.writing then
    match takeLocks s q.core (flumeLocks q c 0 true ps) with
    | none => s
    | some s => s.modComm c fun k => { k with run := { k.run with writing := true } }
  else
    match localBytes s c e q with
    | (s, .error f) => failColl s c f
    | (s, .ok (bs, fl, bad)) =>
      match flumeWrites s c q.core q.asid (bitOf d.fctl 1) ps bs with
      | (s, some f) => failColl s c f
      | (s, none) =>
        (dropLocks s q.core (.flume c 0)).modComm c fun k => { k with
          run := { k.run with localDone := true, flags := fl, cause := if bad then some 78 else none } }

/-- The rank may complete: its part is done, and where the collective asks for it every rank has written its DST (R460). -/
def mayComplete (s : State) (c : Nat) (e : CommEntry) (q : Coll) : Bool :=
  let d := readColl q.desc
  let run := (s.comm c).run
  run.localDone && partReady s c e q && (!(d.barrier || bitOf d.fctl 0) || e.peers.all fun r => run.wrote.contains r)

/-- The collective completes: the flags of its reduction reach the group's MODE (R109, R110, R463). -/
def completeColl (s : State) (c : Nat) (q : Coll) : State :=
  let run := (s.comm c).run
  let s := match s.wave? q.wave with
    | some w => reportFlags (s.modGroup w.group fun g => { g with mode := modeOr g.mode run.flags }) w.group run.flags
    | none => s
  closeColl s c (commFault c (run.cause.getD 0))

/-- FLUME_RECEIVE_DRAIN (R453): the drain of a communicator moves on by one action; when its part is whole the rank
completes. -/
def execFlumeReceiveDrain (comm : Nat) (s : State) : Host.Outcome State Fault Refusal :=
  let e := commEntry s comm
  match (s.comm comm).queue with
  | [] => .next s
  | q :: _ =>
    if commState s comm ≠ .running then .next s
    else
      match (s.comm comm).rx with
      | x :: rest => .next (drainRx s comm e q x rest)
      | [] =>
        if mayComplete s comm e q then .next (completeColl s comm q)
        else if partReady s comm e q ∧ !(s.comm comm).run.localDone then .next (localPart s comm e q)
        else .next s

/-- FLUME_RANK_DST_WRITTEN (R460): a message tells that a rank has written its DST. -/
def execFlumeRankDstWritten (comm rank : Nat) (s : State) : Host.Outcome State Fault Refusal :=
  let e := commEntry s comm
  match (s.comm comm).queue with
  | [] => .next s
  | q :: _ =>
    if commState s comm ≠ .running ∨ !e.peers.contains rank then .next s
    else
      let s := (arrived s comm).modComm comm fun k => { k with run := { k.run with wrote := (k.run.wrote ++ [rank]).dedup } }
      .next (if mayComplete s comm e q then completeColl s comm q else s)

/-! ### Credits, resends, aborts and timeouts (R451, R453, R467) -/

/-- FLUME_CREDIT_GRANT (R453): a peer has a chunk buffer free; it has two. -/
def execFlumeCreditGrant (comm rank : Nat) (s : State) : Host.Outcome State Fault Refusal :=
  if commState s comm = .disabled ∨ !(commEntry s comm).peers.contains rank ∨ 2 ≤ NMap.getD (s.comm comm).credits rank 0 then
    .next s
  else .next ((arrived s comm).modComm comm fun k => { k with
    credits := NMap.set k.credits rank (NMap.getD k.credits rank 0 + 1) })

/-- FLUME_RESEND_REQUEST (R467): a chunk that a peer could not read is sent again, with the data it had. -/
def execFlumeResendRequest (comm rank off : Nat) (s : State) : Host.Outcome State Fault Refusal :=
  match (s.comm comm).run.sent.find? fun k => k.peer = rank && k.off = off with
  | some k =>
    if commState s comm ≠ .running then .next s
    else .next ((arrived s comm).modComm comm fun x => { x with
      run := { x.run with todo := k :: x.run.todo, sent := x.run.sent.erase k } })
  | none => .next s

/-- FLUME_ABORT_MESSAGE (R467): a peer has ended its collective; the one here ends with 117, with those queued. -/
def execFlumeAbortMessage (comm rank : Nat) (s : State) : Host.Outcome State Fault Refusal :=
  if !(commEntry s comm).peers.contains rank then .next s
  else if commActive s comm then .next (failColl (arrived s comm) comm (commFault comm 117))
  else .next s

/-- FLUME_ABORT_ACKNOWLEDGED (R451): with the last acknowledgement the communicator is Idle. -/
def execFlumeAbortAcknowledged (comm rank : Nat) (s : State) : Host.Outcome State Fault Refusal :=
  if commState s comm ≠ .aborting then .next s
  else
    let s := (arrived s comm).modComm comm fun k => { k with acks := k.acks.filter (· ≠ rank) }
    if (s.comm comm).acks = [] then .next (settleComm (s.modComm comm fun k => { k with st := .idle, abortBy := none }) comm)
    else .next s

/-- FLUME_PEER_TIMEOUT (R467): nothing has arrived for TMO·1,024 ticks. A communicator that is Aborting waits no longer. -/
def execFlumePeerTimeout (comm : Nat) (s : State) : Host.Outcome State Fault Refusal :=
  let e := commEntry s comm
  let late := e.tmo ≠ 0 && (s.comm comm).run.lastRx.toNat + e.tmo * 1024 < s.tick.toNat
  if !late || e.nrank < 2 then .next s
  else if commActive s comm then .next (failColl s comm (commFault comm 116))
  else if commState s comm = .aborting then
    .next (settleComm (s.modComm comm fun k => { k with st := .idle, acks := [], abortBy := none }) comm)
  else .next s

/-! ### CWAIT, CSTAT and CABORT (R470 to R472) -/

/-- The trap of a communicator number above 15 or not the wave's. -/
def commTrap (x : Word64) : TrapInfo := { cause := 115, info := x }

/-- CWAIT (R470). -/
def execCwait (a : Fin 32) (s : State) : Host.Outcome State Fault Refusal :=
  withCtx s fun c =>
    let x := c.sVal a
    if 15 < x.toNat then instrTrap c s (commTrap x)
    else .next (c.hold (abortOpen c s c.mask) (.cwait x.toNat s.stamp))

def CommState.code : CommState → Nat
  | .disabled => 0
  | .idle => 1
  | .matching => 2
  | .running => 3
  | .aborting => 4

/-- The word of CSTAT (R471). -/
def cstatWord (s : State) (c : Nat) : Word64 :=
  let e := commEntry s c
  let k := s.comm c
  BitVec.ofNat 64 (k.ndone.toNat * 2 ^ 32 + k.last.toNat * 2 ^ 24 + min 15 k.queue.length * 2 ^ 20 +
    (commState s c).code * 2 ^ 17 + bit e.en * 2 ^ 16 + e.prio * 2 ^ 13 + e.my % 1024)

/-- CSTAT (R471). -/
def execCstat (g : Guard) (d a : Fin 32) (s : State) : Host.Outcome State Fault Refusal :=
  withCtx s fun c =>
    let x := c.sVal a
    if !c.guardHolds g then .next (s.advance c.wid)
    else if 15 < x.toNat then instrTrap c s (commTrap x)
    else
      let v := cstatWord s x.toNat
      .next (((abortOpen c s (c.eff g)).modWave c.wid fun w => w.setS d.val (Scalar.of v)).advance c.wid)

/-- End these collectives with 117 by a wave's own CABORT: not reported to that wave. -/
def endAll (c by_ : Nat) : List Coll → State → State
  | [], s => s
  | q :: qs, s => endAll c by_ qs (endColl s c q (commFault c 117) (decide (q.wave ≠ by_)))

/-- The collectives of a communicator in the cores' queues. -/
def inCores (s : State) (c : Nat) : List Coll := s.cores.flatMap fun k => k.2.flumeQ.filter fun q => q.comm = c && q.early.isNone

/-- End every collective of a communicator (R472): the report, and the state after. -/
def abortAll (s : State) (c by_ : Nat) : Word64 × State :=
  let qs := (s.comm c).queue ++ inCores s c
  let word := bit (commActive s c) * 2 ^ 16 + min 255 (commLocks s c) * 2 ^ 8 + min 255 qs.length
  let s := (stopRun s c).modComm c fun k => { k with queue := [] }
  let s := { s with cores := NMap.mapVal s.cores fun _ k => { k with
    flumeQ := k.flumeQ.filter fun q => !(q.comm = c && q.early.isNone) } }
  let s := endAll c by_ qs s
  (BitVec.ofNat 64 word, if qs = [] then s else startAbort s c (some by_))

/-- CABORT (R472). -/
def execCabort (g : Guard) (d a : Fin 32) (s : State) : Host.Outcome State Fault Refusal :=
  withCtx s fun c =>
    let x := c.sVal a
    if !c.guardHolds g then .next (s.advance c.wid)
    else if 15 < x.toNat then instrTrap c s (commTrap x)
    else
      let e := commEntry s x.toNat
      if !e.ok ∨ e.casid ≠ c.w.asid then instrTrap c s (commTrap x)
      else
        let r := abortAll (abortOpen c s (c.eff g)) x.toNat c.wid
        .next ((r.2.modWave c.wid fun w => w.setS d.val (Scalar.of r.1)).advance c.wid)

end Sys2Proof.Machine
end

