-- ==== Sys2Proof/Machine/Service.lean ====
section
/-! DEFINITION. Service of the device (R475 to R503): the host's memory window, drops of channel dies and of towers, the home
sweep, ports, the address map, ways and banks, power, attestation, freeze and reset. The writes of the registers that start
these are shared by waves and the host (SysReg.lean). -/

namespace Sys2Proof.Machine

/-- What the write of a register comes to: the state, and the value of `SVCSTAT.ERR` where a limit is broken (R478): then a
wave takes cause 18. -/
abbrev Written := State × Option Nat

def State.svcErr (s : State) (e : Nat) : State := s.modDev fun d => { d with svcErr := BitVec.ofNat 8 e }

def goneTower (s : State) (t : Nat) : Bool := (s.tower t).gone

/-! ### Accesses from outside the device (R449, R494) -/

/-- The home slice serves an agent outside every cluster: the clusters recorded for the line promote first (R215). -/
def settleOutside (s : State) (ln : Nat) : State :=
  (s.line ln).writers.foldl releaseDevice s

/-- Read device memory line by line for such an agent; none where a line gives an error. -/
def outsideRead (s : State) (a n : Nat) : State × Option (List Byte) :=
  (linePieces a n).foldl (fun r x =>
    match r with
    | (s, none) => (s, none)
    | (s, some bs) =>
      if lineBad s x.1 then (s, none)
      else
        let s := settleOutside s (lineNo x.1)
        (s, some (bs ++ Memory.readBytes s.mem x.1 x.2))) (s, some [])

/-- Write device memory line by line for such an agent; a line that no stack holds takes nothing. -/
def outsideWrite (s : State) (a : Nat) (bs : List Byte) : State :=
  (linePieces a bs.length).foldl (fun s x =>
    if reaches s x.1 then homeWrite s x.1 ((bs.drop (x.1 - a)).take x.2) else s) s

/-- The aggregated atomics of another device's lanes on a value, one after the other: the last value, and what each found. -/
def foldAtomics (op : AtomOp) (n : Nat) : Nat → List (Word64 × Word64) → Nat × List Nat
  | v, [] => (v, [])
  | v, (x, cmp) :: ls =>
    let r := foldAtomics op n (AtomOp.apply op n v (x.toNat % 2 ^ (8 * n)) (cmp.toNat % 2 ^ (8 * n))) ls
    (r.1, v :: r.2)

/-- An atomic of another device on a word of this one (R190): the old values are the answer, and a RED counts its lanes (R221). -/
def outsideAtomic (s : State) (pa : Nat) (op : AtomOp) (n : Nat) (red : Bool) (ls : List (Word64 × Word64)) :
    State × Option (List Byte) :=
  if lineBad s pa then (s, none)
  else
    let s := settleOutside s (lineNo pa)
    let r := foldAtomics op n (Memory.readNat s.mem pa n) ls
    let s := homeWrite s pa (leBytes r.1 n)
    (if red then countLine s (lineNo pa) ls.length else s, some (r.2.flatMap fun x => leBytes x n))

/-- HOST_MEMORY_ACCESS (R494). In recovery device memory answers with an error (R497). -/
def execHostMemoryAccess (a : HostAccess) (s : State) : Host.Outcome State Fault Refusal :=
  match a with
  | .image bs => .next { s with firmware := bs }
  | .read pa n =>
    if s.recovery then .next { s with hostRead := [] }
    else
      let (s, r) := outsideRead s pa n
      .next { s with hostRead := r.getD [] }
  | .write pa bs => .next (if s.recovery then s else outsideWrite s pa bs)

/-- REMOTE_ACCESS_REQUEST: another device's read, write or atomic, an ordinary access here (R449). -/
def execRemoteAccessRequest (req : RemoteReq) (s : State) : Host.Outcome State Fault Refusal :=
  match req with
  | .read pa n =>
    let (s, r) := outsideRead s pa n
    .next { s with hostRead := r.getD [] }
  | .write pa bs => .next (outsideWrite s pa bs)
  | .atomic pa op w red ls =>
    if pa % w.bytes ≠ 0 then .next s
    else
      let (s, r) := outsideAtomic s pa op w.bytes red ls
      .next { s with hostRead := r.getD [] }

/-! ### Channel dies (R480 to R483) -/

/-- The channel a die serves, if any. -/
def channelOf (map : BitVec 40) (d : Nat) : Option Nat := (List.range 10).find? fun c => dieOf map c = d

/-- The map with a channel given another die. -/
def setDie (map : BitVec 40) (c d : Nat) : BitVec 40 :=
  BitVec.ofNat 40 (map.toNat - dieOf map c * 16 ^ c + d * 16 ^ c)

/-- The spare a data channel moves to: the redundant die of its own half, else the other, that is in service and serves no
data channel (R481). -/
def spareFor (map : BitVec 40) (down : BitVec 10) (c : Nat) : Option Nat :=
  (if c < 4 then [8, 9] else [9, 8]).find? fun d =>
    !down.getLsbD d && match channelOf map d with
      | some k => 8 ≤ k
      | none => true

/-- The map after die d is dropped, and the channel whose residues move (R481). -/
def dropDie (map : BitVec 40) (down : BitVec 10) (d : Nat) : BitVec 40 × Option Nat :=
  match channelOf map d with
  | none => (map, none)
  | some c =>
    if 8 ≤ c then (setDie map c 15, none)
    else
      match spareFor map down c with
      | none => (setDie map c 15, none)
      | some sp =>
        let map' := match channelOf map sp with
          | some k => setDie map k 15
          | none => map
        (setDie map' c sp, some c)

/-- A write of `DIEDROP` (R482). -/
def writeDiedrop (s : State) (t : Nat) (v : Word64) : Written :=
  if v.toNat / 16 ≠ 0 then (s, some 5)
  else if s.dev.svcBusy then (s.svcErr 1, none)
  else if h : v.toNat % 16 < 10 then
    if (s.tower t).down.getLsbD (v.toNat % 16) then (s.svcErr 2, none)
    else
      ((s.modTower t fun x => { x with dieDrop := some ⟨v.toNat % 16, h⟩ }).modDev fun d =>
        { d with svcBusy := true, svcTwr := BitVec.ofNat 2 t }, none)
  else (s.svcErr 5, none)

/-- A residue that could not be copied is written as 0 (R482). -/
def loseResidue (c : Nat) (s : State) (x : Nat × Nat × Nat) : State :=
  let lose (e : TElem) : TElem := { e with res := e.res.set c 0 }
  s.modGroup x.1 fun g => { g with tiles := NMap.modify g.tiles x.2.1 fun t =>
    { t with elems := List.filter (fun e : Nat × TElem => e.2 ≠ .blank) (NMap.modify t.elems x.2.2 lose) } }

/-- A group whose set can no longer be served has it made Invalid (R482). -/
def recheckSet (map : BitVec 40) (g : Group) : Group :=
  { g with mset := g.mset.filter fun r => servable r map }

/-- DIE_DROP_COMPLETE: the tower's started entries are complete; the map changes (R482). `unreadable` lists the elements, by
group, tile and position, whose residue cannot be read. -/
def execDieDropComplete (t : Fin 4) (unreadable : List (Nat × Nat × Nat)) (s : State) : Host.Outcome State Fault Refusal :=
  match (s.tower t.val).dieDrop with
  | none => .next s
  | some d =>
    let mine (g : Group) : Bool := g.live && towerOf g.core = t.val
    if s.groups.any fun g => mine g.2 && g.2.mq.any fun e => e.state = .running then .next s
    else
      let tw := s.tower t.val
      let (map, moved) := dropDie tw.map tw.down d.val
      let s := match moved with
        | some c => (unreadable.filter fun x : Nat × Nat × Nat => mine (s.group x.1)).foldl (loseResidue c) s
        | none => s
      let s := s.modTower t.val fun x => { x with map := map, down := x.down ||| BitVec.ofNat 10 (2 ^ d.val), dieDrop := none }
      let s := { s with groups := NMap.mapVal s.groups fun _ g => if mine g then recheckSet map g else g }
      .next (s.modDev fun d => { d with svcBusy := false })

/-! ### Towers (R484 to R489) -/

def inService (s : State) : Nat := ((List.range 4).filter fun t => !goneTower s t).length

def towerCores (t : Nat) : List Nat := (List.range 64).map (64 * t + ·)

/-- A wave, group, phase record or saved context of the tower. -/
def towerHolds (s : State) (t : Nat) : Bool :=
  (s.waves.any fun w => w.2.alive && towerOf (homeCore s w.2) = t) || s.groups.any fun g => g.2.live && towerOf g.2.core = t

/-- A communicator's entry names the tower's flume. -/
def commsOf (s : State) (t : Nat) : List Nat := (List.range 16).filter fun c => (commEntry s c).en && (commEntry s c).flume = t

/-- The tower holds nothing that must outlive it (R485). -/
def towerEmpty (s : State) (t : Nat) : Bool :=
  !towerHolds s t && commsOf s t = [] && (towerCores t).all fun c =>
    let k := s.core c
    k.launchQ = [] && k.deque = [] && k.spill = [] && k.spawnQ = [] && k.sluiceQ = [] && k.sluice = none && k.flumeQ = []

/-- Why a drop of a tower is refused (R479, R484). -/
def dropRefused (s : State) (t : Nat) : Option Nat :=
  if s.dev.svcBusy then some 1 else if goneTower s t then some 2 else if inService s ≤ 1 then some 4 else none

/-- Every collective of a communicator ends as it becomes Disabled (R451, R487). -/
def disableComm (s : State) (c : Nat) : State :=
  let q := (s.comm c).queue
  let s := (stopRun s c).modComm c fun k => { k with queue := [], st := .disabled, acks := [] }
  q.foldl (fun s x => endColl s c x (commFault c 115) true) s

/-- What leaves service with a tower (R487). -/
def leaveService (s : State) (t : Nat) : State :=
  let comms := (List.range 16).filter fun c => (commEntry s c).ok && (commEntry s c).flume = t
  let s := s.modTower t fun x => { x with gone := true, sweep := false, sweepPtr := [] }
  let s := comms.foldl disableComm s
  s.modDev fun d => { d with
    ports := [3 * t, 3 * t + 1, 3 * t + 2].foldl (fun m p => NMap.set m p 0) d.ports
    portRun := d.portRun &&& ~~~(BitVec.ofNat 12 (7 * 2 ^ (3 * t))) }

/-- An orderly drop (R485). -/
def dropTower (s : State) (t : Nat) : State :=
  match dropRefused s t with
  | some e => s.svcErr e
  | none =>
    if !towerEmpty s t then s.svcErr 3
    else
      let s := ((List.range 16).map (16 * t + ·)).foldl releaseDevice s
      let s := s.modTower t fun x => { x with sweep := true, sweepPtr := [] }
      s.modDev fun d => { d with svcBusy := true, svcTwr := BitVec.ofNat 2 t, svcRebuild := true }

/-- HOME_SWEEP_STEP: a departing slice moves its next set; after the last set of the last slice the tower is gone (R489). -/
def execHomeSweepStep (slice : Nat) (s : State) : Host.Outcome State Fault Refusal :=
  let t := slice / 64
  let p := NMap.getD (s.tower t).sweepPtr slice 0
  if t < 4 ∧ (s.tower t).sweep ∧ p < 2048 then
    let s := s.modTower t fun x => { x with sweepPtr := NMap.set x.sweepPtr slice (p + 1) }
    if (List.range 64).all fun i => NMap.getD (s.tower t).sweepPtr (64 * t + i) 0 = 2048 then
      .next ((leaveService s t).modDev fun d => { d with svcBusy := false, svcRebuild := false })
    else .next s
  else .next s

/-- The waiters of a line are told that it is lost: their FWAITs complete with the late fault 42 (R486). -/
def loseWaiters (s : State) (ln : Nat) : State :=
  (s.line ln).waiters.foldl (fun s x =>
    match (s.wave? x.2.1).bind fun w => w.op? x.2.2.1 with
    | some o => noteFaults (s.modOp x.2.1 o.id fun o => { o with parked := false }) x.2.1 o [⟨x.2.2.2, (42, 0)⟩]
    | none => s) (s.modLine ln fun i => { i with waiters := [] })

/-- A line homed on a tower that is dropped abruptly: its waiters, counter and record go, and it is lost where it was dirty
at its slice, which the spec leaves to the slice's traffic: a free choice (R486). -/
def loseLine (s : State) (ln : Nat) : State :=
  let s := loseWaiters s ln
  let (dirty, s) := s.choose
  s.modLine ln fun i => { i with
    emptyWords := if i.counter.isSome then 0 else i.emptyWords, counter := none, writers := []
    unwritten := if dirty then BitVec.allOnes 64 else i.unwritten, poisonPt := i.poisonPt && !dirty }

/-- The lines that hold anything and are homed on a tower. -/
def linesOn (s : State) (t : Nat) : List Nat :=
  ((s.mem.map fun c => lineNo c.1) ++ NMap.keys s.lines).dedup.filter fun ln => homeSlice s (64 * ln) / 64 = t

/-- The grids with a gang placed or saved on a tower. -/
def gridsOn (s : State) (t : Nat) : List Nat :=
  ((s.gangs.filter fun g => g.2.live && g.2.cluster / 16 = t).map (·.2.node)).dedup

/-- Stop what a tower's cores hold: their queues, programs and lines. A sluice node that runs there ends with its grid's
status. -/
def clearCore (s : State) (c : Nat) : State :=
  let k := s.core c
  let lost := k.launchQ.map (·.node)
  let nodes := (k.sluice.toList.map (·.cmd) ++ k.sluiceQ).filterMap (·.node)
  let s := { s with nodes := s.nodes.filter fun n => !lost.contains n.1 }
  let s := nodes.foldl (fun s n => s.modNode n fun x => { x with st := .completing, status := 145 }) s
  if k = {} then s
  else s.setCore c { k with
    launchQ := [], deque := [], spill := [], spawnQ := [], sluiceQ := [], sluice := none, flumeQ := [], l1 := [], locks := [] }

/-- The groups of a tower give up what their engines had not finished. -/
def clearGroup (s : State) (gk : Nat) : State := settleGroup (s.modGroup gk fun g => { g with mq := [], batches := [], retained := [] }) gk

/-- End a grid and tell the host (R411). -/
def endGridFor (s : State) (n : Nat) (cause : BitVec 8) : State :=
  let addr := ((s.node? n).map (·.addr)).getD 0
  endGrid (pushEvent s cause 0 0 0xFF 0 addr 0 []) n cause

/-- An abrupt drop (R486).
DEDUCED, unsafe: log entry 46. -/
def forceTower (s : State) (t : Nat) : State :=
  match dropRefused s t with
  | some e => s.svcErr e
  | none =>
    let s := (gridsOn s t).foldl (fun s n => endGridFor s n 145) s
    let ws := (s.waves.filter fun w => w.2.alive && towerOf (homeCore s w.2) = t).map (·.1)
    let s := ws.foldl endWave s
    let s := (towerCores t).foldl clearCore s
    let s := { s with clusters := s.clusters.filter fun k => k.1 / 16 ≠ t }
    let gs := (s.groups.filter fun g => g.2.live && towerOf g.2.core = t).map (·.1)
    let s := gs.foldl clearGroup s
    let s := (linesOn s t).foldl loseLine s
    (leaveService s t).modDev fun d => { d with svcTwr := BitVec.ofNat 2 t }

/-- A write of `TWRCTL` (R484): for each tower `NOPLACE`, then an abrupt drop, then an orderly one. -/
def writeTwrctl (s : State) (v : Word64) : Written :=
  ((List.range 4).foldl (fun s t =>
    let b := v.toNat / 2 ^ (8 * t) % 256
    let s := s.modTower t fun x => { x with noplace := bitOf b 0 }
    let s := if bitOf b 3 then forceTower s t else s
    if bitOf b 2 ∧ !(bitOf b 3 ∧ goneTower s t) then dropTower s t else s) s, none)

/-- `TWRCTL` as it reads. -/
def readTwrctl (s : State) : Word64 :=
  BitVec.ofNat 64 ((List.range 4).foldl (fun n t =>
    n + ((if goneTower s t then 16 else 0) + if (s.tower t).noplace then 1 else 0) * 2 ^ (8 * t)) 0)

/-- `DIEMAP` as it reads (R480). -/
def readDiemap (s : State) (t : Nat) : Word64 :=
  BitVec.ofNat 64 ((s.tower t).down.toNat * 2 ^ 40 + (s.tower t).map.toNat)

/-- `SVCSTAT` as it reads (R479). -/
def readSvcstat (s : State) : Word64 :=
  let d := s.dev
  BitVec.ofNat 64 (d.svcErr.toNat * 2 ^ 8 + d.svcTwr.toNat * 2 ^ 6 + (if d.svcRebuild then 2 else 0) + if d.svcBusy then 1 else 0)

/-! ### Ports (R446, R496) -/

/-- The devices that the lanes of an unacknowledged remote access ask, by lane. -/
def remoteLanes (s : State) (wid : Nat) (o : MemOp) : List (Nat × Nat) :=
  match s.wave? wid with
  | none => []
  | some w =>
    (lanesOf (o.undone &&& ~~~o.faulted)).filterMap fun l =>
      match (target s (waveCore s w) w.asid (o.at_ l) .read).2, (target s (waveCore s w) w.asid (o.at_ l) .write).2 with
      | .ok (.away pa), _ => some (l, pa / 2 ^ 41 % 1024)
      | _, .ok (.away pa) => some (l, pa / 2 ^ 41 % 1024)
      | _, _ => none

/-- The lanes whose request went over one of these ports: certainly where no other port of its mask is up, else a free
choice, since any port of the mask may have been used (R448). -/
def sentOver (s : State) (down : Nat) : List (Nat × Nat) → State × List Nat
  | [] => (s, [])
  | (l, dev) :: rest =>
    let mask := routeMask s dev
    let (s, hit) :=
      if (List.range 12).all fun i => !(bitOf mask i && bitOf down i) then (s, false)
      else if (List.range 12).all fun i => !(bitOf mask i && !bitOf down i && portUp s i) then (s, true)
      else (s.choose.2, s.choose.1)
    let (s, ls) := sentOver s down rest
    (s, if hit then l :: ls else ls)

/-- An access that loses its port completes with the late fault 46 (R496). -/
def loseRemote (down wid : Nat) (s : State) (o : MemOp) : State :=
  let (s, ls) := sentOver s down (remoteLanes s wid o)
  if ls = [] then s
  else
    let s := noteFaults s wid o (ls.map fun l => ⟨l, (46, 0)⟩)
    s.modOp wid o.id fun o => { o with remote := decide (o.undone &&& ~~~o.faulted ≠ 0) }

/-- A write of `PORTCTL` (R496).
DEDUCED, unsafe: log entry 46. -/
def writePortctl (s : State) (v : Word64) : Written :=
  let ps := v.toNat % 2 ^ 12
  if s.dev.portRun ≠ 0 then (s, some 1)
  else if (List.range 12).any fun i => bitOf ps i && goneTower s (i / 3) then (s, some 5)
  else
    let ports := s.waves.flatMap fun w => (w.2.allOps.filter fun o => o.remote).map fun o => (w.1, o)
    let s := ports.foldl (fun s x => loseRemote ps x.1 s x.2) s
    let s := s.modDev fun d => { d with
      ports := (List.range 12).foldl (fun m i => if bitOf ps i then NMap.set m i 1 else m) d.ports
      portRun := BitVec.ofNat 12 ps }
    ((List.range 16).foldl checkRoutes s, none)

/-- PORT_FAIL: link retry cannot recover a port that is up (R447). -/
def execPortFail (port : Fin 12) (s : State) : Host.Outcome State Fault Refusal :=
  if portUp s port.val then
    .next ((List.range 16).foldl checkRoutes (s.modDev fun d => { d with ports := NMap.set d.ports port.val 3 }))
  else .next s

/-- PORT_TRAIN_DONE: training ends with the port up, held down for want of lanes, or failed (R446, R496). -/
def execPortTrainDone (port : Fin 12) (up : Bool) (lanes : Nat) (s : State) : Host.Outcome State Fault Refusal :=
  let st : BitVec 2 := if up then (if lanes = 4 then 2 else 0) else 3
  if NMap.getD s.dev.ports port.val 0 < 2#2 ∧ !goneTower s (port.val / 3) then
    .next (s.modDev fun d => { d with
      ports := NMap.set d.ports port.val st, portRun := d.portRun &&& ~~~(BitVec.ofNat 12 (2 ^ port.val)) })
  else .next s

/-- `PORTSTAT` as it reads (R447). -/
def readPortstat (s : State) : Word64 :=
  BitVec.ofNat 64 ((List.range 12).foldl (fun n i => n + (NMap.getD s.dev.ports i 0).toNat * 4 ^ i) 0)

/-! ### The address map (R217) -/

/-- The slot of its stacks that a map gives a region, counted from slot 0 of stack 0. -/
def regionSlot (m : Option (List (BitVec 16))) (g : Nat) : Option Nat :=
  match m with
  | none => if g < 1536 then some g else none
  | some l =>
    let e := (l.getD g 0).toNat
    if bitOf e 15 then some (64 * (e % 32) + e / 32 % 64) else none

/-- The region that a map places in a slot. -/
def slotRegion (m : Option (List (BitVec 16))) (k : Nat) : Option Nat := (List.range 1536).find? fun g => regionSlot m g = some k

/-- Every entry of a table keeps its limits, and no slot is named twice. -/
def tableOk (l : List (BitVec 16)) : Bool :=
  let vs := l.filter fun e => e.getLsbD 15
  (l.all fun e => e.toNat / 2 ^ 11 % 16 = 0 && e.toNat % 32 ≤ 23) &&
    decide ((vs.map fun e => e.toNat % 2048).dedup.length = vs.length)

/-- The place of a byte or line in the stacks, `u` units to a region. -/
def toSlot (m : Option (List (BitVec 16))) (u a : Nat) : Option Nat := (regionSlot m (a / u)).map fun k => k * u + a % u
def fromSlot (m : Option (List (BitVec 16))) (u a : Nat) : Option Nat := (slotRegion m (a / u)).map fun g => g * u + a % u

/-- What of a line stays with its bytes in a slot: the states of its words and its lost or poisoned bytes. -/
def LineInfo.slotPart (i : LineInfo) : LineInfo :=
  { emptyWords := i.emptyWords, unwritten := i.unwritten, poisonPt := i.poisonPt, asids := i.asids, asidOvf := i.asidOvf }

def LineInfo.putSlot (i j : LineInfo) : LineInfo :=
  { i with emptyWords := j.emptyWords, unwritten := j.unwritten, poisonPt := j.poisonPt, asids := j.asids, asidOvf := j.asidOvf }

/-- A new map comes into force: data in a slot stays in that slot (R217). -/
def switchMap (s : State) (m : Option (List (BitVec 16))) : State :=
  let old := s.dev.amMap
  let bytes := (s.mem.filterMap fun c => (toSlot old (2 ^ 30) c.1).map fun k => (k, c.2)) ++ s.unplaced
  let infos := (s.lines.filterMap fun c => (toSlot old (2 ^ 24) c.1).map fun k => (k, c.2.slotPart)) ++ s.unplacedLines
  let mem := bytes.foldl (fun m' c => match fromSlot m (2 ^ 30) c.1 with
    | some a => Memory.write m' a c.2
    | none => m') ([] : Memory)
  let rest := bytes.foldl (fun m' c => if (fromSlot m (2 ^ 30) c.1).isNone then Memory.write m' c.1 c.2 else m') ([] : Memory)
  let kept := NMap.mapVal s.lines fun _ i => i.putSlot {}
  let lines := infos.foldl (fun t c => match fromSlot m (2 ^ 24) c.1 with
    | some ln => NMap.set t ln ((NMap.getD t ln {}).putSlot c.2)
    | none => t) kept
  { s with
    mem := mem, unplaced := rest, lines := lines
    unplacedLines := infos.foldl (fun t c => if (fromSlot m (2 ^ 24) c.1).isNone then NMap.set t c.1 c.2 else t) []
    dev := { s.dev with amMap := m } }

/-- A write of `AMLOAD`; one while a load runs changes nothing. -/
def writeAmload (s : State) (v : Word64) : Written :=
  if s.dev.amRun ∨ !bitOf v.toNat 0 then (s, none) else (s.modDev fun d => { d with amRun := true }, none)

/-- AMLOAD_COMPLETE: the table is checked, and the new map replaces the old in one step (R217). `AMBASE` and the table are read
here, as the load completes, not as `AMLOAD` is written, and a table with a line that reaches no stack or is lost is refused: the
spec says neither.
DESIGN CHOICE, unsafe: log entry 65. -/
def execAmloadComplete (s : State) : Host.Outcome State Fault Refusal :=
  if !s.dev.amRun then .next s
  else
    let base := s.dev.amBase.toNat
    let s := s.modDev fun d => { d with amRun := false, amRefused := false }
    if base = 0 then .next (switchMap s none)
    else
      let l := (List.range 1536).map fun i => BitVec.ofNat 16 (Memory.readNat s.mem (base + 2 * i) 2)
      if (linePieces base 3072).any (fun x => lineBad s x.1) ∨ !tableOk l then
        .next (s.modDev fun d => { d with amRefused := true })
      else .next (switchMap s (some l))

/-! ### Ways and banks (R501, R502) -/

/-- A write of `WAYEN`: a way that is requested again returns at once, empty. -/
def writeWayen (s : State) (t : Nat) (v : Word64) : Written :=
  let req : BitVec 16 := BitVec.ofNat 16 v.toNat
  if ((List.range 16).filter fun i => req.getLsbD i).length < 4 then (s, some 5)
  else (s.modTower t fun x => { x with wayReq := req, wayAct := x.wayAct ||| req }, none)

/-- WAY_GATE_DONE: a way no longer requested has its lines written back and leaves `ACT`; the home slices of this model hold
every line whichever way it is in. -/
def execWayGateDone (t : Fin 4) (way : Fin 16) (s : State) : Host.Outcome State Fault Refusal :=
  if (s.tower t.val).wayReq.getLsbD way.val then .next s
  else .next (s.modTower t.val fun x => { x with wayAct := x.wayAct &&& ~~~(BitVec.ofNat 16 (2 ^ way.val)) })

/-- A write of `BANKGATE`: a gated bank that is no longer requested returns, filled with zeros (R212). -/
def writeBankgate (s : State) (c : Nat) (v : Word64) : Written :=
  let req : BitVec 8 := BitVec.ofNat 8 v.toNat
  (s.modCore c fun k => { k with
    bankReq := req, bankGated := k.bankGated &&& req, bankFill := (k.bankFill ||| (k.bankGated &&& ~~~req)) &&& ~~~req }, none)

/-- BANK_GATED: a requested bank serves no allocation and another stays in L1; its lines are written back, in the cluster's order
(R213, R502). -/
def execBankGated (core : Nat) (bank : Fin 8) (s : State) : Host.Outcome State Fault Refusal :=
  let k := s.core core
  let others := (List.range 8).any fun i => i ≠ bank.val && k.scratchBanks ≤ i && !k.bankGated.getLsbD i
  if k.bankReq.getLsbD bank.val ∧ !k.bankGated.getLsbD bank.val ∧ k.scratchBanks ≤ bank.val ∧ others then
    .next ((releaseDevice s (clusterOf core)).modCore core fun k => { k with
      l1 := [], bankGated := k.bankGated ||| BitVec.ofNat 8 (2 ^ bank.val) })
  else .next s

/-- BANK_FILL_DONE: the zero fill of a bank that has returned is complete (R212). -/
def execBankFillDone (core bank : Nat) (s : State) : Host.Outcome State Fault Refusal :=
  if bank < 8 ∧ (s.core core).bankFill.getLsbD bank then
    .next (s.modCore core fun k => { k with bankFill := k.bankFill &&& ~~~(BitVec.ofNat 8 (2 ^ bank)) })
  else .next s

/-! ### Power and temperature (R500) -/

/-- A write of `PWRCAP`. -/
def writePwrcap (s : State) (v : Word64) : Written :=
  if v.toNat < 1500 ∨ 3800 < v.toNat then (s, some 5) else (s.modDev fun d => { d with pwrCap := v }, none)

/-- THERMAL_WARN: a junction reads 105 °C or more. -/
def execThermalWarn (celsius : BitVec 8) (s : State) : Host.Outcome State Fault Refusal :=
  if 105 ≤ celsius.toNat then .next (s.modDev fun d => { d with thermMax := celsius, thermWarn := true }) else .next s

/-- THERMAL_WARN_END: every junction reads less than 105 °C. -/
def execThermalWarnEnd (celsius : BitVec 8) (s : State) : Host.Outcome State Fault Refusal :=
  if celsius.toNat < 105 then .next (s.modDev fun d => { d with thermMax := celsius, thermWarn := false }) else .next s

/-! ### Freeze (R490 to R492) -/

def startFreeze (s : State) : State :=
  if s.frozen then s else { s with frozen := true, endWritten := false, tickSet := none }

/-- FREEZE_PIN: `SLFRZ_N` is driven low. -/
def execFreezePin (s : State) : Host.Outcome State Fault Refusal := .next (startFreeze { s with pinLow := true })

/-- FREEZE_WRITE: the host writes 1 to management offset 0x8000. -/
def execFreezeWrite (s : State) : Host.Outcome State Fault Refusal := .next (startFreeze s)

/-- THERMAL_FREEZE: at 115 °C the device freezes and writes a cause-179 event (R500). -/
def execThermalFreeze (celsius : BitVec 8) (s : State) : Host.Outcome State Fault Refusal :=
  if celsius.toNat < 115 then .next s
  else
    let s := s.modDev fun d => { d with thermMax := celsius, thermWarn := true }
    .next (startFreeze (hostEvent s 179 0 0xFF 0 0))

/-- The clocks resume: transactions are aborted with code 7, a cause-179 event is written, and the held host accesses are
performed in their order (R490 to R492). -/
def resumeClocks (s : State) : State :=
  let s := { s with
    frozen := false, endWritten := false, tick := s.tickSet.getD s.tick, tickSet := none
    waves := NMap.mapVal s.waves fun _ w => w.abortTx 7 0 allLanes }
  let s := hostEvent s 179 0 0xFF 0 0
  { s with agenda := s.heldHost.map Agent.event ++ s.agenda, heldHost := [] }

/-- FREEZE_END: the host writes 0 to offset 0x8000; with the pin low the freeze goes on until its release (R491). -/
def execFreezeEnd (s : State) : Host.Outcome State Fault Refusal :=
  if !s.frozen then .next s else if s.pinLow then .next { s with endWritten := true } else .next (resumeClocks s)

/-- FREEZE_PIN_RELEASE: the pin is released; a freeze whose end has been written ends. -/
def execFreezePinRelease (s : State) : Host.Outcome State Fault Refusal :=
  let s := { s with pinLow := false }
  if s.frozen ∧ s.endWritten then .next (resumeClocks s) else .next s

/-- SCAN_READ: a scan reads any flip-flop and changes nothing (R491). -/
def execScanRead (s : State) : Host.Outcome State Fault Refusal := .next s

/-- TICKSET: the tick counter takes the value when clocks resume; a write while clocks run is ignored (R492). -/
def execTickset (value : Word64) (s : State) : Host.Outcome State Fault Refusal :=
  if s.frozen then .next { s with tickSet := some value } else .next s

/-! ### Attestation, reset and grids (R411, R497, R498) -/

/-- A write of `ATTCTL`: 1 starts a report, unless one is being signed. -/
def writeAttctl (s : State) (v : Word64) : Written :=
  if 2 ≤ v.toNat then (s, some 5)
  else if s.dev.attRun ∨ v = 0 then (s, none)
  else (s.modDev fun d => { d with attRun := true }, none)

/-- Bytes 0 to 127 of the report (R498).
DESIGN CHOICE, safe: log entry 48. -/
def reportBytes (s : State) : List Byte :=
  leBytes Config.serial.toNat 16 ++ leBytes (Config.digest s.firmware).toNat 32 ++
    ((List.range 4).flatMap fun t => leBytes (readDiemap s t).toNat 8) ++ leBytes (readTwrctl s).toNat 8 ++
    ((List.range 4).flatMap fun i => leBytes (NMap.getD s.dev.attn i 0).toNat 8) ++ leBytes s.tick.toNat 8

/-- ATTESTATION_SIGNED: the signed report stands at 0xC000. -/
def execAttestationSigned (s : State) : Host.Outcome State Fault Refusal :=
  if s.dev.attRun then
    let bs := reportBytes s
    let sig := Config.sign bs
    .next (s.modDev fun d => { d with attRun := false, report := bs ++ leBytes sig.length 2 ++ sig })
  else .next s

/-- DEVICE_RESET: all state goes but the flash, the host's own, and the pin; the boot ROM verifies the image (R491, R497).
DEDUCED, unsafe: log entry 46. -/
def execDeviceReset (s : State) : Host.Outcome State Fault Refusal :=
  .next { State.reset with
    firmware := s.firmware, hostMem := s.hostMem, hostRead := s.hostRead, pinLow := s.pinLow, agenda := s.agenda, free := s.free
    recovery := !Config.verified s.firmware }

/-- GRID_ENDED_BY_SYSTEM_SOFTWARE: a grid that runs or waits ends with cause 145 (R411). -/
def execGridEndedBySystemSoftware (node : Nat) (s : State) : Host.Outcome State Fault Refusal :=
  match s.node? node with
  | some n =>
    if n.ended ∨ !(n.st = .ready ∨ n.st = .running) ∨ recNat n.bytes 0 1 ≠ 0 then .next s else .next (endGridFor s node 145)
  | none => .next s

end Sys2Proof.Machine
end

