-- ==== Sys2Proof/Machine/Graph.lean ====
section
/-! DEFINITION. The scheduler's graph (R344 to R361): host queues and front ends, the submission of records, dependences,
the placement of gangs, transforms, sluice nodes, and the completion of nodes. -/

namespace Sys2Proof.Machine

/-! ### The scheduler's own accesses: at home slices, translated by a walk of their own -/

/-- Where a virtual address leads, in host memory or another device's too. -/
def fePlace (s : State) (asid a : Nat) (need : Need) : State × Except Bad Phys :=
  if !vaOk a 1 then (s, .error (39, 0))
  else
    match walk s asid a need with
    | (s, .error b) => (s, .error b)
    | (s, .ok e) =>
      match e.denies need with
      | some cause => (s, .error (cause, BitVec.ofNat 64 (walkInfo asid need)))
      | none => (s, .ok ⟨e.pa + (a - e.va), e.host⟩)

def feWalk (s : State) (asid a : Nat) (need : Need) : State × Except Bad Phys :=
  match fePlace s asid a need with
  | (s, .error b) => (s, .error b)
  | (s, .ok p) =>
    if p.remote then (s, .error (46, 0))
    else if p.host then (s, .ok p)
    else if (if need = .write then !reaches s p.pa else lineBad s p.pa) then (s, .error (42, 0))
    else (settleOutside s (lineNo p.pa), .ok p)

/-- Read a virtual range; the first failing piece stops it. -/
def feRead (s : State) (asid a n : Nat) : State × Except (Bad × Nat) (List Byte) :=
  (linePieces a n).foldl (fun r x =>
    match r with
    | (s, .error e) => (s, .error e)
    | (s, .ok bs) =>
      match feWalk s asid x.1 .read with
      | (s, .error b) => (s, .error (b, x.1))
      | (s, .ok p) => (s, .ok (bs ++ Memory.readBytes (if p.host then s.hostMem else s.mem) p.pa x.2))) (s, .ok [])

/-- Write bytes that lie in one line. -/
def feWrite (s : State) (asid a : Nat) (bs : List Byte) : State × Except Bad Phys :=
  match feWalk s asid a .write with
  | (s, .error b) => (s, .error b)
  | (s, .ok p) =>
    (if p.host then { s with hostMem := Memory.writeBytes s.hostMem p.pa bs } else homeWrite s p.pa bs, .ok p)

/-- Change an aligned word of n bytes atomically at its home slice: its place and its old value. -/
def feUpdate (s : State) (asid a n : Nat) (f : Nat → Nat) : State × Except Bad (Phys × Nat) :=
  if a % n ≠ 0 then (s, .error (40, 0))
  else
    match feWalk s asid a .both with
    | (s, .error b) => (s, .error b)
    | (s, .ok p) =>
      let old := Memory.readNat (if p.host then s.hostMem else s.mem) p.pa n
      (if p.host then { s with hostMem := Memory.writeNat s.hostMem p.pa n (f old) }
        else homeWrite s p.pa (leBytes (f old) n), .ok (p, old))

/-! ### Records (R347 to R352) -/

def zeroAt (bs : List Byte) (o n : Nat) : Bool := ((bs.drop o).take n).all fun b => b = 0

/-- The limits common to every record (R348). -/
def recordCommonOk (r : List Byte) : Bool :=
  let f := recNat r
  f 0 1 ≤ 2 && f 1 1 < 8 && zeroAt r 2 2 && f 0x38 8 % 8 = 0 && f 0x40 8 % 8 = 0 && f 0x50 1 ≤ 4 && zeroAt r 0x51 7 &&
    zeroAt r 0x78 8 && (List.range 4).all fun i => i < f 0x50 1 || f (0x58 + 8 * i) 8 = 0

/-- The sum of `ROLECNT` over the first n roles. -/
def roleSum (r : List Byte) (n : Nat) : Nat := (List.range n).foldl (fun k i => k + recNat r (0x30 + i) 1) 0

/-- The limits of a grid's body (R349). -/
def gridOk (r : List Byte) : Bool :=
  let f := recNat r
  f 8 8 % 32 = 0 && 1 ≤ f 0x10 2 && 1 ≤ f 0x12 2 && 1 ≤ f 0x14 2 && 1 ≤ f 0x16 1 && f 0x16 1 ≤ 4 && 1 ≤ f 0x17 1 &&
    f 0x17 1 ≤ 32 && f 0x18 8 % 8 = 0 && (f 0x2C 1 ≠ 0 || f 0x18 8 = 0) && f 0x28 1 ≤ 8 && f 0x29 1 < 16 && f 0x2C 1 ≤ 32 &&
    zeroAt r 0x2D 3 && roleSum r 8 ≤ f 0x17 1

/-- The limits of a transform's body (R350). -/
def transformOk (r : List Byte) : Bool :=
  let f := recNat r
  f 8 1 ≤ 1 && zeroAt r 9 7 && (f 8 1 = 1 || f 0x10 8 % 64 = 0) && f 0x18 8 % 64 = 0 && f 0x20 8 % 64 = 0 &&
    f 0x20 8 ≤ 2 ^ 40 && zeroAt r 0x28 16

/-- The limits of a sluice node's body (R351), its image word among them (R306). -/
def sluiceNodeOk (r : List Byte) : Bool :=
  recNat r 8 8 < 2 ^ 58 && recNat r 8 6 % 4 = 0 && (recNat r 0x30 2 < 256 || recNat r 0x30 2 = 0xFFFF) && zeroAt r 0x32 6

/-- Register numbers ascending below `REGS`, then 0xFF (R347). -/
def carryOk (regs : Nat) : Nat → List Byte → Bool
  | _, [] => true
  | lo, b :: bs => if b = 0xFF then bs.all fun x => x = 0xFF else lo ≤ b.toNat && b.toNat < regs && carryOk regs (b.toNat + 1) bs

/-- The waves of `regs` registers that an empty quarter holds (R115). -/
def quarterHolds (regs : Nat) : Nat := ((List.range 17).filter fun n => n * regs + 2 * (n - 8) ≤ 1024).length - 1

/-- The limits of a kernel descriptor (R347), and room for its groups on an empty core (R352). -/
def kernelOk (kd : List Byte) (waves : Nat) : Bool :=
  let f := recNat kd
  f 0 8 % 8 = 0 && f 8 2 % 8 = 0 && 8 ≤ f 8 2 && f 8 2 ≤ 192 && zeroAt kd 10 2 && f 12 4 % 64 = 0 && f 12 4 ≤ 458752 &&
    carryOk (f 8 2) 0 (kd.drop 16) && waves ≤ 4 * quarterHolds (f 8 2)

/-! ### Submission (R355, R368) -/

/-- A node becomes Ready, behind those already so. -/
def makeReady (s : State) (n : Nat) : State := (s.modNode n fun x => { x with st := .ready, readyAt := s.stamp }).bump

/-- An invalid record completes at once with a status (R352); the host or the launching wave hears of it (R430). -/
def invalidNode (s : State) (n : Nat) (cause : BitVec 8) : State :=
  match s.node? n with
  | none => s
  | some nd =>
    let s := s.modNode n fun x => { x with st := .completing, status := cause.toNat }
    match nd.wave with
    | some w => addFault s w { cause := cause, addr := nd.addr }
    | none => if cause = 140 then hostEvent s 140 0 0xFF nd.addr 0 else s

/-- Submit a node whose record has been read: it becomes Waiting or Ready, or completes as invalid. -/
def submitNode (s : State) (n : Nat) : State :=
  match s.node? n with
  | none => s
  | some nd =>
    let r := nd.bytes
    let kind := recNat r 0 1
    let dep := recNat r 4 4
    let again := nd.queue.isSome && s.nodes.any fun x => x.1 ≠ n && x.2.queue.isSome && x.2.pa = nd.pa && x.2.st ≠ .done
    let start := recNat r 0x48 8
    let bodyOk := if kind = 0 then gridOk r else if kind = 1 then transformOk r else sluiceNodeOk r
    if !recordCommonOk r || !bodyOk || again || (nd.wave.isSome && dep ≠ 0) then invalidNode s n 140
    else
      let kd := if kind = 0 then feRead s nd.asid (recNat r 8 8) 32 else (s, .ok [])
      match kd with
      | (s, .error (b, _)) => invalidNode s n b.1
      | (s, .ok k) =>
        if kind = 0 ∧ !kernelOk k (recNat r 0x17 1) then invalidNode s n 140
        else
          let s := s.modNode n fun x => { x with
            kd := k, prio := min (recNat r 1 1) nd.cap, st := .waiting
            tick := if nd.wave.isSome ∨ start = 0 then none else some (BitVec.ofNat 64 start) }
          if dep = 0 then makeReady s n else s

/-- LAUNCH_ACCEPT: the front end takes the oldest pending-launch entry whose tick has passed and submits its record (R368). -/
def execLaunchAccept (core : Nat) (s : State) : Host.Outcome State Fault Refusal :=
  match (s.core core).launchQ with
  | [] => .next s
  | e :: rest =>
    let t := s.tower (towerOf core)
    let due := match e.tick with
      | some x => x.toNat ≤ s.tick.toNat
      | none => true
    if e.guard.isSome ∨ !due ∨ t.noplace ∨ t.gone ∨ s.recovery then .next s
    else
      let s := s.modCore core fun k => { k with launchQ := rest }
      match (s.node? e.node).bind (·.invalid) with
      | some cause => .next (s.modNode e.node fun x => { x with st := .completing, status := cause.toNat })
      | none => .next (submitNode s e.node)

/-! ### Dependences (R355) -/

/-- Decrement the `DEPCNT` of the record at an address; the node becomes Ready as it reaches 0. -/
def decrement (s : State) (asid : Nat) (va : Word64) (k : Nat) : State × Option (Bad × Word64) :=
  match feUpdate s asid (va.toNat + 4) 4 fun v => v - k with
  | (s, .error b) => (s, some (b, va + 4))
  | (s, .ok (p, old)) =>
    let s := if old < k then hostEvent s 141 0 0xFF va 0 else s
    if old = 0 ∨ k < old ∨ p.host then (s, none)
    else
      match s.nodes.find? fun n => n.2.queue.isSome && n.2.pa + 4 = p.pa && n.2.st = .waiting with
      | some n => (makeReady s n.1, none)
      | none => (s, none)

/-! ### Host queues (R344 to R346) -/

/-- A host queue's descriptor. -/
structure HostQueue where
  base : Nat
  size : Nat
  asid : Nat
  prio : Nat
  ctl : Nat
  head : Nat
  tail : Nat
  ok : Bool
  deriving DecidableEq, Repr

def queueAddr (s : State) (q : Nat) : Nat := s.dev.hqBase.toNat + 64 * q

/-- The fields of a descriptor, and whether it keeps its limits (R346). -/
def readQueue (bs : List Byte) : HostQueue :=
  let f := recNat bs
  { base := f 0 8, size := f 8 4, asid := f 12 2, prio := f 14 1, ctl := f 15 1, head := f 16 8, tail := f 24 8
    ok := ((List.range 13).any fun k => f 8 4 = 16 * 2 ^ k) && f 0 8 % 64 = 0 && f 12 2 < 4096 && f 14 1 < 8 && f 15 1 < 4 &&
      zeroAt bs 32 32 }

/-- The tower whose front end reads a queue (R346, R487). -/
def queueTower (s : State) (q : Nat) : Option Nat := ([0, 1, 2, 3].map fun i => (q + i) % 4).find? fun t => !goneTower s t

/-- Stop a queue for an error: `ERR` is set, and the host receives a cause (R345, R346). -/
def stopQueue (s : State) (q : Nat) (d : HostQueue) (cause : BitVec 8) (a : Word64) : State :=
  let s := homeWrite s (queueAddr s q + 15) [BitVec.ofNat 8 (d.ctl ||| 2)]
  hostEvent s cause 0 0xFF a (BitVec.ofNat 64 q)

/-- An entry has a known opcode and no nonzero unused byte (R345). -/
def entryOk (bs : List Byte) : Bool :=
  match recNat bs 0 1 with
  | 0 | 3 => zeroAt bs 1 63
  | 1 => zeroAt bs 1 7 && zeroAt bs 16 48
  | 2 => zeroAt bs 1 7 && zeroAt bs 20 44 && recNat bs 16 4 ≠ 0
  | _ => false

/-- What a front end finds in a queue. -/
inductive Poll where
  | idle
  | held
  | stopped
  | entry (d : HostQueue) (bs : List Byte)
  deriving DecidableEq, Repr

/-- Look at one queue: its descriptor, its `TAIL`, its next entry. A FENCE whose nodes are not all Done waits. -/
def pollQueue (s : State) (q : Nat) : State × Poll :=
  match outsideRead s (queueAddr s q) 64 with
  | (s, none) => (s, .idle)
  | (s, some bs) =>
    let d := readQueue bs
    let n := (d.tail + 2 ^ 64 - d.head) % 2 ^ 64
    if d.ctl % 4 ≠ 1 then (s, .idle)
    else if !d.ok then (stopQueue s q d 142 0, .stopped)
    else if n = 0 then (s, .idle)
    else if d.size < n then (stopQueue s q d 142 0, .stopped)
    else
      let a := d.base + 64 * (d.head % d.size)
      match feRead s d.asid a 64 with
      | (s, .error (b, _)) => (stopQueue s q d b.1 (BitVec.ofNat 64 a), .stopped)
      | (s, .ok e) =>
        if !entryOk e then (stopQueue s q d 142 0, .stopped)
        else if recNat e 0 1 = 3 ∧ s.nodes.any fun n => n.2.queue = some q && n.2.st ≠ .done then (s, .held)
        else (s, .entry d e)

/-- The first of these queues with something to serve; a queue held at a FENCE is passed over. -/
def pollAll (s : State) : List Nat → State × Option (Nat × Poll)
  | [] => (s, none)
  | q :: qs =>
    match pollQueue s q with
    | (s, .idle) | (s, .held) => pollAll s qs
    | (s, p) => (s, some (q, p))

/-- A queue waits at a FENCE: its front end has an entry, and does not go idle (R346). DEDUCED: log entry 10. -/
def anyHeld (s : State) : List Nat → Bool
  | [] => false
  | q :: qs =>
    match pollQueue s q with
    | (_, .held) => true
    | (s, _) => anyHeld s qs

/-- A front end's queues, from the one after that served last (R346, R504). -/
def frontQueues (s : State) (t : Nat) : List Nat := (rotateFrom 16 (s.tower t).feLast).filter fun q => queueTower s q = some t

def frontOn (s : State) (t : Nat) : Bool := t < 4 && !s.recovery && !goneTower s t && !(s.tower t).feIdle

/-- A front end serves one entry of this opcode, or stops a queue. `act` answers the state, and none when the entry stays.
DEDUCED, unsafe: log entry 47. -/
def feStep (op : Nat) (act : State → Nat → HostQueue → List Byte → State × Option (Bad × Word64)) (t : Nat) (s : State) :
    Host.Outcome State Fault Refusal :=
  if !frontOn s t then .next s
  else
    match pollAll s (frontQueues s t) with
    | (_, none) | (_, some (_, .idle)) | (_, some (_, .held)) => .next s
    | (u, some (q, .stopped)) => .next (u.modTower t fun x => { x with feLast := some q, feSince := u.cycle })
    | (u, some (q, .entry d bs)) =>
      if recNat bs 0 1 ≠ op then .next s
      else
        let u := u.modTower t fun x => { x with feLast := some q, feSince := u.cycle }
        match act u q d bs with
        | (v, none) => .next (homeWrite v (queueAddr v q + 16) (leBytes (d.head + 1) 8))
        | (v, some (b, a)) => .next (stopQueue v q d b.1 a)

/-- HQ_NOP (R345). -/
def execHqNop (tower : Nat) (s : State) : Host.Outcome State Fault Refusal := feStep 0 (fun s _ _ _ => (s, none)) tower s

/-- HQ_FENCE: later entries wait until the nodes of earlier ones are Done (R345). -/
def execHqFence (tower : Nat) (s : State) : Host.Outcome State Fault Refusal := feStep 3 (fun s _ _ _ => (s, none)) tower s

/-- Submit the record that an entry names. One that lies outside device memory is invalid (R352). -/
def hostSubmit (s : State) (q : Nat) (d : HostQueue) (bs : List Byte) : State × Option (Bad × Word64) :=
  let a := recNat bs 8 8
  let n := NMap.fresh s.nodes
  let nd : Node := { addr := BitVec.ofNat 64 a, asid := d.asid, queue := some q, cap := d.prio }
  let put (s : State) (nd : Node) : State := { s with nodes := NMap.set s.nodes n nd }
  match fePlace s d.asid a .read with
  | (s, .error b) => (invalidNode (put s nd) n b.1, none)
  | (s, .ok p) =>
    let nd := { nd with pa := p.pa }
    if p.host ∨ p.remote ∨ a % 64 ≠ 0 then (invalidNode (put s nd) n 140, none)
    else
      match feRead s d.asid a 128 with
      | (s, .error (b, _)) => (invalidNode (put s nd) n b.1, none)
      | (s, .ok r) => (submitNode (put s { nd with bytes := r }) n, none)

/-- HQ_SUBMIT (R345, R355). -/
def execHqSubmit (tower : Nat) (s : State) : Host.Outcome State Fault Refusal := feStep 1 hostSubmit tower s

/-- HQ_DECR (R345, R355). A decrement that faults stops the queue as a read of an entry does. DEDUCED: log entry 24. -/
def execHqDecr (tower : Nat) (s : State) : Host.Outcome State Fault Refusal :=
  feStep 2 (fun s _ d bs => decrement s d.asid (BitVec.ofNat 64 (recNat bs 8 8)) (recNat bs 16 4)) tower s

/-- FRONT_END_IDLE: no entry has been found for 4,096 cycles (R346). -/
def execFrontEndIdle (tower : Nat) (s : State) : Host.Outcome State Fault Refusal :=
  if frontOn s tower ∧ (s.tower tower).feSince + 4096 ≤ s.cycle then
    match pollAll s (frontQueues s tower) with
    | (_, none) => .next (if anyHeld s (frontQueues s tower) then s else s.modTower tower fun x => { x with feIdle := true })
    | _ => .next s
  else .next s

/-- A write of `DBELL` wakes the idle front ends that serve these queues (R346). -/
def writeDbell (s : State) (v : Word64) : Written :=
  ((List.range 4).foldl (fun s t =>
    if (s.tower t).feIdle ∧ (List.range 16).any fun q => bitOf v.toNat q && queueTower s q = some t then
      s.modTower t fun x => { x with feIdle := false, feSince := s.cycle }
    else s) s, none)

/-! ### Placement of gangs (R358 to R360, R353, R354) -/

/-- What a grid asks for. -/
structure Grid where
  total : Nat
  groups : Nat
  waves : Nat
  args : Nat
  argn : Nat
  seed : Word64
  ntile : Nat
  qmask : BitVec 4
  bmask : BitVec 16
  entry : VAddr
  regs : Nat
  scratch : Nat
  deriving DecidableEq, Repr

def Node.grid (nd : Node) : Grid :=
  let f := recNat nd.bytes
  { total := f 0x10 2 * f 0x12 2 * f 0x14 2, groups := f 0x16 1, waves := f 0x17 1, args := f 0x18 8, argn := f 0x2C 1
    seed := BitVec.ofNat 64 (f 0x20 8), ntile := f 0x28 1, qmask := BitVec.ofNat 4 (f 0x29 1), bmask := BitVec.ofNat 16 (f 0x2A 2)
    entry := BitVec.ofNat 48 (recNat nd.kd 0 8), regs := recNat nd.kd 8 2, scratch := recNat nd.kd 12 4 }

/-- Waves of `regs` registers that fit a quarter beside what is there; helper waves count as gone (R396). -/
def quarterTakes (s : State) (c q regs : Nat) : Nat :=
  let helpers := (quarterWaves s c q).filter (·.helperWave)
  let slots := ((quarterSlots q).filter fun sl => slotFree s c sl).length + helpers.length
  let sets := 8 - ((quarterWaves s c q).filter fun w => !w.helperWave && !w.scalPool).length
  let room := helpers.foldl (fun n w => n + w.allot) (givableRegs s c q)
  ((List.range (slots + 1)).filter fun n => n * regs + 2 * (n - sets) ≤ room).length - 1

/-- A core can take a group of the grid from what is free. -/
def coreTakes (s : State) (c : Nat) (g : Grid) : Bool :=
  groupFits s c g.scratch g.ntile g.bmask g.qmask &&
    g.waves ≤ (List.range 4).foldl (fun n q => n + quarterTakes s c q g.regs) 0

/-- A tower takes gangs: it is in service, stays so, and `NOPLACE` is 0. -/
def towerOpen (s : State) (t : Nat) : Bool := !(s.tower t).gone && !(s.tower t).sweep && !(s.tower t).noplace

/-- An evicted wave of the core, a woken one of its cluster or a suspended gang of its cluster comes before a gang of this
priority (R364, R365, R375). -/
def restoreFirst (s : State) (c prio : Nat) : Bool :=
  s.gangs.any (fun g => g.2.live && g.2.suspended.isSome && g.2.cluster = clusterOf c && prio ≤ gangPrio s g.1) ||
  s.waves.any fun w => prio ≤ wavePrio s w.1 && match w.2.place with
    | .evicted _ => homeCore s w.2 = c
    | .joining => w.2.woken.isSome && clusterOf (homeCore s w.2) = clusterOf c
    | _ => false

/-- A gang of the node can be placed now from what is free. -/
def canPlace (s : State) (nd : Node) : Bool :=
  (List.range 64).any fun k => towerOpen s (k / 16) &&
    nd.grid.groups ≤ ((clusterCores k).filter fun c => coreTakes s c nd.grid && !restoreFirst s c nd.prio).length

/-- The node has a gang to place: Ready with its tick passed, or Running with gangs left. -/
def Node.hasGang (nd : Node) (s : State) : Bool :=
  recNat nd.bytes 0 1 = 0 && (nd.st = .ready || nd.st = .running) && !nd.ended && nd.nextGang < nd.grid.total &&
    match nd.tick with
    | some t => t.toNat ≤ s.tick.toNat
    | none => true

/-- A node comes before another (R359). -/
def Node.before (a b : Node) : Bool := b.prio < a.prio || (a.prio = b.prio && a.readyAt < b.readyAt)

/-- The order R359 gives lets this node place a gang. -/
def firstReady (s : State) (n : Nat) (nd : Node) : Bool :=
  !(s.nodes.any fun m => m.1 ≠ n && m.2.hasGang s && m.2.before nd && canPlace s m.2)

/-- The cores and slots can take the gang (R11, R358). -/
def placementOk (s : State) (nd : Node) (place : Placement) : Bool :=
  let g := nd.grid
  let cs : List Nat := place.map fun x => x.1
  cs.length = g.groups && decide (cs.Pairwise (· < ·)) && (cs.all fun c => c < 256 && clusterOf c = clusterOf (cs.headD 0)) &&
    towerOpen s (towerOf (cs.headD 0)) && place.all fun x =>
      groupFits s x.1 g.scratch g.ntile g.bmask g.qmask && !restoreFirst s x.1 nd.prio && x.2.length = g.waves &&
        decide x.2.Nodup && slotsFit s x.1 (x.2.map fun sl => (sl, g.regs))

/-- The role of a wave by `ROLECNT` (R354). -/
def roleOf (r : List Byte) (i : Nat) : Nat := ((List.range 8).find? fun k => roleSum r k ≤ i && i < roleSum r (k + 1)).getD 0

/-- A wave of a new group (R353). -/
def newWave (nd : Node) (gk i order : Nat) (args : List Word64) : Wave :=
  { group := gk, waveid := i, role := roleOf nd.bytes i, asid := nd.asid, placedAt := order, allot := nd.grid.regs,
    level := nd.prio, s := args.zipIdx.map fun x => (x.2, Scalar.of x.1),
    splits := [(0, { pc := nd.grid.entry, mask := allLanes, state := .ready })] }

/-- Start one group of a gang: its resources and its waves. -/
def startGroup (nd : Node) (gang : Nat) (s : State) (x : Nat × Nat × List Nat × List Word64) : State :=
  let (gi, c, slots, args) := x
  let g := nd.grid
  let gk := NMap.fresh s.groups
  let w0 := NMap.fresh s.waves
  let ids := (List.range slots.length).map (w0 + ·)
  let set : Option ModRecord := if servable defaultRecord (s.tower (towerOf c)).map then some defaultRecord else none
  let s := s.setGroup gk {
    gang := gang, gid := gi, core := c, asid := nd.asid, order := s.stamp, waves := ids, seed := g.seed, scratchSize := g.scratch
    bmask := g.bmask, qmask := g.qmask, mset := set, tiles := (List.range g.ntile).map fun n => (n, Tile.zero set) }
  let s := s.modCore c fun k => { k with
    bars := (List.range 16).foldl (fun m n => if g.bmask.getLsbD n then NMap.set m n { owner := some gk } else m) k.bars
    queues := (List.range 4).foldl (fun m n => if g.qmask.getLsbD n then NMap.set m n { owner := some gk } else m) k.queues }
  (slots.zipIdx.foldl (fun s y => seatWave (s.setWave (w0 + y.2) (newWave nd gk y.2 s.stamp args)) (w0 + y.2) c y.1) s).bump

/-- The argument words of a group, read once as an acquire at SYSTEM scope (R353). -/
def readArgs (s : State) (nd : Node) (c : Nat) : State × Except (Bad × Nat) (List Word64) :=
  match feRead s nd.asid nd.grid.args (8 * nd.grid.argn) with
  | (s, .error e) => (s, .error e)
  | (s, .ok bs) => (acquireDevice s c, .ok ((List.range nd.grid.argn).map fun i => BitVec.ofNat 64 (recNat bs (8 * i) 8)))

/-- Read the arguments of every group of a gang; the first fault stops it. -/
def readAllArgs (nd : Node) : List (Nat × List Nat) → Nat → State → State × Except (Bad × Nat) (List (Nat × Nat × List Nat × List Word64))
  | [], _, s => (s, .ok [])
  | (c, slots) :: rest, gi, s =>
    match readArgs s nd c with
    | (s, .error e) => (s, .error e)
    | (s, .ok ws) =>
      match readAllArgs nd rest (gi + 1) s with
      | (s, .error e) => (s, .error e)
      | (s, .ok more) => (s, .ok ((gi, c, slots, ws) :: more))

/-- The argument block of a gang faults: the grid ends with the cause (R353). -/
def argFault (s : State) (n : Nat) (nd : Node) (cause : BitVec 8) (info : Word64) : State :=
  let a := BitVec.ofNat 64 nd.grid.args
  let s := endGrid (hostEvent s cause 0 0xFF a 0) n cause
  match nd.wave with
  | some w => addFault s w { cause := cause, addr := a, info := info }
  | none => s

/-- GANG_PLACE: every group of the grid's next gang is placed in one step (R358, R359). -/
def execGangPlace (node : Nat) (place : Placement) (s : State) : Host.Outcome State Fault Refusal :=
  match s.node? node with
  | none => .next s
  | some nd =>
    if s.recovery ∨ !nd.hasGang s ∨ !firstReady s node nd ∨ !placementOk s nd place then .next s
    else
      match readAllArgs nd place 0 s with
      | (s, .error (b, _)) => .next (argFault s node nd b.1 b.2)
      | (s, .ok gs) =>
        let gang := NMap.fresh s.gangs
        let g0 := NMap.fresh s.groups
        let s := { s with gangs := NMap.set s.gangs gang {
          node := node, gangid := nd.nextGang, cluster := clusterOf ((List.map Prod.fst place).headD 0)
          groups := (List.range place.length).map (g0 + ·), placedAt := s.stamp } }
        let s := s.modNode node fun x => { x with st := .running, nextGang := x.nextGang + 1 }
        let s := gs.foldl (startGroup nd gang) s
        .next ((List.map Prod.fst place).foldl setBanks s)

/-! ### Transforms and sluice nodes (R350, R351) -/

/-- A node that is Ready with its tick passed. -/
def Node.due (nd : Node) (s : State) : Bool :=
  nd.st = .ready && match nd.tick with
    | some t => t.toNat ≤ s.tick.toNat
    | none => true

/-- One line of a transform (R350). -/
def transformLine (s : State) (nd : Node) : State × Except Bad Phys :=
  let f := recNat nd.bytes
  let off := 64 * nd.lines
  if f 8 1 = 0 then
    match feRead s nd.asid (f 0x10 8 + off) 64 with
    | (s, .error (b, _)) => (s, .error b)
    | (s, .ok bs) => feWrite s nd.asid (f 0x18 8 + off) bs
  else feWrite s nd.asid (f 0x18 8 + off) (List.replicate 8 (leBytes (f 0x10 8) 8)).flatten

/-- TRANSFORM_RUN: the front end moves or fills the next line; a fault ends the transform with its cause (R350). -/
def execTransformRun (node : Nat) (s : State) : Host.Outcome State Fault Refusal :=
  match s.node? node with
  | none => .next s
  | some nd =>
    if recNat nd.bytes 0 1 ≠ 1 ∨ s.recovery ∨ !(nd.due s ∨ nd.st = .running) then .next s
    else
      let total := recNat nd.bytes 0x20 8 / 64
      if total ≤ nd.lines then .next (s.modNode node fun x => { x with st := .completing })
      else
        match transformLine s nd with
        | (s, .error b) => .next (s.modNode node fun x => { x with st := .completing, status := b.1.toNat })
        | (s, .ok _) =>
          .next (s.modNode node fun x => { x with
            lines := x.lines + 1, st := if x.lines + 1 = total then .completing else .running })

/-- SLUICE_NODE_START: a sluice node enters the command queue of its core (R351). -/
def execSluiceNodeStart (node core : Nat) (s : State) : Host.Outcome State Fault Refusal :=
  match s.node? node with
  | none => .next s
  | some nd =>
    let f := recNat nd.bytes
    let named := f 0x30 2 = 0xFFFF ∨ f 0x30 2 = core
    if f 0 1 ≠ 2 ∨ !nd.due s ∨ !named ∨ 256 ≤ core ∨ goneTower s (towerOf core) ∨ 8 ≤ (s.core core).sluiceQ.length then .next s
    else
      let q : SluiceCmd := {
        id := s.stamp, wave := none, node := some node, asid := nd.asid, image := BitVec.ofNat 64 (f 8 8)
        args := (List.range 4).map fun i => BitVec.ofNat 64 (f (0x10 + 8 * i) 8) }
      let s := s.bump.modCore core fun k => { k with sluiceQ := k.sluiceQ ++ [q] }
      .next (s.modNode node fun x => { x with st := .running, core := some core })

/-! ### Completion (R356, R371) -/

/-- Report a failed access of a completing node (R356). -/
def completeFault (s : State) (nd : Node) (b : Bad) (a : Nat) : State := hostEvent s b.1 0 0xFF (BitVec.ofNat 64 a) nd.addr

/-- Step 2: write the status to `DONE` and make the word Full. -/
def writeDone (s : State) (nd : Node) : State :=
  let a := recNat nd.bytes 0x40 8
  if a = 0 then s
  else
    match feWrite s nd.asid a (leBytes nd.status 8) with
    | (s, .error b) => completeFault s nd b a
    | (s, .ok p) => if p.host then s else wakeWord s (lineNo p.pa) (p.pa % 64 / 8)

/-- Step 3: the join counter goes down by one. -/
def dropJoin (s : State) (nd : Node) : State :=
  let a := recNat nd.bytes 0x38 8
  if a = 0 then s
  else
    match feUpdate s nd.asid a 8 fun v => (v + 2 ^ 64 - 1) % 2 ^ 64 with
    | (s, .error b) => completeFault s nd b a
    | (s, .ok _) => s

/-- Step 4: the counts of the first `NSUCC` successors go down in order; a record holds four of them. -/
def dropSuccs (s : State) (nd : Node) : State :=
  (List.range (min (recNat nd.bytes 0x50 1) 4)).foldl (fun s i =>
    match decrement s nd.asid (BitVec.ofNat 64 (recNat nd.bytes (0x58 + 8 * i) 8)) 1 with
    | (s, some (b, a)) => completeFault s nd b a.toNat
    | (s, none) => s) s

/-- Discard the deque entries of an address space whose last grid is Done (R371). -/
def dropTasks (s : State) (asid : Nat) : State :=
  if s.nodes.any fun n => n.2.asid = asid && recNat n.2.bytes 0 1 = 0 && n.2.st ≠ .done then s
  else
    { s with cores := NMap.mapVal s.cores fun _ k => { k with
        deque := k.deque.filter fun t => t.asid ≠ asid, spill := k.spill.filter fun t => t.asid ≠ asid } }

/-- The gangs of a node. -/
def gangsOf (s : State) (n : Nat) : List Gang := (s.gangs.filter fun g => g.2.node = n).map (·.2)

/-- The node's work is over (R356). -/
def nodeOver (s : State) (n : Nat) (nd : Node) : Bool :=
  nd.st = .completing || (recNat nd.bytes 0 1 = 0 && (nd.st = .running || nd.st = .ready) &&
    (nd.ended || nd.grid.total ≤ nd.nextGang) && (gangsOf s n).all fun g => g.groups.all fun k => !(s.group k).live)

/-- Waves of the node with accesses not yet performed. -/
def nodeWaves (s : State) (n : Nat) : List Nat := (s.waves.filter fun w => nodeOfWave s w.1 = some n).map (·.1)

/-- NODE_COMPLETE: once every access of the node has been performed, the steps of R356. -/
def execNodeComplete (node : Nat) (s : State) : Host.Outcome State Fault Refusal :=
  match s.node? node with
  | none => .next s
  | some nd =>
    if !nodeOver s node nd then .next s
    else
      let ws := nodeWaves s node
      let s := ws.foldl drainWave s
      if ws.any fun w => s.owes w allLanes then .next s
      else
        let ks := ((gangsOf s node).map (·.cluster) ++ (nd.core.map clusterOf).toList).dedup
        let s := ks.foldl releaseDevice s
        let s := s.modNode node fun x => { x with st := .completing }
        let s := dropSuccs (dropJoin (writeDone s nd) nd) nd
        let s := s.modNode node fun x => { x with st := .done }
        .next (if recNat nd.bytes 0 1 = 0 then dropTasks s nd.asid else s)

end Sys2Proof.Machine
end

