-- ==== Sys2Proof/Machine/MemOrder.lean ====
section
/-! DEFINITION. Memory ordering and cache control: FENCE (R235), CCTL (R236), ICINV (R237), and the events that complete
them and write dirty lines back (R213). -/

namespace Sys2Proof.Machine

/-! ### FENCE (R235) -/

/-- A helper's release fence widens the commit of its chunk (R234). -/
def widen (old : Option Scope) (sc : Scope) : Option Scope :=
  match old with
  | some o => some (if o.code < sc.code then sc else o)
  | none => some sc

/-- FENCE in helper code: the acquire acts at once, since helper loads are performed at once; the release is the commit's. -/
def helperFence (c : Ctx) (s : State) (order : MemOrder) (scope : Scope) (eff : LaneMask) : State :=
  let s := if acquires order && Scope.wide scope then fenceAcquire s c.wid c.core else s
  if releases order then
    s.modWave c.wid fun w => { w with
      helpers := NMap.mapVal w.helpers fun l h => if eff.getLsbD l then { h with fence := widen h.fence scope } else h }
  else s

/-- FENCE (R235). -/
def execFence (g : Guard) (order : MemOrder) (scope : Scope) (s : State) : Host.Outcome State Fault Refusal :=
  withCtx s fun c =>
    let eff := c.eff g
    if eff = 0 then .next (s.advance c.wid)
    else
      let s := abortOpen c s eff
      let s := if c.helper then helperFence c s order scope eff else fenceNow s c.wid (.fence g order scope) eff
      .next (s.advance c.wid)

/-! ### Operations with a token -/

/-- Put a token operation among the asynchronous ones of its wave: its token becomes Pending. -/
def Ctx.startAsync (c : Ctx) (s : State) (i : Instr) (tok : Fin 32) (a len : Word64) : State :=
  let s := drainWave s c.wid
  let s := s.modWave c.wid fun w => { w with
    nextOp := w.nextOp + 1
    asyncs := w.asyncs ++ [{ c.newOp i with
      id := w.nextOp, mask := laneBit 0, scal := true, ea := [(0, a)]
      data := [(0, BitVec.ofNat 128 len.toNat), (1, BitVec.ofNat 128 c.core)] }] }
  (pendToken s c.wid tok.val).advance c.wid

/-- The core an asynchronous operation was issued on. -/
def MemOp.core (o : MemOp) : Nat := (o.datum 1).toNat

/-- The operation completes with status 0: its token becomes Ready (R16). -/
def endAsync (s : State) (wid : Nat) (o : MemOp) (tok : Fin 32) (scope : Scope) : State :=
  let s := s.modWave wid fun w => { w with asyncs := w.asyncs.filter fun x => x.id ≠ o.id }
  let s := setToken s wid tok.val 0
  let s := if Scope.wide scope then wideToken s wid tok.val else s
  match s.wave? wid with
  | some w => clearSpin s w.group
  | none => s

/-! ### CCTL (R236) -/

/-- The operations of CCTL. -/
inductive CctlOp where
  | wb | inv | wbinv
  deriving DecidableEq, Repr

/-- The first locked address a range meets (R32), and whether its lock is a write lock. -/
def rangeLock (ls : List Lock) (sp : LockSpace) (a n : Nat) : Option (Nat × Bool) :=
  if n = 0 then none
  else
    ((ls.filter fun l => l.meets sp (granules a n).1 (granules a n).2).map fun l => (max a (64 * l.lo), l.write)).foldl
      (fun b x => match b with
        | some y => if x.1 < y.1 then some x else b
        | none => some x) none

/-- The precise traps of CCTL. -/
def cctlCheck (c : Ctx) (s : State) (op : CctlOp) (f : CctlForm) : Option TrapInfo :=
  let a := c.sVal f.a
  let n := c.sVal f.d
  let eff := c.eff f.g
  match c.addrCodes s [f.a, f.d] with
  | some t => some { t with lanes := eff }
  | none =>
    if 2 ^ 48 < n.toNat ∨ 2 ^ 48 < a.toNat + n.toNat then some { cause := 39, addr := a, lanes := eff }
    else
      match op with
      | .wb => none
      | .inv | .wbinv =>
        match rangeLock (s.locksAt c.core) (.virt c.w.asid) a.toNat n.toNat with
        | some (x, w) => some { cause := 41, addr := BitVec.ofNat 64 x, lanes := eff, info := BitVec.ofNat 64 (bit w) }
        | none => none

/-- Issue a CCTL.
DEDUCED, unsafe: log entry 31. -/
def cctlRun (op : CctlOp) (f : CctlForm) (i : Instr) (s : State) : Host.Outcome State Fault Refusal :=
  withCtx s fun c =>
    if !c.guardHolds f.g then .next (s.advance c.wid)
    else
      match cctlCheck c s op f with
      | some t => instrTrap c s t
      | none => .next (c.startAsync (abortOpen c s (c.eff f.g)) i f.b (c.sVal f.a) (c.sVal f.d))

/-- CCTL.wb (R236). -/
def execCctlWb (f : CctlForm) (s : State) : Host.Outcome State Fault Refusal := cctlRun .wb f (.cctlWb f) s

/-- CCTL.inv (R236). -/
def execCctlInv (f : CctlForm) (s : State) : Host.Outcome State Fault Refusal := cctlRun .inv f (.cctlInv f) s

/-- CCTL.wbinv (R236). -/
def execCctlWbinv (f : CctlForm) (s : State) : Host.Outcome State Fault Refusal := cctlRun .wbinv f (.cctlWbinv f) s

/-- One line of the range; `whole` when it lies wholly inside. -/
def cctlLine (s : State) (k : Nat) (op : CctlOp) (whole : Bool) (ln : Nat) : State :=
  match op with
  | .wb => recallLine s k ln
  | .inv => dropCopies (if whole then s else recallLine s k ln) k ln
  | .wbinv => dropCopies (recallLine s k ln) k ln

/-- The lines held by the L1s of a cluster. -/
def cachedLines (s : State) (k : Nat) : List Nat := ((clusterCores k).flatMap fun c => (s.l1 c).map (·.line)).dedup

/-- The lines of one 64-KiB page of the range [a, a+n), if the page is mapped; no other device's and no host memory's line
stands in an L1. -/
def cctlPage (s : State) (c asid : Nat) (op : CctlOp) (a n page : Nat) : State :=
  match lookup s c asid (65536 * page) .read with
  | (s, .error _) => s
  | (s, .ok e) =>
    let pa := e.pa + (65536 * page - e.va)
    if e.host ∨ 2 ^ 51 ≤ pa then s
    else
      ((cachedLines s (clusterOf c)).filter fun ln => pa ≤ 64 * ln && 64 * ln < pa + 65536).foldl (fun s ln =>
        let va := 65536 * page + (64 * ln - pa)
        if va < a + n ∧ a < va + 64 then cctlLine s (clusterOf c) op (a ≤ va && va + 64 ≤ a + n) ln else s) s

/-- Every line of the range, at DEVICE scope or wider. -/
def cctlRange (s : State) (c asid : Nat) (op : CctlOp) (scope : Scope) (a n : Nat) : State :=
  if n = 0 ∨ !Scope.wide scope then s
  else (List.range ((a + n - 1) / 65536 - a / 65536 + 1)).foldl (fun s i => cctlPage s c asid op a n (a / 65536 + i)) s

/-- The fields of a CCTL. -/
def Instr.cctl? : Instr → Option (CctlOp × CctlForm)
  | .cctlWb f => some (.wb, f)
  | .cctlInv f => some (.inv, f)
  | .cctlWbinv f => some (.wbinv, f)
  | _ => none

/-- CCTL_COMPLETE: a CCTL acts, releases and completes its token (R236). -/
def execCctlComplete (wave op : Nat) (s : State) : Host.Outcome State Fault Refusal :=
  match (s.wave? wave).bind fun w => (w.asyncs.find? fun o => o.id = op).bind fun o =>
      (Instr.cctl? o.instr).map fun f => (w, o, f) with
  | some (w, o, k, f) =>
    if !waveClear s wave o.id then .next s
    else
      let s := cctlRange s o.core w.asid k f.scope (o.at_ 0).toNat (o.datum 0).toNat
      let s := if (o.datum 0).toNat = 0 then s else releaseFor s o.core .release f.scope
      .next (endAsync s wave o f.b f.scope)
  | none => .next s

/-! ### ICINV (R237) -/

/-- ICINV (R237). -/
def execIcinv (g : Guard) (scope : Scope) (tok : Fin 32) (s : State) : Host.Outcome State Fault Refusal :=
  withCtx s fun c =>
    if !c.guardHolds g then .next (s.advance c.wid)
    else .next (c.startAsync (abortOpen c s (c.eff g)) (.icinv g scope tok) tok 0 0)

/-- The cores whose instruction caches an ICINV invalidates. -/
def icinvCores (c : Nat) (scope : Scope) : List Nat :=
  match scope with
  | .wave | .group => [c]
  | .cluster => clusterCores (clusterOf c)
  | .device | .system => List.range 256

/-- Empty the instruction cache of a core: what memory held before now is fetched no more (R238). -/
def dropCode (s : State) (c : Nat) : State := s.modCore c fun k => { k with icache := [], codeFrom := s.oldWords.length }

/-- ICINV_COMPLETE: the release, the invalidation and the token (R237). -/
def execIcinvComplete (wave op : Nat) (s : State) : Host.Outcome State Fault Refusal :=
  match (s.wave? wave).bind fun w => w.asyncs.find? fun o => o.id = op with
  | some o =>
    match o.instr with
    | .icinv _ scope tok =>
      if !waveClear s wave o.id then .next s
      else
        let s := releaseDevice s (clusterOf o.core)
        let s := (icinvCores o.core scope).foldl dropCode s
        .next (endAsync s wave o tok scope)
    | _ => .next s
  | none => .next s

/-! ### Write-back of dirty lines (R213) -/

/-- DIRTY_LINE_WRITE_BACK: a cluster writes a dirty line back, the one stored to longest ago (R213). -/
def execDirtyLineWriteBack (cluster : Nat) (s : State) : Host.Outcome State Fault Refusal :=
  match dirtyLines s cluster with
  | (c, l) :: _ => .next (writeBack s c l)
  | [] => .next s

end Sys2Proof.Machine
end

