-- ==== Sys2Proof/Machine/Preempt.lean ====
section
/-! DEFINITION. Pre-emption and joining as the dispatcher performs them (R363 to R366, R375, R421 to R424). -/

namespace Sys2Proof.Machine

/-! ### The order of restores (R364, R375) -/

/-- What waits for a place: its priority and the order of its eviction or waking; none for a wave that does not wait. -/
def waiting (s : State) (w : Nat) (x : Wave) : Option (Nat × Nat) :=
  match x.place, x.woken with
  | .evicted k, _ => some (wavePrio s w, k)
  | .joining, some k => some (wavePrio s w, k)
  | _, _ => none

/-- The first of two waiting waves: higher priority, then the older. -/
def ranksBefore (a b : Nat × Nat) : Bool := b.1 < a.1 || (a.1 = b.1 && a.2 < b.2)

/-- A wave that waits for this core ranks before: an evicted one of the core, or a woken one of the cluster. -/
def outrankedAt (s : State) (w c : Nat) (mine : Nat × Nat) : Bool :=
  s.waves.any fun y => y.1 ≠ w && match waiting s y.1 y.2 with
    | some r => ranksBefore r mine && (match y.2.place with
        | .evicted _ => homeCore s y.2 = c
        | _ => clusterOf (homeCore s y.2) = clusterOf c)
    | none => false

/-- The gang of a wave is neither suspended nor about to be. -/
def gangStays (s : State) (x : Wave) : Bool :=
  match s.gang? (s.group x.group).gang with
  | some g => g.suspended.isNone && !g.suspendReq
  | none => true

/-! ### Room that could be made (R363, R365, R396) -/

/-- The machine as it would be with these waves and gangs off their cores, as far as room goes. -/
def roomWithout (s : State) (waves gangs : List Nat) : State :=
  let goneGroup (gk : Nat) : Bool := gangs.contains (s.group gk).gang
  let goneWave (w : Nat) : Bool := waves.contains w || ((s.wave? w).map fun x => goneGroup x.group).getD false
  { s with
    gangs := NMap.mapVal s.gangs fun i g => if gangs.contains i then { g with suspended := some 0 } else g
    groups := NMap.mapVal s.groups fun gk g => if goneGroup gk then { g with pools := [] } else g
    cores := NMap.mapVal s.cores fun _ k => { k with
      slots := k.slots.filter fun x => !goneWave x.2
      bars := NMap.mapVal k.bars fun _ b => if (b.owner.map goneGroup).getD false then {} else b
      queues := k.queues.filter fun q => !(q.2.owner.map goneGroup).getD false } }

/-- The machine with its helper waves released, which the scheduler does before all else (R396). -/
def withoutHelpers (s : State) : State := roomWithout s ((s.waves.filter fun w => w.2.helperWave).map (·.1)) []

/-- The machine once the helper waves are released and every request that pends has taken hold (R396, R421). -/
def afterPending (s : State) : State :=
  roomWithout s ((s.waves.filter fun w => w.2.helperWave || w.2.evictReq).map (·.1))
    ((s.gangs.filter fun g => g.2.suspendReq).map (·.1))

/-- The sets of k members of a list, those with its first members first. -/
def subsets {α : Type} : Nat → List α → List (List α)
  | 0, _ => [[]]
  | _ + 1, [] => []
  | k + 1, x :: xs => (subsets k xs).map (x :: ·) ++ subsets (k + 1) xs

/-- The waves of a core that may be evicted for work of a priority, the first victim first: those of the lowest-priority grid,
and of one grid those placed last (R363). -/
def evictable (s : State) (c prio : Nat) : List Nat :=
  let rank (w : Nat × Wave) : Nat × Nat := (wavePrio s w.1, w.2.placedAt)
  let ws := s.waves.filter fun w => !w.2.helperWave && !w.2.evictReq && gangStays s w.2 && wavePrio s w.1 < prio &&
    match w.2.place with
    | .resident d _ => d = c
    | _ => false
  (sortBy (fun a b => (rank a).1 < (rank b).1 || ((rank a).1 = (rank b).1 && (rank b).2 ≤ (rank a).2)) ws).map (·.1)

/-- The fewest waves of a core whose eviction gives enough room, beside the requests that pend; of several sets, the first in
the order of victims (R363, R421). DEDUCED, unsafe: log entry 17. -/
def victims (s : State) (c prio : Nat) (enough : State → Bool) : Option (List Nat) :=
  let u := afterPending s
  let ws := evictable s c prio
  if !enough (roomWithout u ws []) then none
  else (List.range (ws.length + 1)).findSome? fun k => (subsets k ws).find? fun vs => enough (roomWithout u vs [])

/-- The waves to evict so that a core takes one group of a node's gang; none where eviction does not help. -/
def coreVictims (s : State) (nd : Node) (c : Nat) : Option (List Nat) :=
  if restoreFirst s c nd.prio then none else victims s c nd.prio fun u => coreTakes u c nd.grid

/-- The waves to evict so that a cluster takes a gang of a node, on the cores that need the fewest. -/
def clusterVictims (s : State) (nd : Node) (k : Nat) : Option (List Nat) :=
  let vs := sortBy (fun a b => a.length ≤ b.length) ((clusterCores k).filterMap (coreVictims s nd))
  if towerOpen s (k / 16) && nd.grid.groups ≤ vs.length then some (vs.take nd.grid.groups).flatten else none

/-- The waves to evict for a gang of a node: one list for each cluster that needs the fewest. -/
def gangVictims (s : State) (nd : Node) : List (List Nat) :=
  let ps := (List.range 64).filterMap (clusterVictims s nd)
  ps.filter fun p => ps.all fun q => p.length ≤ q.length

/-- The waves to evict on its group's core for a woken wave for which its cluster has no room (R375). -/
def joinVictims (s : State) (w : Nat) (x : Wave) : List Nat :=
  let c := homeCore s x
  if (clusterCores (clusterOf c)).any fun d => coreFits (afterPending s) d x.allot then []
  else (victims s c (wavePrio s w) fun u => coreFits u c x.allot).getD []

/-- A wave is a victim of some work that lacks room (R363, R375). -/
def isVictim (s : State) (wave : Nat) : Bool :=
  s.nodes.any (fun n => n.2.hasGang s && (gangVictims s n.2).any fun p => p.contains wave) ||
    s.waves.any fun w => w.2.place = .joining && w.2.woken.isSome && (joinVictims s w.1 w.2).contains wave

/-- A helper wave stands on one of these cores. -/
def helperOn (s : State) (cores : List Nat) : Bool :=
  s.waves.any fun w => w.2.helperWave && match w.2.place with
    | .resident c _ => cores.contains c
    | _ => false

/-! ### Eviction and restore (R363, R364) -/

/-- WAVE_EVICT: a victim is asked to stop, and does so at once between clauses (R54, R363, R421). Helper waves of its core go
first (R396). -/
def execWaveEvict (wave : Nat) (s : State) : Host.Outcome State Fault Refusal :=
  match s.wave? wave with
  | none => .next s
  | some x =>
    match x.place with
    | .resident c _ =>
      if !isVictim s wave ∨ helperOn s [c] ∨ !poolFits s (towerOf c) (waveBlocks s wave) then .next s
      else if x.canStop then .next (evictNow s wave)
      else .next (s.modWave wave fun x => x.pend s.cycle)
    | _ => .next s

/-- WAVE_RESTORE: an evicted wave returns to its core, once its tags check (R364, R424). `damaged` is a block that the read
finds uncorrectable. -/
def execWaveRestore (wave slot : Nat) (damaged : Option Nat) (s : State) : Host.Outcome State Fault Refusal :=
  match s.wave? wave with
  | none => .next s
  | some x =>
    match x.place with
    | .evicted k =>
      let c := homeCore s x
      if !gangStays s x ∨ outrankedAt s wave c (wavePrio s wave, k) ∨ !slotFits s c slot x.allot then .next s
      else
        match damagedBlock s x.ctx damaged with
        | some b => .next (damageWave s wave b)
        | none => .next (resumeWave s wave c slot)
    | _ => .next s

/-! ### Suspension and resumption (R365, R397) -/

/-- Blocks that the suspension of a gang adds to the pool. -/
def gangBlocks (s : State) (g : Gang) : Nat :=
  let ws := s.waves.filter fun w => g.groups.contains w.2.group && !w.2.helperWave && match w.2.place with
    | .resident .. => true
    | _ => false
  ws.foldl (fun n w => n + waveBlocks s w.1) 0 + g.groups.foldl (fun n gk => n + groupBlocks (s.group gk)) 0

/-- A group holds scratchpad, tiles, a barrier or a queue that a grid lacks on its core (R365). -/
def holdsLacking (s : State) (gr : Grid) (gk : Nat) : Bool :=
  let g := s.group gk
  let c := g.core
  let scratch := scratchUsed s c + gr.scratch
  (0 < g.scratchSize && (458752 < scratch || bankLimit s c < banksFor scratch)) ||
    (!g.tiles.isEmpty && 16 < tilesUsed s c + gr.ntile) || g.bmask &&& gr.bmask ≠ 0 || g.qmask &&& gr.qmask ≠ 0

/-- The gangs of a cluster that may be suspended for a node's gang, the first first: those of the lowest priority, and of one
priority those placed last (R365). -/
def suspendable (s : State) (nd : Node) (k : Nat) : List Nat :=
  let rank (g : Nat × Gang) : Nat × Nat := (gangPrio s g.1, g.2.placedAt)
  let gs := s.gangs.filter fun g => g.2.live && !g.2.suspendReq && g.2.suspended.isNone && g.2.cluster = k && gangPrio s g.1 < nd.prio
  (sortBy (fun a b => (rank a).1 < (rank b).1 || ((rank a).1 = (rank b).1 && (rank b).2 ≤ (rank a).2)) gs).map (·.1)

/-- A gang is the next to be suspended: a node's gang lacks what it holds, no eviction makes room anywhere, and its cluster
takes that gang once such gangs are suspended (R365). DEDUCED, unsafe: log entry 17. -/
def suspendDue (s : State) (gang : Nat) (g : Gang) : Bool :=
  s.nodes.any fun n => n.2.hasGang s && gangVictims s n.2 = [] &&
    let gs := (suspendable s n.2 g.cluster).filter fun i =>
      ((s.gang? i).map fun x => x.groups.any (holdsLacking (afterPending s) n.2.grid)).getD false
    gs.head? = some gang && (clusterVictims (roomWithout s [] gs) n.2 g.cluster).isSome

/-- GANG_SUSPEND: system software, or the dispatcher where a gang lacks what lower-priority groups hold, suspends a whole gang
(R365). Helper waves of its cluster go first (R396). -/
def execGangSuspend (ask : SuspendAsk) (s : State) : Host.Outcome State Fault Refusal :=
  match s.gang? ask.gang with
  | none => .next s
  | some g =>
    if !g.live ∨ g.suspendReq ∨ g.suspended.isSome ∨ !poolFits s (g.cluster / 16) (gangBlocks s g) then .next s
    else if !ask.software ∧ (!suspendDue s ask.gang g ∨ helperOn s (clusterCores g.cluster)) then .next s
    else .next (askSuspend s ask.gang)

/-- The waves of a suspended group that take a slot when it resumes: those with a saved context, and those whose join
counter has reached zero (R366). -/
def resumeSet (s : State) (gk : Nat) : List (Nat × Wave) :=
  s.waves.filter fun w => w.2.group = gk && match w.2.place with
    | .suspended joining => !joining || w.2.joinZero
    | _ => false

/-- A core can take a suspended group with its waves in these slots. -/
def resumeFits (s : State) (gk c : Nat) (slots : List Nat) : Bool :=
  let g := s.group gk
  let ws := resumeSet s gk
  groupFits s c g.scratchSize g.tiles.length g.bmask g.qmask && slots.length = ws.length && decide slots.Nodup &&
    (g.savedTurnouts.all fun t => (s.turnout c t.1).st = .free) &&
    slotsFit s c ((slots.zip ws).map fun y => (y.1, y.2.2.allot))

/-- Another suspended gang of the cluster comes first. -/
def gangOutranked (s : State) (gi : Nat) (g : Gang) : Bool :=
  s.gangs.any fun y => y.1 ≠ gi && y.2.live && y.2.cluster = g.cluster && match y.2.suspended, g.suspended with
    | some a, some b => ranksBefore (gangPrio s y.1, a) (gangPrio s gi, b)
    | _, _ => false

/-- One wave of a resumed gang takes its slot. -/
def resumeOne (c : Nat) (s : State) (y : Nat × Nat × Wave) : State :=
  match y.2.2.place with
  | .suspended true => resumeJoin (s.modWave y.2.1 fun x => { x with place := .joining }) y.2.1 c y.1
  | _ => resumeWave s y.2.1 c y.1

/-- A group of a resumed gang takes its core, which is placing it (R209), and its waves their slots.
DEDUCED, safe: log entry 20. -/
def resumeGroup (s : State) (x : Nat × Nat × List Nat) : State :=
  let (gk, c, slots) := x
  let ws := resumeSet s gk
  let s := setBanks (acquireDevice (loadGroup s gk c) c) c
  let s := (slots.zip ws).foldl (resumeOne c) s
  { s with waves := NMap.mapVal s.waves fun _ w => if w.group = gk ∧ w.place = .suspended true then { w with place := .joining } else w }

/-- Every block that a gang's resumption reads (R424). -/
def gangContext (s : State) (g : Gang) : List Nat :=
  g.groups.flatMap fun gk => (s.group gk).ctx ++ (resumeSet s gk).flatMap fun w => w.2.ctx

/-- A block of a suspended gang fails: the wave whose it is, or the group's state, cannot be restored (R424). -/
def damageGang (s : State) (g : Gang) (block : Nat) : State :=
  match s.waves.find? fun w => g.groups.contains w.2.group && w.2.ctx.contains block with
  | some w => damageWave s w.1 block
  | none => contextLost s (some g.node) block

/-- GANG_RESUME: a suspended gang resumes as a whole on cores of its cluster (R365, R397, R424). `damaged` is a block that the
read finds uncorrectable. -/
def execGangResume (gang : Nat) (place : Placement) (damaged : Option Nat) (s : State) : Host.Outcome State Fault Refusal :=
  match s.gang? gang with
  | none => .next s
  | some g =>
    let cs : List Nat := place.map fun x => x.1
    let ok := g.live && g.suspended.isSome && cs.length = g.groups.length && decide (cs.Pairwise (· < ·)) &&
      (cs.all fun c => clusterOf c = g.cluster) && !goneTower s (g.cluster / 16) && !gangOutranked s gang g &&
      (g.groups.zip place).all fun x => resumeFits s x.1 x.2.1 x.2.2
    if !ok then .next s
    else
      match damagedBlock s (gangContext s g) damaged with
      | some b => .next (damageGang s g b)
      | none =>
        let s := s.modGang gang fun x => { x with suspended := none }
        .next ((g.groups.zip place).foldl resumeGroup s)

/-! ### Joining (R375, R376) -/

/-- JOIN_COUNTER_ZERO: the waves parked on a counter that has reached zero are woken (R375). -/
def execJoinCounterZero (pa : Nat) (s : State) : Host.Outcome State Fault Refusal :=
  let due (w : Wave) : Bool := w.place = .joining && w.joinZero && w.woken.isNone && w.joinAddr.map Prod.fst = some pa
  if s.waves.any fun w => due w.2 then
    let s' : State := { s with waves := NMap.mapVal s.waves fun _ w => if due w then { w with woken := some s.stamp } else w }
    .next s'.bump
  else .next s

/-- JOIN_RESUME: a woken wave resumes on its group's core if that has room, helper waves aside (R396), else on another of the
cluster (R375), once the tags of a phase record in the pool check (R424). -/
def execJoinResume (wave core : Nat) (back : JoinReturn) (s : State) : Host.Outcome State Fault Refusal :=
  match s.wave? wave with
  | none => .next s
  | some x =>
    match x.place, x.woken with
    | .joining, some k =>
      let home := homeCore s x
      if clusterOf core ≠ clusterOf home ∨ !gangStays s x ∨ outrankedAt s wave core (wavePrio s wave, k) ∨
          !slotFits s core back.slot x.allot ∨ (core ≠ home ∧ coreFits (withoutHelpers s) home x.allot) then .next s
      else
        match damagedBlock s x.ctx back.damaged with
        | some b => .next (damageWave s wave b)
        | none => .next (resumeJoin s wave core back.slot)
    | _, _ => .next s

/-! ### A request that is overdue (R421) -/

/-- PREEMPT_OVERDUE: a request that has pended for 65,536 cycles while the wave's mask is set is reported (R421). -/
def execPreemptOverdue (wave : Nat) (s : State) : Host.Outcome State Fault Refusal :=
  match s.wave? wave with
  | none => .next s
  | some x =>
    match x.place with
    | .resident c sl =>
      if x.evictReq ∧ x.frame.mask ∧ x.frame.ovd = false ∧ x.reqAt + 65536 ≤ s.cycle then
        let s := pushEvent s 143 0 c sl 0 0 (BitVec.ofNat 64 (c + sl * 2 ^ 8)) []
        .next (s.modWave wave fun x => { x with frame := { x.frame with ovd := true } })
      else .next s
    | _ => .next s

end Sys2Proof.Machine
end

