-- ==== Sys2Proof/Machine/SysReg.lean ====
section
/-! DEFINITION. System registers (R432 to R435 and the registers of the other chapters): their numbers, how each reads and
what a write of it does; SRD and SWR; and the host's writes through the management space. -/

namespace Sys2Proof.Machine

/-! ### Numbers -/

/-- The system registers. -/
inductive SysReg where
  | mode | seed | fmt | mstat | tick | where_
  | tcause | tpc | taddr | tlanes | tinfo | tstat | tvec | tscr (i : Nat)
  | rqsel | rqword | rqhdr | rqctl | rqmask | rqa (i : Nat) | rqd (i : Nat)
  | contain | ccnt (i : Nat) | wp (i : Nat)
  | astbase | hqbase | spillbase | spillcap | ctxbase | ctxsize | ambase | amload | bndset (i : Nat)
  | rcline | rcarm | rcstat | ptpline | devid | cmbase | rtbase | portstat | portctl
  | evring | evhead | evtail | evlost | diemap | diedrop | svcstat | twrctl | dbell | wayen | bankgate
  | pwrcap | therm | tickset | attctl | attn (i : Nat)
  deriving DecidableEq, Repr

/-- The numbers (R107, R245, R291, R292, R294, R412, R433, R217, R447, R478, R496). -/
def regTable : List (Nat × SysReg) :=
  [(0x10, .mode), (0x11, .seed), (0x12, .fmt), (0x13, .mstat), (0x14, .tick), (0x15, .where_)] ++
  [(0x20, .tcause), (0x21, .tpc), (0x22, .taddr), (0x23, .tlanes), (0x24, .tinfo), (0x25, .tstat), (0x26, .tvec),
   (0x28, .tscr 0), (0x29, .tscr 1), (0x2A, .tscr 2), (0x2B, .tscr 3)] ++
  [(0x30, .rqsel), (0x31, .rqword), (0x32, .rqhdr), (0x33, .rqctl), (0x34, .rqmask), (0x35, .rqa 0), (0x36, .rqa 1),
   (0x37, .rqd 0), (0x38, .rqd 1), (0x39, .rqd 2), (0x3A, .rqd 3)] ++
  [(0x40, .contain), (0x41, .ccnt 0), (0x42, .ccnt 1), (0x43, .ccnt 2), (0x80, .wp 0), (0x81, .wp 1), (0x82, .wp 2), (0x83, .wp 3)] ++
  [(0x100, .astbase), (0x101, .hqbase), (0x102, .spillbase), (0x103, .spillcap), (0x104, .ctxbase), (0x105, .ctxsize),
   (0x106, .ambase), (0x107, .amload), (0x108, .bndset 0), (0x109, .bndset 1), (0x10A, .bndset 2), (0x10B, .bndset 3)] ++
  [(0x110, .rcline), (0x111, .rcarm), (0x112, .rcstat), (0x118, .ptpline), (0x120, .devid), (0x121, .cmbase), (0x122, .rtbase),
   (0x123, .portstat), (0x124, .portctl)] ++
  [(0x130, .evring), (0x131, .evhead), (0x132, .evtail), (0x133, .evlost), (0x134, .diemap), (0x135, .diedrop), (0x136, .svcstat),
   (0x138, .twrctl), (0x139, .dbell), (0x13C, .wayen), (0x13D, .bankgate)] ++
  [(0x140, .pwrcap), (0x141, .therm), (0x142, .tickset), (0x144, .attctl), (0x148, .attn 0), (0x149, .attn 1), (0x14A, .attn 2),
   (0x14B, .attn 3)]

/-- The register a number names. -/
def regOf (n : Nat) : Option SysReg := (regTable.find? fun x => x.1 = n).map (·.2)

/-- Per-lane registers, read into and written from vector registers (R432). -/
def SysReg.perLane : SysReg → Bool
  | .rqa _ | .rqd _ => true
  | _ => false

/-- Host only (R478). -/
def SysReg.hostOnly : SysReg → Bool
  | .dbell | .tickset | .attctl | .attn _ => true
  | _ => false

def SysReg.readOnly : SysReg → Bool
  | .fmt | .mstat | .tick | .where_ | .tcause | .taddr | .tlanes | .tinfo | .tstat | .rqword | .rqhdr | .rqctl | .rcstat
  | .portstat | .evhead | .evlost | .diemap | .svcstat | .therm => true
  | _ => false

/-- Writable only in the handler (R412). -/
def SysReg.inHandler : SysReg → Bool
  | .tpc | .rqsel | .rqmask | .rqa _ | .rqd _ => true
  | _ => false

/-- Read by any wave, written by a privileged one (R291, R292, R433). -/
def SysReg.systemWrite : SysReg → Bool
  | .contain | .ccnt _ | .wp _ => true
  | _ => false

/-- Belongs to a wave or a group, so the host has no way to it. -/
def SysReg.ofWave : SysReg → Bool
  | .mode | .seed | .fmt | .mstat | .where_ | .tcause | .tpc | .taddr | .tlanes | .tinfo | .tstat | .tvec | .tscr _
  | .rqsel | .rqword | .rqhdr | .rqctl | .rqmask | .rqa _ | .rqd _ => true
  | _ => false

/-- The read-only bits of a register that also has writable ones (R291, R292, R433, R436, R447, R484, R496,
R501, R502). -/
def SysReg.roBits : SysReg → Nat
  | .spillcap => 2 ^ 64 - 2 ^ 21
  | .devid => 2 ^ 64 - 2 ^ 10
  | .contain => 0x3F * 2 ^ 42 + 0xFFF * 2
  | .ccnt 2 => 0xFFFFFFFF * 2 ^ 32
  | .wp _ => 0xFFF * 2 ^ 52 + 0x3F
  | .portctl => 2 ^ 64 - 2 ^ 12
  | .twrctl => (2 ^ 64 - 2 ^ 32) + 0xF2F2F2F2
  | .wayen => 2 ^ 64 - 2 ^ 16
  | .bankgate => 2 ^ 64 - 2 ^ 8
  | _ => 0

/-- A wave is privileged when its ASID is 0 (R432). -/
def Wave.privileged (w : Wave) : Bool := w.asid = 0

/-! ### Reading -/

def RegVal (n : Nat) : Word64 := BitVec.ofNat 64 n

/-- The selected replay entry (R412). -/
def Frame.entry (f : Frame) : Option Replay := if f.rqsel < f.rqn then NMap.get? f.replay f.rqsel else none

/-- `TCAUSE` (R413). `MORE` tells whether late faults are pending. -/
def tcauseWord (w : Wave) : Word64 :=
  let f := w.frame
  RegVal (f.idx * 2 ^ 25 + f.rqn % 2 ^ 7 * 2 ^ 18 + bit (if f.inh then decide (w.faults ≠ []) else f.more) * 2 ^ 17 + bit f.late * 2 ^ 16 +
    f.ocause.toNat * 2 ^ 8 + f.cause.toNat)

/-- `TSTAT` (R414). -/
def tstatWord (w : Wave) : Word64 :=
  RegVal (bit (w.frame.mask && w.evictReq) * 2 ^ 7 + bit w.frame.ovd * 2 ^ 6 + bit w.frame.inh * 2 + bit w.frame.mask)

/-- `RQCTL` (R415). -/
def rqctlWord (e : Replay) : Word64 :=
  let (i, n) := match e.op.rep with
    | some (i, n, _) => (i, n)
    | none => (0, 0)
  let kind := match e.kind with
    | .load => 0
    | .store => 1
    | .rest => 2
  RegVal (n % 2 ^ 12 * 2 ^ 20 + i % 2 ^ 12 * 2 ^ 8 + kind * 2 ^ 6 + bit e.flt * 2 ^ 5 + e.op.idx)

/-- A register of the wave's frame, 64-bit (R412). -/
def frameRead (w : Wave) (r : SysReg) : Word64 :=
  let f := w.frame
  let of (g : Replay → Word64) : Word64 := (f.entry.map g).getD 0
  match r with
  | .tcause => tcauseWord w
  | .tpc => f.tpc
  | .taddr => f.taddr
  | .tlanes => RegVal f.tlanes.toNat
  | .tinfo => f.tinfo
  | .tstat => tstatWord w
  | .tscr i => NMap.getD f.scr i 0
  | .rqsel => RegVal f.rqsel
  | .rqword => of fun e => e.op.word
  | .rqhdr =>
    match f.helperHdr with
    | some h => if f.rqsel = 0 ∧ f.cause = 112 then RegVal h.toNat else of fun e => RegVal e.op.hdr.toNat
    | none => of fun e => RegVal e.op.hdr.toNat
  | .rqctl => of rqctlWord
  | .rqmask => of fun e => RegVal e.op.mask.toNat
  | _ => 0

/-- A per-lane register in lane l (R412). -/
def laneRead (w : Wave) (r : SysReg) (l : Nat) : Word32 :=
  match w.frame.entry with
  | none => 0
  | some e =>
    match r with
    | .rqa i => BitVec.ofNat 32 ((e.op.at_ l).toNat / 2 ^ (32 * i) % (if i = 0 then 2 ^ 32 else 2 ^ 16))
    | .rqd i => BitVec.ofNat 32 ((e.op.datum l).toNat / 2 ^ (32 * i))
    | _ => 0

/-- A register of a core, cluster, tower or the device. A write-only one holds no value that is read. -/
def unitRead (s : State) (c t : Nat) (r : SysReg) : Word64 :=
  let d := s.dev
  let k := s.core c
  match r with
  | .tick => s.tick
  | .contain => k.contain
  | .ccnt i => RegVal ((List.range 4).foldl (fun n j => n + (NMap.getD k.ccnt (4 * i + j) 0).toNat * 2 ^ (16 * j)) 0)
  | .wp i => NMap.getD k.wp i 0
  | .astbase => d.astBase
  | .hqbase => d.hqBase
  | .spillbase => k.spillBase
  | .spillcap => k.spillCap
  | .ctxbase => (s.tower t).ctxBase
  | .ctxsize => (s.tower t).ctxSize
  | .ambase => d.amBase
  | .amload => RegVal (bit d.amRefused * 2 + bit d.amRun)
  | .bndset i => bndVal s c i
  | .rcline => d.rcLine
  | .rcstat => d.rcStat
  | .ptpline => d.ptpLine
  | .devid => d.devid
  | .cmbase => d.cmBase
  | .rtbase => d.rtBase
  | .portstat => readPortstat s
  | .portctl => RegVal (bit (d.portRun ≠ 0) * 2 ^ 12)
  | .evring => d.evRing
  | .evhead => d.evHead
  | .evtail => d.evTail
  | .evlost => RegVal d.evLost.toNat
  | .diemap => readDiemap s t
  | .svcstat => readSvcstat s
  | .twrctl => readTwrctl s
  | .wayen => RegVal ((s.tower t).wayAct.toNat * 2 ^ 16 + (s.tower t).wayReq.toNat)
  | .bankgate => RegVal (k.bankGated.toNat * 2 ^ 8 + k.bankReq.toNat)
  | .pwrcap => d.pwrCap
  | .therm => RegVal (bit d.thermWarn * 2 ^ 8 + d.thermMax.toNat)
  | .attn i => NMap.getD d.attn i 0
  | .rcarm | .diedrop | .dbell | .tickset | .attctl => Config.word s.free
  | _ => 0

/-- What SRD reads of a 64-bit register. -/
def regRead (c : Ctx) (s : State) (r : SysReg) : Word64 :=
  let g := s.group c.w.group
  match r with
  | .mode => g.mode
  | .seed => g.seed
  | .fmt => g.fmt
  | .mstat => mstatWord s c.w.group
  | .where_ => RegVal (c.core + c.slot * 2 ^ 8 + c.w.asid * 2 ^ 16)
  | .tvec => g.tvec
  | r => if r.ofWave then frameRead c.w r else unitRead s c.core (towerOf c.core) r

/-! ### Writing -/

/-- Arm the counter of the line in `RCLINE` (R220, R433). -/
def writeRcarm (s : State) (v : Word64) : Written :=
  if v = 0 ∨ 65535 < v.toNat then (s, some 5)
  else
    let ln := lineNo s.dev.rcLine.toNat
    match armFails s ln with
    | some k => (s.modDev fun d => { d with rcStat := RegVal (if k = 1 then 2 else 4) }, none)
    | none => ((armLine s ln v.toNat).modDev fun d => { d with rcStat := 1 }, none)

/-- Write a register of a core, cluster, tower or the device. -/
def unitWrite (s : State) (c t : Nat) (r : SysReg) (v : Word64) : Written :=
  let dev (f : DevRegs → DevRegs) : Written := (s.modDev f, none)
  let core (f : Core → Core) : Written := (s.modCore c f, none)
  match r with
  | .contain => core fun k => { k with contain := v }
  | .ccnt i => core fun k => { k with
      ccnt := (List.range 4).foldl (fun m j => NMap.set m (4 * i + j) (BitVec.ofNat 16 (v.toNat / 2 ^ (16 * j)))) k.ccnt }
  | .wp i => core fun k => { k with wp := NMap.set k.wp i v }
  | .astbase => dev fun d => { d with astBase := v }
  | .hqbase => dev fun d => { d with hqBase := v }
  | .spillbase => core fun k => { k with spillBase := v }
  | .spillcap => core fun k => { k with spillCap := v }
  | .ctxbase => (s.modTower t fun x => { x with ctxBase := v }, none)
  | .ctxsize => (s.modTower t fun x => { x with ctxSize := v }, none)
  | .ambase => dev fun d => { d with amBase := v }
  | .amload => writeAmload s v
  | .bndset i =>
    (clearSpinWhere (s.modCluster (clusterOf c) fun k => { k with bnd := NMap.set k.bnd i v }) fun d =>
      clusterOf d = clusterOf c, none)
  | .rcline => dev fun d => { d with rcLine := v }
  | .rcarm => writeRcarm s v
  | .ptpline => dev fun d => { d with ptpLine := v }
  | .devid => dev fun d => { d with devid := v }
  | .cmbase => dev fun d => { d with cmBase := v }
  | .rtbase => dev fun d => { d with rtBase := v }
  | .portctl => writePortctl s v
  | .evring => if 12 < v.toNat % 16 ∨ v.toNat / 16 % 2 ^ 8 ≠ 0 ∨ v.toNat / 2 ^ 52 ≠ 0 then (s, some 5) else dev fun d => { d with evRing := v }
  | .evtail => if s.dev.evHead.toNat < v.toNat then (s, none) else dev fun d => { d with evTail := v }
  | .diedrop => writeDiedrop s t v
  | .twrctl => writeTwrctl s v
  | .dbell => writeDbell s v
  | .wayen => writeWayen s t v
  | .bankgate => writeBankgate s c v
  | .pwrcap => writePwrcap s v
  | .tickset => (if s.frozen then { s with tickSet := some v } else s, none)
  | .attctl => writeAttctl s v
  | .attn i => dev fun d => { d with attn := NMap.set d.attn i v }
  | _ => (s, none)

/-- The write leaves the read-only bits of the register alone: they are 0, or what the register holds. DEDUCED: log entry 26. -/
def roOk (cur : Word64) (r : SysReg) (v : Word64) : Bool :=
  let m : Word64 := RegVal r.roBits
  v &&& m = 0 || v &&& m = cur &&& m

/-- Change the selected replay entry. -/
def Frame.modEntry (f : Frame) (g : MemOp → MemOp) : Frame :=
  { f with replay := NMap.modify f.replay f.rqsel fun e => { e with op := g e.op } }

/-- A new `TPC` drops every Rest entry (R415). -/
def Frame.setTpc (f : Frame) (v : Word64) : Frame :=
  if v = f.tpc then f
  else
    { f with
      tpc := v
      replay := NMap.mapVal f.replay fun _ e => if e.kind = .rest then { e with op := { e.op with mask := 0 } } else e }

/-- Write a 64-bit register of the wave's frame, or the cause (R412, R415). -/
def frameWrite (f : Frame) (r : SysReg) (v : Word64) : Except (BitVec 8) Frame :=
  match r with
  | .tpc => .ok (f.setTpc v)
  | .tscr i => .ok { f with scr := NMap.set f.scr i v }
  | .rqsel => if 64 ≤ v.toNat then .error 18 else .ok { f with rqsel := v.toNat }
  | .rqmask =>
    match f.entry with
    | none => .error 18
    | some e =>
      if v &&& ~~~(RegVal e.op.mask.toNat) ≠ 0 then .error 18
      else .ok (f.modEntry fun o => { o with mask := BitVec.ofNat 32 v.toNat })
  | _ => .ok f

/-- Write a per-lane register in one lane (R415). -/
def laneWrite (r : SysReg) (l : Nat) (x : Word32) (o : MemOp) : MemOp :=
  match r with
  | .rqa i =>
    let a := (o.at_ l).toNat
    let old := a / 2 ^ (32 * i) % (if i = 0 then 2 ^ 32 else 2 ^ 16)
    let new := if i = 0 then x.toNat else x.toNat % 2 ^ 16
    { o with ea := NMap.set o.ea l (RegVal (a - old * 2 ^ (32 * i) + new * 2 ^ (32 * i))) }
  | .rqd i =>
    let a := (o.datum l).toNat
    { o with data := NMap.set o.data l (BitVec.ofNat 128 (a - a / 2 ^ (32 * i) % 2 ^ 32 * 2 ^ (32 * i) + x.toNat * 2 ^ (32 * i))) }
  | _ => o

/-- A new `MODE` breaks R107. -/
def badMode (v : Word64) : Bool := v.toNat % 8 = 0 || v.toNat / 2 ^ 24 ≠ 0 || v.toNat / 2 ^ 5 % 8 ≠ 0

/-- A 64-bit write by a wave: the state, or the cause.
DEDUCED, unsafe: log entry 45. -/
def regWrite (c : Ctx) (s : State) (r : SysReg) (v : Word64) : Except (BitVec 8) State :=
  match r with
  | .mode => if badMode v then .error 18 else .ok (s.modGroup c.w.group fun g => { g with mode := v })
  | .seed => .ok (s.modGroup c.w.group fun g => { g with seed := v })
  | .tvec => .ok (s.modGroup c.w.group fun g => { g with tvec := v })
  | r =>
    if r.ofWave then
      match frameWrite c.w.frame r v with
      | .error k => .error k
      | .ok f => .ok (s.modWave c.wid fun w => { w with frame := f })
    else if !roOk (unitRead s c.core (towerOf c.core) r) r v then .error 15
    else
      match unitWrite s c.core (towerOf c.core) r v with
      | (_, some _) => .error 18
      | (u, none) => .ok u

/-! ### SRD and SWR (R434, R435) -/

/-- The trap of a system-register access by its number. -/
def regTrap (cause : BitVec 8) (n : BitVec 16) : TrapInfo := { cause := cause, info := RegVal n.toNat }

/-- The register may be accessed by the wave, and with an operand of this kind (R432). -/
def regDenied (w : Wave) (n : BitVec 16) (write vec : Bool) : Option SysReg :=
  (regOf n.toNat).filter fun r =>
    !(256 ≤ n.toNat && !w.privileged) && !r.hostOnly && r.perLane = vec &&
      (!write || (!r.readOnly && (!r.inHandler || w.frame.inh) && (!r.systemWrite || w.privileged)))

/-- SRD (R434): load-class, with the value the register holds at issue. -/
def execSrd (g : Guard) (d : Operand) (n : BitVec 16) (s : State) : Host.Outcome State Fault Refusal :=
  withCtx s fun c =>
    let eff := c.eff g
    let i : Instr := .srd g d n
    if eff = 0 then .next (s.advance c.wid)
    else
      match regDenied c.w n false d.isV with
      | none => instrTrap c s (regTrap 15 n)
      | some r =>
        if c.w.noRoom i then .next (awaitRoom c s)
        else
          let l0 := lowestLane eff
          let o : MemOp := if d.isV then
              { c.newOp i with
                mask := eff, done := eff, ready := true
                data := (lanesOf eff).map fun l => (l, BitVec.ofNat 128 (laneRead c.w r l).toNat) }
            else
              { c.newOp i with
                mask := laneBit l0, done := laneBit l0, scal := true, ready := true
                data := [(l0, BitVec.ofNat 128 (regRead c s r).toNat)] }
          let s : State := { s with free := s.free + 1 }
          .next (((abortOpen c s eff).modWave c.wid fun w => w.pushLoad o).advance c.wid)

/-- SWR (R435): the write takes effect at issue. -/
def execSwr (g : Guard) (a : Operand) (n : BitVec 16) (s : State) : Host.Outcome State Fault Refusal :=
  withCtx s fun c =>
    let eff := c.eff g
    if eff = 0 then .next (s.advance c.wid)
    else
      match regDenied c.w n true a.isV with
      | none => instrTrap c s (regTrap 15 n)
      | some r =>
        if a.isV then
          if c.w.frame.entry.isNone then instrTrap c s (regTrap 18 n)
          else
            let f := (lanesOf eff).foldl (fun f l => Frame.modEntry f (laneWrite r l (lo32 (c.get s l a false).val))) c.w.frame
            .next (((abortOpen c s eff).modWave c.wid fun w => { w with frame := f }).advance c.wid)
        else
          match regWrite c (abortOpen c s eff) r (c.get s (lowestLane eff) a true).val with
          | .error k => instrTrap c s (regTrap k n)
          | .ok u => .next (u.advance c.wid)

/-! ### The host's writes (R475 to R502) -/

/-- A write through the management space; one that breaks a limit changes nothing but `SVCSTAT.ERR` (R478). `unit` says
which core, or tower, a register that each has stands for. -/
def hostWrite (s : State) (unit n : Nat) (v : Word64) : State :=
  match regOf n with
  | none => s
  | some r =>
    let t := match r with
      | .ctxbase | .ctxsize | .diedrop | .wayen => unit
      | _ => towerOf unit
    if r.ofWave ∨ r.readOnly then s
    else if !roOk (unitRead s unit t r) r v then s.svcErr 5
    else
      match unitWrite s unit t r v with
      | (_, some e) => s.svcErr e
      | (u, none) => u

/-- REGISTER_WRITE: the host writes a register that has no row of its own (R432, R478). -/
def execRegisterWrite (unit reg : Nat) (value : Word64) (s : State) : Host.Outcome State Fault Refusal :=
  if unit < 256 then .next (hostWrite s unit reg value) else .next s

/-- EVTAIL (R477). -/
def execEvtail (value : Word64) (s : State) : Host.Outcome State Fault Refusal := .next (hostWrite s 0 0x132 value)

/-- PORTCTL (R496). -/
def execPortctl (value : Word64) (s : State) : Host.Outcome State Fault Refusal := .next (hostWrite s 0 0x124 value)

/-- DIEDROP (R482). -/
def execDiedrop (tower : Fin 4) (value : Word64) (s : State) : Host.Outcome State Fault Refusal :=
  .next (hostWrite s tower.val 0x135 value)

/-- TOWER_DROP: 1 is written to `DROP` (R484, R485). -/
def execTowerDrop (tower : Fin 4) (s : State) : Host.Outcome State Fault Refusal := .next (dropTower s tower.val)

/-- TOWER_FORCE_DROP: 1 is written to `FORCE` (R484, R486). -/
def execTowerForceDrop (tower : Fin 4) (s : State) : Host.Outcome State Fault Refusal := .next (forceTower s tower.val)

/-- NOPLACE (R484). -/
def execNoplace (tower : Fin 4) (value : Bool) (s : State) : Host.Outcome State Fault Refusal :=
  .next (s.modTower tower.val fun x => { x with noplace := value })

/-- PWRCAP (R500). -/
def execPwrcap (value : Word64) (s : State) : Host.Outcome State Fault Refusal := .next (hostWrite s 0 0x140 value)

/-- ATTCTL (R498). -/
def execAttctl (value : Word64) (s : State) : Host.Outcome State Fault Refusal := .next (hostWrite s 0 0x144 value)

/-- WAYEN (R501). -/
def execWayen (tower : Fin 4) (value : Word64) (s : State) : Host.Outcome State Fault Refusal :=
  .next (hostWrite s tower.val 0x13C value)

/-- BANKGATE (R502). -/
def execBankgate (core : Nat) (value : Word64) (s : State) : Host.Outcome State Fault Refusal :=
  if core < 256 then .next (hostWrite s core 0x13D value) else .next s

/-- AMLOAD_START: a load of the address map is asked for (R217). -/
def execAmloadStart (value : Word64) (s : State) : Host.Outcome State Fault Refusal := .next (hostWrite s 0 0x107 value)

/-- RCARM (R220, R433). -/
def execRcarm (value : Word64) (s : State) : Host.Outcome State Fault Refusal := .next (hostWrite s 0 0x111 value)

/-- DBELL (R346). -/
def execDbell (mask : Word64) (s : State) : Host.Outcome State Fault Refusal := .next (hostWrite s 0 0x139 mask)

end Sys2Proof.Machine
end

