-- ==== Sys2Proof/Machine/Traps.lean ====
section
/-! DEFINITION. The instructions of traps and translation (R416 to R419, R444), and the remaining events of the wave engine
and the walkers. -/

namespace Sys2Proof.Machine

/-! ### TRAP, BRK, EFENCE, TRET and TMASK (R416 to R419) -/

/-- A trap raised on purpose (R418). -/
def trapRun (g : Guard) (cause : BitVec 8) (s : State) : Host.Outcome State Fault Refusal :=
  withCtx s fun c =>
    let eff := c.eff g
    if eff = 0 then .next (s.advance c.wid)
    else .next (trapNow c (abortOpen c s eff) { cause := cause, lanes := eff } true)

/-- TRAP n (R418). -/
def execTrap (g : Guard) (n : Fin 16) (s : State) : Host.Outcome State Fault Refusal := trapRun g (BitVec.ofNat 8 (160 + n.val)) s

/-- BRK (R418). -/
def execBrk (g : Guard) (s : State) : Host.Outcome State Fault Refusal := trapRun g 176 s

/-- EFENCE (R419). -/
def execEfence (s : State) : Host.Outcome State Fault Refusal :=
  withCtx s fun c => afterEfence c (abortOpen c s c.mask) fun s => .next (s.advance c.wid)

/-- TRET (R416). A `TPC` that fails R45 is a double trap. -/
def execTret (s : State) : Host.Outcome State Fault Refusal :=
  withCtx s fun c =>
    if !c.w.frame.inh then instrTrap c s { cause := 146, info := c.iw.word }
    else if !c.whole then instrTrap c s { cause := 147, lanes := c.mask }
    else if c.w.outstanding ≠ [] then .next (s.stall c)
    else
      match checkTarget64 (abortOpen c s c.mask) c.core c.w.asid c.w.frame.tpc c.mask with
      | (s, some t) => instrTrap c s t
      | (s, none) =>
        let s := returnFromTrap s c.wid c.core c.slot
        if ((s.wave? c.wid).map fun w => w.issue.isNone).getD false then .next (settleBoundary s c.wid) else .next s

/-- TMASK (R417). -/
def execTmask (on : Bool) (s : State) : Host.Outcome State Fault Refusal :=
  withCtx s fun c =>
    if !c.w.frame.inh then instrTrap c s { cause := 146, info := c.iw.word }
    else
      .next (((abortOpen c s c.mask).modWave c.wid fun w => { w with frame := { w.frame with mask := on } }).advance c.wid)

/-! ### TLBINV (R444) -/

/-- Issue a TLBINV; `regs` are its address operands, `a` its page and `b` its ASID.
DEDUCED, unsafe: log entry 45. -/
def tlbinvRun (g : Guard) (i : Instr) (d : Fin 32) (regs : List (Fin 32)) (a b : Ctx → Word64) (s : State) :
    Host.Outcome State Fault Refusal :=
  withCtx s fun c =>
    if !c.w.privileged then instrTrap c s { cause := 16, info := c.iw.word }
    else if !c.guardHolds g then .next (s.advance c.wid)
    else
      match c.addrCodes s regs with
      | some t => instrTrap c s t
      | none => .next (c.startAsync (abortOpen c s (c.eff g)) i d (a c) (BitVec.ofNat 64 ((b c).toNat % 4096)))

/-- TLBINV.all (R444). -/
def execTlbinvAll (g : Guard) (d : Fin 32) (s : State) : Host.Outcome State Fault Refusal :=
  tlbinvRun g (.tlbinvAll g d) d [] (fun _ => 0) (fun _ => 0) s

/-- TLBINV.asid (R444). -/
def execTlbinvAsid (g : Guard) (d b : Fin 32) (s : State) : Host.Outcome State Fault Refusal :=
  tlbinvRun g (.tlbinvAsid g d b) d [] (fun _ => 0) (fun c => c.sVal b) s

/-- TLBINV.page (R444). -/
def execTlbinvPage (g : Guard) (d a b : Fin 32) (s : State) : Host.Outcome State Fault Refusal :=
  tlbinvRun g (.tlbinvPage g d a b) d [a] (fun c => c.sVal a) (fun c => c.sVal b) s

/-- The translations a TLBINV removes, by its ASID and page; and its token. -/
def tlbinvDrops (o : MemOp) : Option (Fin 32 × (TlbEntry → Bool)) :=
  let asid := (o.datum 0).toNat
  match o.instr with
  | .tlbinvAll _ d => some (d, fun _ => true)
  | .tlbinvAsid _ d _ => some (d, fun e => e.asid = asid)
  | .tlbinvPage _ d _ _ => some (d, fun e => e.covers asid (o.at_ 0).toNat)
  | _ => none

/-- Remove translations from every TLB of the device. -/
def dropTlb (s : State) (p : TlbEntry → Bool) : State :=
  { s with
    cores := NMap.mapVal s.cores fun _ k => { k with tlb := k.tlb.filter fun e => !p e }
    clusters := NMap.mapVal s.clusters fun _ k => { k with tlb := k.tlb.filter fun e => !p e } }

/-- TLBINV_COMPLETE: the release, the removal, and the token (R444). Accesses translate as they are performed here, so none
still uses a dropped translation. -/
def execTlbinvComplete (wave op : Nat) (s : State) : Host.Outcome State Fault Refusal :=
  match (s.wave? wave).bind fun w => (w.asyncs.find? fun o => o.id = op).bind fun o =>
      (tlbinvDrops o).map fun x => (w, o, x) with
  | some (_, o, d, p) =>
    if !waveClear s wave o.id then .next s
    else .next (endAsync (dropTlb (releaseDevice s (clusterOf o.core)) p) wave o d .wave)
  | none => .next s

/-- TRANSLATION_REMOVED_FOR_CAPACITY: a TLB drops an entry (R441). -/
def execTranslationRemovedForCapacity (core : Nat) (shared : Bool) (idx : Nat) (s : State) : Host.Outcome State Fault Refusal :=
  if shared then .next (s.modCluster (clusterOf core) fun k => { k with tlb := k.tlb.eraseIdx idx })
  else .next (s.modCore core fun k => { k with tlb := k.tlb.eraseIdx idx })

/-! ### Page walks (R437, R441 to R443) -/

/-- An access or a clause fetch of the core needs the page. -/
def wantsPage (s : State) (core asid va : Nat) : Bool :=
  let here (a : Nat) : Bool := a / 65536 = va / 65536
  s.waves.any fun w => w.2.asid = asid && (match w.2.place with
    | .resident c _ => c = core
    | _ => false) &&
    (w.2.allOps.any (fun o => (lanesOf o.undone).any fun l => here (o.at_ l).toNat) ||
      w.2.splits.any fun sp => here sp.2.pc.toNat)

/-- The lines of the tables a walk reads, from the ASID table down. -/
def walkLines (s : State) (va : Nat) : Nat → List (Nat × Nat × Nat) → List Nat
  | _, [] => []
  | table, (_, sh, cnt) :: rest =>
    let a := table + 8 * (va / 2 ^ sh % cnt)
    let e := Memory.readNat s.mem a 8
    lineNo a :: if bitOf e 0 && !bitOf e 2 then walkLines s va (e / 2 ^ 12 % 2 ^ 40 * 2 ^ 12) rest else []

/-- PAGE_WALK: a walker serves a miss, and the translation enters the TLBs; or it meets an uncorrectable error in a line it
reads, and poisons it (R443). -/
def execPageWalk (core asid : Nat) (va : VAddr) (uncorrectable : Option Nat) (s : State) : Host.Outcome State Fault Refusal :=
  if !wantsPage s core asid va.toNat then .next s
  else
    match uncorrectable with
    | none => .next (lookup s core asid va.toNat .read).1
    | some a =>
      let root := s.dev.astBase.toNat + 8 * asid
      let e := Memory.readNat s.mem root 8
      if (lineNo root :: walkLines s va.toNat (e / 2 ^ 12 % 2 ^ 40 * 2 ^ 12) walkLevels).contains (lineNo a) then
        .next (if (s.line (lineNo a)).unwritten = 0 then poisonWalk s (lineNo a) asid else joinPoison s (lineNo a) asid)
      else .next s

/-! ### Soft errors (R93, R128) -/

/-- SOFT_ERROR: a bit of a register or a residue changes, and its code does not; or an error waits for one of the two issues
of a wave's next float instruction under VERIFY.
DEDUCED, unsafe: log entry 55. -/
def execSoftError (t : SoftTarget) (s : State) : Host.Outcome State Fault Refusal :=
  match t with
  | .vreg w r l flip => .next (s.modWave w fun x =>
      if r < x.allot ∧ l < 32 then let e := x.vAt r l; x.setV r l { e with val := e.val ^^^ flip } else x)
  | .sreg w n flip => .next (s.modWave w fun x =>
      if n < 32 then let r := x.sAt n; x.setS n { r with val := r.val ^^^ flip } else x)
  | .pred w p flip => .next (s.modWave w fun x => if p < 7 then x.setP p (x.pAt p ^^^ flip) else x)
  | .residue g n k h v => .next (s.modGroup g fun x =>
      let hit (e : TElem) : TElem := { e with res := e.res.set h v }
      let put (t : Tile) : Tile :=
        let e := hit (t.at_ k)
        { t with elems := if e = .blank then NMap.erase t.elems k else NMap.set t.elems k e }
      if k < 4096 ∧ h < 10 then { x with tiles := NMap.modify x.tiles n put } else x)
  | .verify w m => .next (s.modWave w fun x => { x with upset := x.upset ||| m })

/-! ### Clauses, naps and the spin detector (R50, R167, R174) -/

/-- CLAUSE_ISSUE: a quarter whose port is free chooses a wave and a split and starts its clause. -/
def execClauseIssue (core quarter : Nat) (s : State) : Host.Outcome State Fault Refusal :=
  if core < 256 ∧ quarter < 4 ∧ (NMap.get? (s.core core).port quarter).isNone then .next (chooseClause s core quarter) else .next s

/-- NAP_EXPIRE: the cycles of a NAP have passed (R167). -/
def execNapExpire (wave split : Nat) (s : State) : Host.Outcome State Fault Refusal :=
  match (s.wave? wave).bind fun w => NMap.get? w.splits split with
  | some sp =>
    match sp.state with
    | .held (.nap t) =>
      if t ≤ s.cycle then
        .next (s.modWave wave fun w => { w with splits := NMap.set w.splits split { sp with state := .ready } })
      else .next s
    | _ => .next s
  | none => .next s

/-- SPIN_MARK_TIMEOUT (R174). -/
def execSpinMarkTimeout (group : Nat) (s : State) : Host.Outcome State Fault Refusal :=
  match s.group? group with
  | some g => if g.lowered ∧ g.spinMany ∧ g.loweredAt + 4096 ≤ s.cycle then .next (clearSpin s group) else .next s
  | none => .next s

/-! ### Heads of queues (R31, R36 to R40) -/

/-- The guard of the oldest unstarted matrix entry resolves. -/
def resolveMatrix (s : State) (gk : Nat) : State :=
  match (s.group gk).mq.find? fun e => e.state = .waiting with
  | none => s
  | some e =>
    match e.guard.bind s.resolved with
    | none => s
    | some g =>
      if g.value ∧ g.cause = none then s.modEntry gk e.id fun e => { e with guard := none }
      else if e.batch = none then dropEntry s gk e.id
      else s.modEntry gk e.id fun e => { e with guard := none, state := .complete }

/-- The guard of the command at the head of a sluice queue resolves. -/
def resolveSluice (s : State) (core : Nat) : State :=
  match (s.core core).sluiceQ with
  | [] => s
  | q :: rest =>
    match q.guard.bind s.resolved with
    | none => s
    | some g =>
      if g.value ∧ g.cause = none then s.modCore core fun k => { k with sluiceQ := { q with guard := none } :: rest }
      else
        let s := s.modCore core fun k => { k with sluiceQ := rest }
        match q.wave with
        | some w => setToken s w q.token.val (g.cause.getD 0).toNat
        | none => s

/-- The guard of the oldest pending-launch entry resolves; one that is true waits for its wave's earlier accesses (R367). -/
def resolveLaunch (s : State) (core : Nat) : State :=
  match (s.core core).launchQ with
  | [] => s
  | e :: rest =>
    match e.guard.bind s.resolved with
    | none => s
    | some g =>
      if g.value ∧ g.cause = none then
        if !waveClear s e.wave e.after then s
        else launchProceeds (s.modCore core fun k => { k with launchQ := { e with guard := none } :: rest }) core e.wave e.node
      else
        let s := s.modCore core fun k => { k with launchQ := rest }
        { s with nodes := NMap.erase s.nodes e.node }.modWave e.wave fun w =>
          { w with joinIncr := w.joinIncr.filter fun j => j.1 ≠ e.node }

/-- A SPAWN that waited for its guard may go, or is gone; it may stand in a replay queue meanwhile. -/
def Wave.endHold (w : Wave) (op : Nat) (go : Bool) : Wave :=
  let f (o : MemOp) : MemOp :=
    if o.isSpawn && o.born = op then { o with held := false, mask := if go then o.mask else 0 } else o
  { w with
    stores := (w.stores.map f).filter fun o => o.mask ≠ 0
    frame := if w.frame.saved.isNone then w.frame else
      { w.frame with replay := NMap.mapVal w.frame.replay fun _ e => { e with op := f e.op } } }

/-- The guard of the oldest waiting SPAWN resolves. -/
def resolveSpawn (s : State) (core : Nat) : State :=
  match (s.core core).spawnQ with
  | [] => s
  | q :: rest =>
    match s.resolved q.guard with
    | none => s
    | some g =>
      (s.modCore core fun k => { k with spawnQ := rest }).modWave q.wave fun w => w.endHold q.op (g.value && g.cause.isNone)

/-- GUARD_RESOLVE: the predicate of the command at the head of a queue is written (R37, R38). -/
def execGuardResolve (q : QueueRef) (s : State) : Host.Outcome State Fault Refusal :=
  match q with
  | .matrix g => .next (resolveMatrix s g)
  | .sluice c => .next (resolveSluice s c)
  | .launch c => .next (resolveLaunch s c)
  | .deque c => .next (resolveSpawn s c)
  | .flume c => .next (resolveColl s c)

/-- START_TICK_REACHED: the command at the head of a queue, held for its tick, starts (R40). -/
def execStartTickReached (q : QueueRef) (s : State) : Host.Outcome State Fault Refusal :=
  match q with
  | .sluice c => execSluiceProgramStart c s
  | .launch c => execLaunchAccept c s
  | .flume c => execCollDequeue c s
  | .matrix _ | .deque _ => .next s

/-- ENGINE_LOCK_STALL_RESUME: an engine that waits for range locks tries again (R31). -/
def execEngineLockStallResume (e : EngineRef) (s : State) : Host.Outcome State Fault Refusal :=
  match e with
  | .sluice c => .next { s with agenda := .sluice c :: s.agenda }
  | .matrix c => execMatrixEntryStart c s
  | .deco k => execDecoBlockSelect k s
  | .flume t => execFlumeChunkGrant t s

end Sys2Proof.Machine
end

