-- ==== Sys2Proof/Machine/Dispatch.lean ====
section
/-! DEFINITION. The dispatch: one arm per constructor of Instr, each one direct call of its meaning. -/

namespace Sys2Proof.Machine

/-- The effect of one instruction or event. -/
def exec (i : Instr) (s : State) : Host.Outcome State Fault Refusal :=
  match i with
  | .iadd a => Sys2Proof.Machine.execIadd a s
  | .isub a => Sys2Proof.Machine.execIsub a s
  | .iadds a => Sys2Proof.Machine.execIadds a s
  | .isubs a => Sys2Proof.Machine.execIsubs a s
  | .imul a => Sys2Proof.Machine.execImul a s
  | .imulh a => Sys2Proof.Machine.execImulh a s
  | .imad a => Sys2Proof.Machine.execImad a s
  | .imin a => Sys2Proof.Machine.execImin a s
  | .imax a => Sys2Proof.Machine.execImax a s
  | .iabs a => Sys2Proof.Machine.execIabs a s
  | .ineg a => Sys2Proof.Machine.execIneg a s
  | .and a => Sys2Proof.Machine.execAnd a s
  | .or a => Sys2Proof.Machine.execOr a s
  | .xor a => Sys2Proof.Machine.execXor a s
  | .andn a => Sys2Proof.Machine.execAndn a s
  | .not a => Sys2Proof.Machine.execNot a s
  | .shl a => Sys2Proof.Machine.execShl a s
  | .shr a => Sys2Proof.Machine.execShr a s
  | .sar a => Sys2Proof.Machine.execSar a s
  | .rot a => Sys2Proof.Machine.execRot a s
  | .bfx a => Sys2Proof.Machine.execBfx a s
  | .bfi a => Sys2Proof.Machine.execBfi a s
  | .clz a => Sys2Proof.Machine.execClz a s
  | .popc a => Sys2Proof.Machine.execPopc a s
  | .brev a => Sys2Proof.Machine.execBrev a s
  | .permb a => Sys2Proof.Machine.execPermb a s
  | .icmp a b c d e f => Sys2Proof.Machine.execIcmp a b c d e f s
  | .fcmp a b c d e f g => Sys2Proof.Machine.execFcmp a b c d e f g s
  | .sel a b c d e f g => Sys2Proof.Machine.execSel a b c d e f g s
  | .mov a b c d => Sys2Proof.Machine.execMov a b c d s
  | .modmul a => Sys2Proof.Machine.execModmul a s
  | .modadd a => Sys2Proof.Machine.execModadd a s
  | .modsub a => Sys2Proof.Machine.execModsub a s
  | .modrcp a => Sys2Proof.Machine.execModrcp a s
  | .fadd a => Sys2Proof.Machine.execFadd a s
  | .fsub a => Sys2Proof.Machine.execFsub a s
  | .fmul a => Sys2Proof.Machine.execFmul a s
  | .ffma a => Sys2Proof.Machine.execFfma a s
  | .fmin a => Sys2Proof.Machine.execFmin a s
  | .fmax a => Sys2Proof.Machine.execFmax a s
  | .fdot2 a => Sys2Proof.Machine.execFdot2 a s
  | .frcp a => Sys2Proof.Machine.execFrcp a s
  | .frsq a => Sys2Proof.Machine.execFrsq a s
  | .fexp2 a => Sys2Proof.Machine.execFexp2 a s
  | .flog2 a => Sys2Proof.Machine.execFlog2 a s
  | .fsin a => Sys2Proof.Machine.execFsin a s
  | .fcos a => Sys2Proof.Machine.execFcos a s
  | .cvt a => Sys2Proof.Machine.execCvt a s
  | .cvtSat a => Sys2Proof.Machine.execCvtSat a s
  | .ldk a => Sys2Proof.Machine.execLdk a s
  | .ldkS a => Sys2Proof.Machine.execLdkS a s
  | .give a b => Sys2Proof.Machine.execGive a b s
  | .claim a b c => Sys2Proof.Machine.execClaim a b c s
  | .vote a b c d e f => Sys2Proof.Machine.execVote a b c d e f s
  | .shfl a b => Sys2Proof.Machine.execShfl a b s
  | .rdlane a b c d e => Sys2Proof.Machine.execRdlane a b c d e s
  | .reduce a b c d e => Sys2Proof.Machine.execReduce a b c d e s
  | .scan a b c d e f => Sys2Proof.Machine.execScan a b c d e f s
  | .qxch a b c d e => Sys2Proof.Machine.execQxch a b c d e s
  | .plop a b c d e => Sys2Proof.Machine.execPlop a b c d e s
  | .bra a => Sys2Proof.Machine.execBra a s
  | .bany a b => Sys2Proof.Machine.execBany a b s
  | .ball a b => Sys2Proof.Machine.execBall a b s
  | .bnone a b => Sys2Proof.Machine.execBnone a b s
  | .bdiv a b c => Sys2Proof.Machine.execBdiv a b c s
  | .conf => Sys2Proof.Machine.execConf s
  | .call a => Sys2Proof.Machine.execCall a s
  | .ret => Sys2Proof.Machine.execRet s
  | .jtb a b c => Sys2Proof.Machine.execJtb a b c s
  | .rep a => Sys2Proof.Machine.execRep a s
  | .exit a => Sys2Proof.Machine.execExit a s
  | .nop => Sys2Proof.Machine.execNop s
  | .yield => Sys2Proof.Machine.execYield s
  | .nap a => Sys2Proof.Machine.execNap a s
  | .bar => Sys2Proof.Machine.execBar s
  | .gbar => Sys2Proof.Machine.execGbar s
  | .cbar a b c => Sys2Proof.Machine.execCbar a b c s
  | .cbwt a b => Sys2Proof.Machine.execCbwt a b s
  | .cbarArm a b c => Sys2Proof.Machine.execCbarArm a b c s
  | .ld a b => Sys2Proof.Machine.execLd a b s
  | .st a b => Sys2Proof.Machine.execSt a b s
  | .lds a => Sys2Proof.Machine.execLds a s
  | .sts a => Sys2Proof.Machine.execSts a s
  | .pref a b c => Sys2Proof.Machine.execPref a b c s
  | .atom a => Sys2Proof.Machine.execAtom a s
  | .red a => Sys2Proof.Machine.execRed a s
  | .fence a b c => Sys2Proof.Machine.execFence a b c s
  | .txb a => Sys2Proof.Machine.execTxb a s
  | .txe a b => Sys2Proof.Machine.execTxe a b s
  | .txa a b => Sys2Proof.Machine.execTxa a b s
  | .fwait a => Sys2Proof.Machine.execFwait a s
  | .ffill a => Sys2Proof.Machine.execFfill a s
  | .fpeek a => Sys2Proof.Machine.execFpeek a s
  | .freset a => Sys2Proof.Machine.execFreset a s
  | .qpush a b c => Sys2Proof.Machine.execQpush a b c s
  | .qlen a b c => Sys2Proof.Machine.execQlen a b c s
  | .bndmin a b c d => Sys2Proof.Machine.execBndmin a b c d s
  | .bndwt a b c => Sys2Proof.Machine.execBndwt a b c s
  | .cctlWb a => Sys2Proof.Machine.execCctlWb a s
  | .cctlInv a => Sys2Proof.Machine.execCctlInv a s
  | .cctlWbinv a => Sys2Proof.Machine.execCctlWbinv a s
  | .icinv a b c => Sys2Proof.Machine.execIcinv a b c s
  | .setmod a => Sys2Proof.Machine.execSetmod a s
  | .setmodDefault => Sys2Proof.Machine.execSetmodDefault s
  | .setfmt a b c => Sys2Proof.Machine.execSetfmt a b c s
  | .mzero a b => Sys2Proof.Machine.execMzero a b s
  | .mmac a => Sys2Proof.Machine.execMmac a s
  | .mmact a => Sys2Proof.Machine.execMmact a s
  | .mmacu a => Sys2Proof.Machine.execMmacu a s
  | .mpair a b => Sys2Proof.Machine.execMpair a b s
  | .msolo => Sys2Proof.Machine.execMsolo s
  | .mbatch a => Sys2Proof.Machine.execMbatch a s
  | .mwait a => Sys2Proof.Machine.execMwait a s
  | .msig a b c => Sys2Proof.Machine.execMsig a b c s
  | .mspill a b c => Sys2Proof.Machine.execMspill a b c s
  | .mfill a b c => Sys2Proof.Machine.execMfill a b c s
  | .mdrain a b c d e => Sys2Proof.Machine.execMdrain a b c d e s
  | .mdrainv a b c d e => Sys2Proof.Machine.execMdrainv a b c d e s
  | .mdigit a b c d => Sys2Proof.Machine.execMdigit a b c d s
  | .mchk a b c d e => Sys2Proof.Machine.execMchk a b c d e s
  | .mstat a b c => Sys2Proof.Machine.execMstat a b c s
  | .slaunch a b c d e => Sys2Proof.Machine.execSlaunch a b c d e s
  | .sstat a b => Sys2Proof.Machine.execSstat a b s
  | .sstop a b => Sys2Proof.Machine.execSstop a b s
  | .launch a b c => Sys2Proof.Machine.execLaunch a b c s
  | .joinw a => Sys2Proof.Machine.execJoinw a s
  | .spawn a b c => Sys2Proof.Machine.execSpawn a b c s
  | .take a b => Sys2Proof.Machine.execTake a b s
  | .prio a => Sys2Proof.Machine.execPrio a s
  | .recruit a b c d e f g => Sys2Proof.Machine.execRecruit a b c d e f g s
  | .tclaim a b c => Sys2Proof.Machine.execTclaim a b c s
  | .tdoneHelper => Sys2Proof.Machine.execTdoneHelper s
  | .tdoneRecruiter a => Sys2Proof.Machine.execTdoneRecruiter a s
  | .tjoin a b => Sys2Proof.Machine.execTjoin a b s
  | .tfree a b => Sys2Proof.Machine.execTfree a b s
  | .coll a b c d => Sys2Proof.Machine.execColl a b c d s
  | .cwait a => Sys2Proof.Machine.execCwait a s
  | .cstat a b c => Sys2Proof.Machine.execCstat a b c s
  | .cabort a b c => Sys2Proof.Machine.execCabort a b c s
  | .trap a b => Sys2Proof.Machine.execTrap a b s
  | .brk a => Sys2Proof.Machine.execBrk a s
  | .efence => Sys2Proof.Machine.execEfence s
  | .tret => Sys2Proof.Machine.execTret s
  | .tmask a => Sys2Proof.Machine.execTmask a s
  | .srd a b c => Sys2Proof.Machine.execSrd a b c s
  | .swr a b c => Sys2Proof.Machine.execSwr a b c s
  | .tlbinvAll a b => Sys2Proof.Machine.execTlbinvAll a b s
  | .tlbinvAsid a b c => Sys2Proof.Machine.execTlbinvAsid a b c s
  | .tlbinvPage a b c d => Sys2Proof.Machine.execTlbinvPage a b c d s
  | .sLi a b => Sys2Proof.Machine.execSLi a b s
  | .sAdd a b c => Sys2Proof.Machine.execSAdd a b c s
  | .sAddi a b c => Sys2Proof.Machine.execSAddi a b c s
  | .sSub a b c => Sys2Proof.Machine.execSSub a b c s
  | .sMul a b c => Sys2Proof.Machine.execSMul a b c s
  | .sAnd a b c => Sys2Proof.Machine.execSAnd a b c s
  | .sOr a b c => Sys2Proof.Machine.execSOr a b c s
  | .sShl a b c => Sys2Proof.Machine.execSShl a b c s
  | .sShr a b c => Sys2Proof.Machine.execSShr a b c s
  | .sMin a b c => Sys2Proof.Machine.execSMin a b c s
  | .sMax a b c => Sys2Proof.Machine.execSMax a b c s
  | .sBeq a b c => Sys2Proof.Machine.execSBeq a b c s
  | .sBne a b c => Sys2Proof.Machine.execSBne a b c s
  | .sBlt a b c => Sys2Proof.Machine.execSBlt a b c s
  | .sBge a b c => Sys2Proof.Machine.execSBge a b c s
  | .sJmp a => Sys2Proof.Machine.execSJmp a s
  | .sLoop a b => Sys2Proof.Machine.execSLoop a b s
  | .sEndl => Sys2Proof.Machine.execSEndl s
  | .sHalt => Sys2Proof.Machine.execSHalt s
  | .sLdx a b c => Sys2Proof.Machine.execSLdx a b c s
  | .sTdesc a b => Sys2Proof.Machine.execSTdesc a b s
  | .sTstep a b c => Sys2Proof.Machine.execSTstep a b c s
  | .sTaddr a b => Sys2Proof.Machine.execSTaddr a b s
  | .sMove a b c => Sys2Proof.Machine.execSMove a b c s
  | .sGather a b c => Sys2Proof.Machine.execSGather a b c s
  | .sConv a b c d => Sys2Proof.Machine.execSConv a b c d s
  | .sDeco a b => Sys2Proof.Machine.execSDeco a b s
  | .sTopk a b c d => Sys2Proof.Machine.execSTopk a b c d s
  | .sArrive a b => Sys2Proof.Machine.execSArrive a b s
  | .sWaitb a => Sys2Proof.Machine.execSWaitb a s
  | .sSignal a => Sys2Proof.Machine.execSSignal a s
  | .sTickw a => Sys2Proof.Machine.execSTickw a s
  | .clauseIssue a b => Sys2Proof.Machine.execClauseIssue a b s
  | .loadDataReturn a b c => Sys2Proof.Machine.execLoadDataReturn a b c s
  | .guardResolve a => Sys2Proof.Machine.execGuardResolve a s
  | .startTickReached a => Sys2Proof.Machine.execStartTickReached a s
  | .engineLockStallResume a => Sys2Proof.Machine.execEngineLockStallResume a s
  | .napExpire a b => Sys2Proof.Machine.execNapExpire a b s
  | .spinMarkTimeout a => Sys2Proof.Machine.execSpinMarkTimeout a s
  | .bndminApply a => Sys2Proof.Machine.execBndminApply a s
  | .homeSliceAtomic a b c => Sys2Proof.Machine.execHomeSliceAtomic a b c s
  | .futuresRequest a b c => Sys2Proof.Machine.execFuturesRequest a b c s
  | .bankFillDone a b => Sys2Proof.Machine.execBankFillDone a b s
  | .matrixEntryStart a => Sys2Proof.Machine.execMatrixEntryStart a s
  | .matrixEntryComplete a b => Sys2Proof.Machine.execMatrixEntryComplete a b s
  | .setmodTakeEffect a => Sys2Proof.Machine.execSetmodTakeEffect a s
  | .batchRetire a => Sys2Proof.Machine.execBatchRetire a s
  | .sluiceProgramStart a => Sys2Proof.Machine.execSluiceProgramStart a s
  | .sluiceImageLoaded a => Sys2Proof.Machine.execSluiceImageLoaded a s
  | .sluiceStopEffect a => Sys2Proof.Machine.execSluiceStopEffect a s
  | .decoBlockSelect a => Sys2Proof.Machine.execDecoBlockSelect a s
  | .decoBlockComplete a => Sys2Proof.Machine.execDecoBlockComplete a s
  | .amloadStart a => Sys2Proof.Machine.execAmloadStart a s
  | .rcarm a => Sys2Proof.Machine.execRcarm a s
  | .hqNop a => Sys2Proof.Machine.execHqNop a s
  | .hqSubmit a => Sys2Proof.Machine.execHqSubmit a s
  | .hqDecr a => Sys2Proof.Machine.execHqDecr a s
  | .hqFence a => Sys2Proof.Machine.execHqFence a s
  | .frontEndIdle a => Sys2Proof.Machine.execFrontEndIdle a s
  | .dbell a => Sys2Proof.Machine.execDbell a s
  | .launchAccept a => Sys2Proof.Machine.execLaunchAccept a s
  | .gangPlace a b => Sys2Proof.Machine.execGangPlace a b s
  | .transformRun a => Sys2Proof.Machine.execTransformRun a s
  | .sluiceNodeStart a b => Sys2Proof.Machine.execSluiceNodeStart a b s
  | .nodeComplete a => Sys2Proof.Machine.execNodeComplete a s
  | .waveEvict a => Sys2Proof.Machine.execWaveEvict a s
  | .waveRestore a b c => Sys2Proof.Machine.execWaveRestore a b c s
  | .gangSuspend a => Sys2Proof.Machine.execGangSuspend a s
  | .gangResume a b c => Sys2Proof.Machine.execGangResume a b c s
  | .joinCounterZero a => Sys2Proof.Machine.execJoinCounterZero a s
  | .joinResume a b c => Sys2Proof.Machine.execJoinResume a b c s
  | .chunkCommit a b => Sys2Proof.Machine.execChunkCommit a b s
  | .helperRelease a => Sys2Proof.Machine.execHelperRelease a s
  | .preemptOverdue a => Sys2Proof.Machine.execPreemptOverdue a s
  | .pageWalk a b c d => Sys2Proof.Machine.execPageWalk a b c d s
  | .collDequeue a => Sys2Proof.Machine.execCollDequeue a s
  | .flumeHeaderExchange a b => Sys2Proof.Machine.execFlumeHeaderExchange a b s
  | .flumeChunkGrant a => Sys2Proof.Machine.execFlumeChunkGrant a s
  | .flumeChunkDone a b => Sys2Proof.Machine.execFlumeChunkDone a b s
  | .flumeChunkReceive a b c d e => Sys2Proof.Machine.execFlumeChunkReceive a b c d e s
  | .flumeReceiveDrain a => Sys2Proof.Machine.execFlumeReceiveDrain a s
  | .flumeCreditGrant a b => Sys2Proof.Machine.execFlumeCreditGrant a b s
  | .flumeAbortMessage a b => Sys2Proof.Machine.execFlumeAbortMessage a b s
  | .flumePeerTimeout a => Sys2Proof.Machine.execFlumePeerTimeout a s
  | .remoteAccessRequest a => Sys2Proof.Machine.execRemoteAccessRequest a s
  | .remoteAccessTimeout a b => Sys2Proof.Machine.execRemoteAccessTimeout a b s
  | .portFail a => Sys2Proof.Machine.execPortFail a s
  | .portctl a => Sys2Proof.Machine.execPortctl a s
  | .portTrainDone a b c => Sys2Proof.Machine.execPortTrainDone a b c s
  | .evtail a => Sys2Proof.Machine.execEvtail a s
  | .diedrop a b => Sys2Proof.Machine.execDiedrop a b s
  | .dieDropComplete a b => Sys2Proof.Machine.execDieDropComplete a b s
  | .towerDrop a => Sys2Proof.Machine.execTowerDrop a s
  | .towerForceDrop a => Sys2Proof.Machine.execTowerForceDrop a s
  | .noplace a b => Sys2Proof.Machine.execNoplace a b s
  | .homeSweepStep a => Sys2Proof.Machine.execHomeSweepStep a s
  | .tickset a => Sys2Proof.Machine.execTickset a s
  | .thermalWarn a => Sys2Proof.Machine.execThermalWarn a s
  | .thermalFreeze a => Sys2Proof.Machine.execThermalFreeze a s
  | .pwrcap a => Sys2Proof.Machine.execPwrcap a s
  | .attctl a => Sys2Proof.Machine.execAttctl a s
  | .wayen a b => Sys2Proof.Machine.execWayen a b s
  | .wayGateDone a b => Sys2Proof.Machine.execWayGateDone a b s
  | .bankgate a b => Sys2Proof.Machine.execBankgate a b s
  | .bankGated a b => Sys2Proof.Machine.execBankGated a b s
  | .hostMemoryAccess a => Sys2Proof.Machine.execHostMemoryAccess a s
  | .registerWrite a b c => Sys2Proof.Machine.execRegisterWrite a b c s
  | .tickwExpire a => Sys2Proof.Machine.execTickwExpire a s
  | .illegalSluiceInstruction a => Sys2Proof.Machine.execIllegalSluiceInstruction a s
  | .cctlComplete a b => Sys2Proof.Machine.execCctlComplete a b s
  | .icinvComplete a b => Sys2Proof.Machine.execIcinvComplete a b s
  | .tlbinvComplete a b => Sys2Proof.Machine.execTlbinvComplete a b s
  | .storePerformed a b => Sys2Proof.Machine.execStorePerformed a b s
  | .dirtyLineWriteBack a => Sys2Proof.Machine.execDirtyLineWriteBack a s
  | .translationRemovedForCapacity a b c => Sys2Proof.Machine.execTranslationRemovedForCapacity a b c s
  | .softError a => Sys2Proof.Machine.execSoftError a s
  | .sluiceTransferComplete a => Sys2Proof.Machine.execSluiceTransferComplete a s
  | .remoteWriteAcknowledged a b => Sys2Proof.Machine.execRemoteWriteAcknowledged a b s
  | .flumeAbortAcknowledged a b => Sys2Proof.Machine.execFlumeAbortAcknowledged a b s
  | .flumeResendRequest a b c => Sys2Proof.Machine.execFlumeResendRequest a b c s
  | .flumeRankDstWritten a b => Sys2Proof.Machine.execFlumeRankDstWritten a b s
  | .thermalWarnEnd a => Sys2Proof.Machine.execThermalWarnEnd a s
  | .gridEndedBySystemSoftware a => Sys2Proof.Machine.execGridEndedBySystemSoftware a s
  | .amloadComplete => Sys2Proof.Machine.execAmloadComplete s
  | .freezePin => Sys2Proof.Machine.execFreezePin s
  | .freezeWrite => Sys2Proof.Machine.execFreezeWrite s
  | .freezeEnd => Sys2Proof.Machine.execFreezeEnd s
  | .scanRead => Sys2Proof.Machine.execScanRead s
  | .attestationSigned => Sys2Proof.Machine.execAttestationSigned s
  | .deviceReset => Sys2Proof.Machine.execDeviceReset s
  | .freezePinRelease => Sys2Proof.Machine.execFreezePinRelease s

end Sys2Proof.Machine
end

