-- ==== Sys2Proof/Machine/Fetch.lean ====
section
/-! DEFINITION. Which agent moves next and what it executes; the clocks; what a freeze lets act (R490); and how a word is
placed as the next one to execute. -/

namespace Sys2Proof.Machine

/-- Core cycles pass: the tick counter runs at two thirds of the core clock (R39).
DEDUCED, unsafe: log entry 40. -/
def tickClock (s : State) (n : Nat) : State :=
  if s.frozen then s
  else { s with cycle := s.cycle + n, tick := s.tick + BitVec.ofNat 64 ((s.cycle + n) * 2 / 3 - s.cycle * 2 / 3) }

/-- The events that act while the device is frozen (R490 to R492). -/
def Instr.actsFrozen : Instr → Bool
  | .scanRead | .freezeWrite | .freezeEnd | .freezePin | .freezePinRelease | .tickset .. | .deviceReset => true
  | _ => false

/-- Host accesses, which a freeze holds (R490). -/
def Instr.hostEvent : Instr → Bool
  | .hostMemoryAccess .. | .registerWrite .. | .dbell .. | .evtail .. | .portctl .. | .diedrop .. | .noplace .. | .pwrcap ..
  | .attctl .. | .wayen .. | .bankgate .. | .amloadStart .. | .rcarm .. | .gridEndedBySystemSoftware .. => true
  | _ => false

/-- An event happens, is held by a freeze, or cannot happen in one.
DEDUCED, unsafe: log entry 51. -/
def eventTodo (s : State) (i : Instr) : Todo :=
  if !isEvent i then .done s
  else if !s.frozen || Instr.actsFrozen i then .run i s
  else if Instr.hostEvent i then .done { s with heldHost := s.heldHost ++ [i] }
  else .done s

/-- What an agent's move comes to. -/
def agentTodo (s : State) : Agent → Todo
  | .issue c q => issueTodo s c q
  | .sluice c => if s.frozen then .done s else sluiceTodo s c
  | .event i => eventTodo s i
  | .clock n => .done (tickClock s n)

/-- The agent at the head of the agenda moves; when the agenda is empty, any agent may: a free choice.
DESIGN CHOICE, safe: log entry 4. -/
def nextTodo (s : State) : Todo :=
  match s.agenda with
  | a :: rest => agentTodo { s with agenda := rest } a
  | [] => agentTodo { s with free := s.free + 1 } (Config.schedule s.free)

/-- The state with one code word as the whole of a clause that wave 0 is issuing from slot 0 of core 0. -/
def placeCodeWord (s : State) (w : Word64) : State :=
  { s with
    nodes := NMap.set s.nodes 0 { addr := 0, st := .running }
    gangs := NMap.set s.gangs 0 { node := 0, gangid := 0, cluster := 0, groups := [0] }
    groups := NMap.set s.groups 0 { gang := 0, waves := [0] }
    waves := NMap.set s.waves 0
      { group := 0, waveid := 0, place := .resident 0 0, allot := 192
        splits := [(0, { pc := 0, mask := allLanes, state := .issuing })]
        issue := some { split := 0, hdr := 0, mask := allLanes, park := false, words := [{ word := w, hdr := 0, idx := 0 }],
                        next := 16 } }
    cores := NMap.set s.cores 0 { s.core 0 with slots := NMap.set (s.core 0).slots 0 0, port := NMap.set (s.core 0).port 0 0 }
    agenda := [.issue 0 0] }

/-- The state with one sluice word as the program that the sluice of core 0 runs. -/
def placeSluiceWord (s : State) (w : Word32) : State :=
  { s with
    cores := NMap.set s.cores 0 { s.core 0 with
      sluice := some { cmd := { id := 0, wave := none }, loaded := true, words := [w] } }
    agenda := [.sluice 0] }

end Sys2Proof.Machine
end

