-- ==== Sys2Proof/Machine/Step.lean ====
section
/-! DEFINITION. One step of the device: the agent that moves next executes one instruction, one event or one move of its
engine. -/

namespace Sys2Proof.Machine

/-- One step. -/
def step (s : State) : Host.Outcome State Fault Refusal :=
  match nextTodo s with
  | .run i t => exec i t
  | .done t => .next t

/-- The instruction placed as the very next one the device executes (the model's own: log entry 7). -/
def State.withFetchWord (s : State) (nbits w : Nat) : State :=
  if nbits ≤ 32 then placeSluiceWord s (BitVec.ofNat 32 w) else placeCodeWord s (BitVec.ofNat 64 w)

end Sys2Proof.Machine
end

