-- ==== Sys2Proof/Safety.lean ====
section
/-! DEFINITION. What a safe move of the device is, and the terms the statements about instructions are written in: what a
register holds after an instruction, and what an instruction leaves alone. -/

namespace Sys2Proof

/-- The device goes on from this state. -/
def Safe (s : Machine.State) : Prop := ∃ t, Machine.step s = .next t

namespace Machine

/-- The instruction answers a next state that satisfies `P`. -/
def Yields (i : Instr) (s : State) (P : State → Prop) : Prop := ∃ t, exec i s = .next t ∧ P t

/-- A wave by its name, or an empty one. -/
def State.waveD (s : State) (wid : Nat) : Wave := (s.wave? wid).getD { group := 0, waveid := 0 }

/-- What a register holds for lane l of a wave: an element, an even pair, or a scalar (R62, R126). -/
def State.held (s : State) (wid : Nat) (d : Operand) (w64 : Bool) (l : Nat) : OpVal :=
  match d with
  | .v n => (s.waveD wid).vVal n.val l w64
  | .s n => ((s.waveD wid).sAt n.val).opVal
  | _ => {}

/-- The lanes a result of this destination is computed in: those of Eff, or the lowest of them for a scalar (R131). -/
def Ctx.resultLanes (c : Ctx) (g : Guard) (d : Operand) : List Nat := passLanes (c.eff g) d.isS

/-- The lane's element of vector register r belongs to the destination d of this width. -/
def inDest (d : Operand) (w64 : Bool) (r : Nat) : Bool :=
  match d with
  | .v n => r = n.val || (w64 && r = n.val + 1)
  | _ => false

/-- A wave after an instruction that writes registers in some lanes: nothing but the destination's elements of those lanes,
or the destination scalar, differs in `v` and `s`; predicates and every other field are as before, but for the count of RSTO
roundings, and the wave issues on. -/
def Wave.wroteOnly (w w' : Wave) (d : Operand) (w64 : Bool) (ls : List Nat) : Prop :=
  w' = { w with v := w'.v, s := w'.s, lseq := w'.lseq, helpers := w'.helpers, issue := w.issue.map Issue.advance } ∧
    (∀ r l, l < 32 → ¬(inDest d w64 r = true ∧ l ∈ ls) → w'.vAt r l = w.vAt r l) ∧
    (∀ n, (∀ k, d = .s k → n ≠ k.val) → w'.sAt n = w.sAt n)

/-- A group after an instruction that only raises sticky flags: MODE may have gained bits among [15:8] (R96, R109). -/
def Group.flaggedOnly (g g' : Group) : Prop := ∃ f : Sticky, g' = { g with mode := modeOr g.mode f }

/-- Only this wave and, in sticky flags, its group differ. -/
def onlyWave (s t : State) (c : Ctx) : Prop :=
  t = { s with waves := t.waves, groups := t.groups } ∧ (∀ k, k ≠ c.wid → t.wave? k = s.wave? k) ∧
    (∀ k, k ≠ c.w.group → t.group? k = s.group? k) ∧
    ∀ g, s.group? c.w.group = some g → ∃ g', t.group? c.w.group = some g' ∧ g.flaggedOnly g'

/-- An integer instruction computes each element of its result from the matching elements of its sources, mod 2^W, in every
lane of the result; a 32-bit result is extended into a scalar as its type says (R126, R131). -/
def elementwise (i : Instr) (g : Guard) (ty : IntTy) (d : Operand) (srcs : List Src) (op : List Int → Int) : Prop :=
  ∀ (s : State) (c : Ctx) (p : Pop), s.ctx? = some c → i.wf = true → popPlan c s srcs (c.resultLanes g d) = .ok p →
    Yields i s fun t => ∀ l ∈ c.resultLanes g d,
      (∀ e, e < (IntTy.shape ty).2 →
        elemU (IntTy.shape ty).1 e (t.held c.wid d ty.w64 l).val.toNat =
          wrapTo (IntTy.shape ty).1 (op (srcs.map fun x => IntTy.elem ty e (c.read s p.word l x).val.toNat))) ∧
      (d.isS = true → ty.w64 = false → (t.held c.wid d ty.w64 l).val =
        if ty.signed then BitVec.signExtend 64 (lo32 (t.held c.wid d ty.w64 l).val)
        else BitVec.setWidth 64 (lo32 (t.held c.wid d ty.w64 l).val))

/-- The same for elements read as unsigned numbers below 2^W; the operation is told W. -/
def elementwiseU (i : Instr) (g : Guard) (ty : IntTy) (d : Operand) (srcs : List Src) (op : Nat → List Nat → Nat) : Prop :=
  ∀ (s : State) (c : Ctx) (p : Pop), s.ctx? = some c → i.wf = true → popPlan c s srcs (c.resultLanes g d) = .ok p →
    Yields i s fun t => ∀ l ∈ c.resultLanes g d, ∀ e, e < (IntTy.shape ty).2 →
      elemU (IntTy.shape ty).1 e (t.held c.wid d ty.w64 l).val.toNat =
        op (IntTy.shape ty).1 (srcs.map fun x => elemU (IntTy.shape ty).1 e (c.read s p.word l x).val.toNat)

/-- An instruction with a register destination completes, and in every lane of the result the low bits of the destination,
32 or 64 of them, meet `post` of the lane and of the sources as read. -/
def computes (i : Instr) (g : Guard) (d : Operand) (w64 : Bool) (srcs : List Src)
    (post : Ctx → Nat → List Nat → Nat → Prop) : Prop :=
  ∀ (s : State) (c : Ctx) (p : Pop), s.ctx? = some c → i.wf = true → popPlan c s srcs (c.resultLanes g d) = .ok p →
    Yields i s fun t => ∀ l ∈ c.resultLanes g d,
      post c l (srcs.map fun x => (c.read s p.word l x).val.toNat)
        ((t.held c.wid d w64 l).val.toNat % 2 ^ (if w64 then 64 else 32))

/-- The instructions that VERIFY issues twice (R130): CVT where FP32, FP16 or BF16 is one of its formats. -/
def Instr.issuesTwice : Instr → Bool
  | .fadd _ | .fsub _ | .fmul _ | .ffma _ | .fmin _ | .fmax _ | .fdot2 _ | .fcmp .. => true
  | .frcp _ | .frsq _ | .fexp2 _ | .flog2 _ | .fsin _ | .fcos _ => true
  | .cvt f | .cvtSat f => Fmt.verified f.dst || Fmt.verified f.src
  | _ => false

/-- No error strikes the second issue of an instruction in its lanes: its two results agree (R130). -/
def Ctx.agrees (c : Ctx) (s : State) (i : Instr) (g : Guard) : Prop :=
  Instr.issuesTwice i = true → ∀ l, l < 32 → (c.eff g).getLsbD l = true → modeVerify (c.mode s l) = true →
    c.w.upset.getLsbD l = false

/-- A float instruction of an ordinary wave whose enabled exceptions are none: the destination's low bits in each lane are
the bits `val` gives, and MODE gains the union of the flags it gives (R96, R109). -/
def rounds (i : Instr) (g : Guard) (d : Operand) (w64 : Bool) (srcs : List Src)
    (val : Ctx → State → Nat → List Nat → Nat × Sticky) : Prop :=
  ∀ (s : State) (c : Ctx) (p : Pop) (k : Group), s.ctx? = some c → i.wf = true → c.helper = false →
    s.group? c.w.group = some k → modeXen k.mode = 0 → c.agrees s i g → popPlan c s srcs (c.resultLanes g d) = .ok p →
    let res (l : Nat) : Nat × Sticky := val c s l (srcs.map fun x => (c.read s p.word l x).val.toNat)
    let flags : Sticky := (c.resultLanes g d).foldl (fun a l => a ||| (res l).2) 0
    Yields i s fun t =>
      (∀ l ∈ c.resultLanes g d,
        (t.held c.wid d w64 l).val.toNat % 2 ^ (if w64 then 64 else 32) = (res l).1 % 2 ^ (if w64 then 64 else 32)) ∧
      t.group? c.w.group = some { k with mode := modeOr k.mode flags }

/-- A saturating instruction: each element is clamped to the range of TYPE, and MODE.SAT is set where one was (R133). -/
def saturates (i : Instr) (f : AluI) (op : Int → Int → Int) : Prop :=
  ∀ (s : State) (c : Ctx) (p : Pop) (k : Group), s.ctx? = some c → i.wf = true → c.helper = false →
    s.group? c.w.group = some k → modeXen k.mode &&& fSAT = 0 → popPlan c s (AluI.srcs f) (c.resultLanes f.g f.d) = .ok p →
    let x (l e : Nat) : Int :=
      op (IntTy.elem f.ty e (c.read s p.word l (.op f.a f.ty.w64)).val.toNat)
        (IntTy.elem f.ty e (c.read s p.word l (SrcB.src f.b f.ty.w64)).val.toNat)
    let clamped : Prop := ∃ l ∈ c.resultLanes f.g f.d, ∃ e, e < (IntTy.shape f.ty).2 ∧
      (x l e < IntTy.lo f.ty ∨ IntTy.hi f.ty < x l e)
    Yields i s fun t =>
      (∀ l ∈ c.resultLanes f.g f.d, ∀ e, e < (IntTy.shape f.ty).2 →
        elemU (IntTy.shape f.ty).1 e (t.held c.wid f.d f.ty.w64 l).val.toNat =
          wrapTo (IntTy.shape f.ty).1 (max (IntTy.lo f.ty) (min (IntTy.hi f.ty) (x l e)))) ∧
      (clamped → t.group? c.w.group = some { k with mode := modeOr k.mode fSAT }) ∧
      (¬clamped → t.group? c.w.group = some k)

/-- A compare: each lane's result, or on the scalar unit the one result in every active lane, is written to the predicate;
no other bit of a predicate changes (R139). -/
def compares (i : Instr) (g : Guard) (pd : Fin 8) (srcs : List Src) (cmp : Ctx → State → Nat → List Nat → Bool × Sticky) :
    Prop :=
  ∀ (s : State) (c : Ctx) (p : Pop) (k : Group), s.ctx? = some c → i.wf = true → c.helper = false →
    s.group? c.w.group = some k → modeXen k.mode = 0 → c.agrees s i g →
    popPlan c s srcs (passLanes (c.eff g) (!srcs.any Src.perLane)) = .ok p → (p.missed = 0 ∨ g.pred = 7) →
    let res (l : Nat) : Bool × Sticky := cmp c s l (srcs.map fun x => (c.read s p.word l x).val.toNat)
    let lanes : List Nat := passLanes (c.eff g) (!srcs.any Src.perLane)
    let flags : Sticky := lanes.foldl (fun a l => a ||| (res l).2) 0
    Yields i s fun t =>
      (∀ q j, (if q = pd.val ∧ srcs.any Src.perLane = true then (c.eff g).getLsbD j = false
          else if q = pd.val then c.eff g = 0 ∨ c.mask.getLsbD j = false else True) →
        ((t.waveD c.wid).pAt q).getLsbD j = (c.w.pAt q).getLsbD j) ∧
      (∀ l ∈ lanes, ∀ j, j < 32 →
        (if srcs.any Src.perLane then j = l else c.mask.getLsbD j = true) →
          ((t.waveD c.wid).pAt pd.val).getLsbD j = (res l).1) ∧
      t.group? c.w.group = some { k with mode := modeOr k.mode flags }

/-- A modular instruction: a modulus outside 2 to 2^31-1 in some lane of the result traps with cause 66 and nothing written;
otherwise each lane's low 32 bits meet `post` of a, b and the modulus (R143, R144). -/
def modular (i : Instr) (g : Guard) (ty : IntTy) (d : Operand) (srcs : List Src) (mod : List Nat → Nat)
    (post : Int → Int → Nat → Nat → Prop) : Prop :=
  ∀ (s : State) (c : Ctx) (p : Pop), s.ctx? = some c → i.wf = true → popPlan c s srcs (c.resultLanes g d) = .ok p →
    let xs (l : Nat) : List Nat := srcs.map fun x => (c.read s p.word l x).val.toNat
    let m (l : Nat) : Nat := mod (xs l) % 2 ^ 32
    let bad : LaneMask := maskOf fun l => (c.resultLanes g d).contains l && !(2 ≤ m l && m l ≤ 2 ^ 31 - 1)
    ((∀ l ∈ c.resultLanes g d, 2 ≤ m l ∧ m l ≤ 2 ^ 31 - 1) → Yields i s fun t => ∀ l ∈ c.resultLanes g d,
      post (IntTy.elem ty 0 ((xs l).getD 0 0)) (IntTy.elem ty 0 ((xs l).getD 1 0)) (m l)
        ((t.held c.wid d false l).val.toNat % 2 ^ 32)) ∧
    ((∃ l ∈ c.resultLanes g d, ¬(2 ≤ m l ∧ m l ≤ 2 ^ 31 - 1)) →
      exec i s = .next (trapNow c s { cause := 66, lanes := if d.isS then c.eff g else bad }))

/-- The bits and flags a float function over the elements gives for register values. -/
def floatBits (t : FloatTy) (r : Rnd) (f : RMode → List FV → Pre × Sticky) (c : Ctx) (s : State) (l : Nat) (xs : List Nat) :
    Nat × Sticky :=
  let rs := (List.range (FloatTy.elems t)).map fun e =>
    let m := c.rmode s r l e
    let y := f m (xs.map fun x => (FloatTy.fmt t).read m.ftz (x / 2 ^ ((FloatTy.fmt t).width * e) % 2 ^ (FloatTy.fmt t).width))
    let z := (FloatTy.fmt t).round m y.1
    (z.1, y.2 ||| z.2)
  (packElems (FloatTy.fmt t).width (rs.map (·.1)), rs.foldl (fun a x => a ||| x.2) 0)

/-- FMIN and FMAX deliver one of the operands' values without rounding (R145). -/
def minMaxBits (t : FloatTy) (isMax : Bool) (c : Ctx) (s : State) (l : Nat) (xs : List Nat) : Nat × Sticky :=
  let rs := (List.range (FloatTy.elems t)).map fun e =>
    let ys := xs.map fun x => (FloatTy.fmt t).read (modeFtz (c.mode s l))
      (x / 2 ^ ((FloatTy.fmt t).width * e) % 2 ^ (FloatTy.fmt t).width)
    let y := fMinMax isMax (fArg ys 0) (fArg ys 1)
    ((FloatTy.fmt t).put y.1, y.2)
  (packElems (FloatTy.fmt t).width (rs.map (·.1)), rs.foldl (fun a x => a ||| x.2) 0)

/-- FDOT2: the exact a0·b0 + a1·b1 + c, rounded once to FP32 (R145). -/
def dotBits (t : FloatTy) (r : Rnd) (c : Ctx) (s : State) (l : Nat) (xs : List Nat) : Nat × Sticky :=
  let m := c.rmode s r l 0
  let x (i e : Nat) : FV := (FloatTy.fmt t).read m.ftz (xs.getD i 0 / 2 ^ (16 * e) % 2 ^ 16)
  let z := fp32.read m.ftz (xs.getD 2 0 % 2 ^ 32)
  let y := fSumPre m [fProd (x 0 0) (x 1 0), fProd (x 0 1) (x 1 1)] z (sigFlag [x 0 0, x 1 0, x 0 1, x 1 1, z])
  ((fp32.round m y.1).1, y.2 ||| (fp32.round m y.1).2)

/-- The arithmetic, lane and conversion instructions whose one effect is to write a register in the lanes of Eff (R131):
MODMUL and its like apart, which may trap on a modulus. -/
def Instr.plainResult : Instr → Bool
  | .iadd _ | .isub _ | .iadds _ | .isubs _ | .imul _ | .imulh _ | .imad _ | .imin _ | .imax _ | .iabs _ | .ineg _ => true
  | .and _ | .or _ | .xor _ | .andn _ | .not _ | .shl _ | .shr _ | .sar _ | .rot _ => true
  | .bfx _ | .bfi _ | .clz _ | .popc _ | .brev _ | .permb _ | .sel .. | .mov .. => true
  | .fadd _ | .fsub _ | .fmul _ | .ffma _ | .fmin _ | .fmax _ | .fdot2 _ => true
  | .frcp _ | .frsq _ | .fexp2 _ | .flog2 _ | .fsin _ | .fcos _ | .cvt _ | .cvtSat _ => true
  | .shfl .. | .rdlane .. | .qxch .. => true
  | _ => false

/-- `Src(A, j)` in lane l: what lane j holds of vector register A, or 0 at a filler position (R119, R146). -/
def Ctx.laneVal (c : Ctx) (a : Operand) (w64 : Bool) (l j : Nat) : Nat :=
  match c.sees l j, a with
  | true, .v n => (c.w.vVal n.val j w64).val.toNat
  | _, _ => 0

/-- The 64 bits a scalar receives for a lane value of this TYPE (R127). -/
def laneScalar (ty : LaneTy) (x : Nat) : Word64 :=
  match ty with
  | .w32s => BitVec.signExtend 64 (BitVec.ofNat 32 x)
  | .w32z => BitVec.ofNat 64 (x % 2 ^ 32)
  | .w64s | .w64z => BitVec.ofNat 64 x

/-- Integers of width W combined by an operation of REDUCE and SCAN; of no values, its identity (R104, R151). -/
def combined (op : RedOp) (w : Nat) (sg : Bool) (xs : List Nat) (r : Nat) : Prop :=
  let v (x : Nat) : Int := if sg then signed w x else x
  match op with
  | .add => r = xs.sum % 2 ^ w
  | .min => if xs = [] then r = (if sg then 2 ^ (w - 1) - 1 else 2 ^ w - 1) else r ∈ xs ∧ ∀ x ∈ xs, v r ≤ v x
  | .max => if xs = [] then r = (if sg then 2 ^ (w - 1) else 0) else r ∈ xs ∧ ∀ x ∈ xs, v x ≤ v r
  | .and => r < 2 ^ w ∧ ∀ i, i < w → (r.testBit i = true ↔ ∀ x ∈ xs, x.testBit i = true)
  | .or => r < 2 ^ w ∧ ∀ i, i < w → (r.testBit i = true ↔ ∃ x ∈ xs, x.testBit i = true)
  | .xor => r < 2 ^ w ∧ ∀ i, i < w → (r.testBit i = true ↔ (xs.filter fun x => x.testBit i).length % 2 = 1)

/-- The wave with other predicates, and with other scalars. -/
def Wave.withPreds (w : Wave) (ps : NMap LaneMask) : Wave := { w with p := ps }
def Wave.withScalars (w : Wave) (ss : NMap Scalar) : Wave := { w with s := ss }

/-- Only the issuing wave differs, and it has become `w'`. -/
def turns (s t : State) (c : Ctx) (w' : Wave) : Prop :=
  t = { s with waves := t.waves } ∧ t.wave? c.wid = some w' ∧ ∀ k, k ≠ c.wid → t.wave? k = s.wave? k

/-- Only the issuing wave and its group differ: the wave has become `w'`, the group what `g'` makes of it. -/
def turnsBoth (s t : State) (c : Ctx) (w' : Wave) (g' : Group → Group) : Prop :=
  t = { s with waves := t.waves, groups := t.groups } ∧ t.wave? c.wid = some w' ∧ (∀ k, k ≠ c.wid → t.wave? k = s.wave? k) ∧
    t.group? c.w.group = (s.group? c.w.group).map g' ∧ ∀ k, k ≠ c.w.group → t.group? k = s.group? k

/-- Only the issuing wave and the spin detector's mark on its group differ; the wave has become `w'` (R174). -/
def spins (s t : State) (c : Ctx) (w' : Wave) : Prop :=
  t = { s with waves := t.waves, groups := t.groups } ∧ t.wave? c.wid = some w' ∧ (∀ k, k ≠ c.wid → t.wave? k = s.wave? k) ∧
    (∀ k, k ≠ c.w.group → t.group? k = s.group? k) ∧
    ∀ g, s.group? c.w.group = some g → ∃ lowered at_ lines many,
      t.group? c.w.group = some { g with lowered := lowered, loweredAt := at_, spinLines := lines, spinMany := many }

/-- The wave with another spin record. -/
def Wave.withSpin (w : Wave) (x : NMap Spin) : Wave := { w with spin := x }

/-- The wave with its issuing split moved whole. -/
def Wave.movedTo (w : Wave) (e : Nat) (pc : VAddr) (m : LaneMask) : Wave :=
  { w with splits := NMap.modify w.splits e fun sp => { sp with pc := pc, mask := m, state := .ready } }

/-- The address a word offset names, from the header of the clause in hand. -/
def Ctx.target (c : Ctx) (off : BitVec 20) : VAddr := c.iw.hdr + BitVec.ofNat 48 (8 * (BitVec.signExtend 48 off).toNat)

/-- A branch of the whole split: taken, it moves the split to a target that R45 accepts, and traps at one that it does not; not
taken, the split goes on with its clause's end. -/
def branches (i : Instr) (s : State) (c : Ctx) (off : BitVec 20) (taken : Prop) : Prop :=
  let r := checkTarget s c.core c.w.asid (c.target off) c.iss.mask
  (taken → r.2 = none → Yields i s fun t => ∃ x, spins r.1 t c
    ((c.w.movedTo c.iss.split (c.target off) c.iss.mask).withSpin x).advance) ∧
  (taken → ∀ x, r.2 = some x → exec i s = .next (trapNow c r.1 x)) ∧
  (¬taken → Yields i s fun t => ∃ x, spins s t c (c.w.withSpin x).advance)

/-- An access instruction issues, once its checks pass and with no transaction in its lanes, by joining the wave's outstanding
accesses with its addresses and its data; nothing is performed yet. With an empty Eff it only goes on, with no room it
waits, and at a failed check it traps (R182, R51, R52). A store-class one of helper code joins the effect buffer of each of its
lanes instead, where there is room (R390). -/
def Access.issues (a : Access) : Prop :=
  ∀ (s : State) (c : Ctx), s.ctx? = some c →
    let eff := c.eff a.g
    let ls := passLanes eff (a.onScalar c)
    (eff = 0 → Yields a.i s fun t => turns s t c c.w.advance) ∧
    (eff ≠ 0 → c.w.noRoom a.i = true → exec a.i s = .next (awaitRoom c s)) ∧
    (eff ≠ 0 → c.w.noRoom a.i = false → ∀ x, a.check c s ls = some x →
      exec a.i s = .next (trapNow c s (if a.onScalar c then { x with lanes := eff } else x))) ∧
    (eff ≠ 0 → c.w.noRoom a.i = false → a.check c s ls = none → c.helper = false → (∀ l ∈ ls, NMap.get? c.w.tx l = none) →
      Yields a.i s fun t => t.mem = s.mem ∧ t.groups = s.groups ∧ (∀ k, k ≠ c.wid → t.wave? k = s.wave? k) ∧
        ∃ w o, t.wave? c.wid = some w ∧ w.v = c.w.v ∧ w.s = c.w.s ∧ w.issue = some c.iss.advance ∧
          w.loads = c.w.loads ++ (if Instr.loadClass a.i then [o] else []) ∧
          w.stores = c.w.stores ++ (if Instr.loadClass a.i then [] else [o]) ∧
          o.id = c.w.nextOp ∧ o.instr = a.i ∧ o.mask = (maskOf fun l => ls.contains l) ∧ o.done = 0 ∧ o.scal = a.onScalar c ∧
          (∀ l ∈ ls, o.at_ l = c.addrOf s a.m l) ∧
          (Instr.storeClass a.i = true → ∃ p, popPlan c s a.srcs ls = .ok p ∧ ∀ l ∈ ls, o.datum l = a.datum c s p.word l)) ∧
    (eff ≠ 0 → c.w.noRoom a.i = false → a.check c s ls = none → c.helper = true → Instr.loadClass a.i = false →
      (∀ l ∈ ls, ∃ h, NMap.get? c.w.helpers l = some h ∧ h.buf.length < 64) → (∀ l ∈ ls, NMap.get? c.w.tx l = none) →
      Yields a.i s fun t => t.mem = s.mem ∧ t.groups = s.groups ∧ (∀ k, k ≠ c.wid → t.wave? k = s.wave? k) ∧
        ∃ w o, t.wave? c.wid = some w ∧ w.stores = c.w.stores ∧ o.instr = a.i ∧ (∀ l ∈ ls, o.at_ l = c.addrOf s a.m l) ∧
          ∀ l ∈ ls, ∀ h, NMap.get? c.w.helpers l = some h →
            NMap.get? w.helpers l = some { h with buf := h.buf ++ [⟨o, l⟩] })

/-- The accesses that LD and LDS, and FFILL, make. -/
def loadAccess (i : Instr) (f : LoadForm) : Access := { g := f.g, i := i, m := f.m, perLaneD := f.d.perLane }
def fillAccess (f : FutForm) : Access :=
  { FutForm.access f (.ffill f) with regs := dataRegs f.d 8, datum := fun c s q l => c.dataOf s q f.d 8 l }

/-- An operation with a token: its guard false it only goes on; a failed check traps; otherwise the wave's accesses are
performed as far as they can be, the operation joins the asynchronous ones and its token becomes Pending (R13, R16). -/
def startsToken (i : Instr) (g : Guard) (tok : Fin 32) (a len : Ctx → Word64) (fails : Ctx → State → Option TrapInfo) : Prop :=
  ∀ (s : State) (c : Ctx), s.ctx? = some c →
    let u := drainWave (abortOpen c s (c.eff g)) c.wid
    (c.guardHolds g = false → Yields i s fun t => turns s t c c.w.advance) ∧
    (c.guardHolds g = true → ∀ x, fails c s = some x → exec i s = .next (trapNow c s x)) ∧
    (c.guardHolds g = true → fails c s = none → Yields i s fun t => t.mem = u.mem ∧ t.groups = u.groups ∧
      (∀ k, k ≠ c.wid → t.wave? k = u.wave? k) ∧ ∀ w, u.wave? c.wid = some w → ∃ w' o, t.wave? c.wid = some w' ∧
        w'.asyncs = w.asyncs ++ [o] ∧ o.instr = i ∧ o.id = w.nextOp ∧ o.at_ 0 = a c ∧ o.datum 0 = BitVec.ofNat 128 (len c).toNat ∧
        w'.v = w.v ∧ w'.p = w.p ∧ (w'.sAt tok.val) = Scalar.pend ∧ ∀ n, n ≠ tok.val → w'.sAt n = w.sAt n)

/-- An engine command that meets its guard (R36, R231), what of the wave's earlier accesses can be performed being so: false it
only goes on, and otherwise `enters` tells what it does from the state and the guard it carries. -/
def guarded (i : Instr) (g : Guard) (s : State) (c : Ctx) (enters : State → Option GuardRef → Prop) : Prop :=
  let r := c.engineGuard (drainWave s c.wid) g
  (r.2 = none → exec i s = .next (r.1.advance c.wid)) ∧ ∀ gr, r.2 = some gr → enters r.1 gr

/-- The guard of an engine command without one holds, of any other whose predicate no TAKE or SPAWN of the wave is still to
write it is the predicate's value at issue, resolved at once or in the queue (R36). -/
def Ctx.meets (c : Ctx) (u : State) (g : Guard) : Prop :=
  let w := (u.wave? c.wid).getD c.w
  let r := c.engineGuard u g
  (g.pred = 7 → r = (u, if w.guardMask g c.mask = 0 then none else some none)) ∧
  (g.pred ≠ 7 → w.predWriters g.pred = [] → r.1 = { u with free := u.free + 1 } ∧
    (r.2 = some (some { value := decide (w.guardMask g c.mask ≠ 0) }) ∨
      r.2 = if w.guardMask g c.mask = 0 then none else some none)) ∧
  (g.pred ≠ 7 → w.predWriters g.pred ≠ [] → ∃ gr, r.2 = some (some gr))

/-- The queue entry a matrix command makes: its fields, the wave, RND, FTZ and SEED as they stand at issue, its guard if it is
still to be resolved, and, for a batch operation, the open batch (R109, R254). -/
def Ctx.mxEntry (c : Ctx) (i : Instr) (x : Group) (gr : Option GuardRef) (batch : Bool) (xa xb xc : Word64) : MxEntry :=
  { id := x.nextMx, instr := i, word := c.iw.word, wave := c.wid, after := c.w.nextOp, xa := xa, xb := xb, xc := xc, rnd := Fin.ofNat 8 (modeRnd x.mode)
    ftz := modeFtz x.mode, seed := x.seed, guard := gr, batch := if batch then some x.openSeq else none }

/-- A matrix command: a failed check traps; a guard that is false keeps it out; a full queue of 64 stalls it; otherwise it
enters its group's queue at the end, and nothing else happens (R8, R254). -/
def queues (i : Instr) (g : Guard) (batch : Bool) (xa xb xc : Ctx → Word64) : Prop :=
  ∀ (s : State) (c : Ctx), s.ctx? = some c →
    let r := c.engineGuard (drainWave s c.wid) g
    (∀ x, valueCheck c s i = some x → exec i s = .next (trapNow c s x)) ∧
    (valueCheck c s i = none → r.2 = none → exec i s = .next (r.1.advance c.wid)) ∧
    (∀ gr, valueCheck c s i = none → r.2 = some gr → 64 ≤ (r.1.group c.w.group).mq.length → exec i s = .next (r.1.stall c)) ∧
    ∀ gr w, valueCheck c s i = none → r.2 = some gr → (r.1.group c.w.group).mq.length < 64 →
      r.1.wave? c.wid = some w → Yields i s fun t => turnsBoth r.1 t c (w.abortTx 4 0 (c.eff g)).advance fun x =>
        { x with nextMx := x.nextMx + 1, mq := x.mq ++ [c.mxEntry i x gr batch (xa c) (xb c) (xc c)] }

/-- The destination register of an instruction and its width. -/
def Instr.dest? (i : Instr) : Option (Operand × Bool) := (i.uses.find? fun u => u.kind.writes).map fun u => (u.o, u.regs = 2)

/-- The state with the sluice program of the current core replaced. -/
def State.withProg (s : State) (p : SluiceProg) : State := s.modCore s.cur.1 fun k => { k with sluice := some p }

/-- A sluice instruction that writes `xd` with a function of the registers, unless d is x0, and goes on to the next index; no
other register and nothing else of the device changes (R311). -/
def sluiceComputes (i : Instr) (d : Fin 16) (f : (Fin 16 → Word64) → Word64) : Prop :=
  ∀ (s : State) (p : SluiceProg), (s.core s.cur.1).sluice = some p → Yields i s fun t => ∃ q : SluiceProg, t = s.withProg q ∧
    q = { p with x := q.x, spc := p.spc + 1, wait := .none } ∧
    ∀ n : Fin 16, q.xAt n = if n = d ∧ n ≠ 0 then f p.xAt else p.xAt n

/-- A sluice branch: not taken it goes on; taken to a target outside 0 to ICNT it ends the program with cause 97; taken to
another it goes there and pops, innermost first, the loops whose body does not contain it (R312). -/
def sluiceJumps (i : Instr) (off : BitVec 14) (cond : (Fin 16 → Word64) → Prop) : Prop :=
  ∀ (s : State) (p : SluiceProg), (s.core s.cur.1).sluice = some p →
    (¬cond p.xAt → Yields i s fun t => t = s.withProg { p with spc := p.spc + 1, wait := .none }) ∧
    (cond p.xAt → (p.spc : Int) + off.toInt < 0 ∨ (p.icnt : Int) < p.spc + off.toInt →
      exec i s = .next (endProgram s s.cur.1 97 0 p.spc)) ∧
    ∀ n : Nat, cond p.xAt → (n : Int) = p.spc + off.toInt → n ≤ p.icnt → Yields i s fun t => ∃ out ls : List SLoop,
      t = s.withProg { p with loops := ls, spc := n, wait := .none } ∧ p.loops = out ++ ls ∧
        (∀ l ∈ out, n < l.start ∨ l.stop < n) ∧ ∀ l, ls.head? = some l → l.start ≤ n ∧ n ≤ l.stop

/-- The sluice instruction waits as it stands, and is tried again. -/
def sluiceWaits (i : Instr) (s : State) (p : SluiceProg) (w : SluiceWait) : Prop :=
  Yields i s fun t => t = s.withProg { p with wait := w }

/-- The sluice instruction's fault ends the program with this cause and address. -/
def sluiceFails (i : Instr) (s : State) (p : SluiceProg) (k : BitVec 8) (a : Word64) : Prop :=
  exec i s = .next (endProgram s s.cur.1 k a p.spc)

/-- A data instruction starts: after the blocks that write where it reads or writes, and once it can take all its locks, it holds
them and its elements are to move; nothing else differs (R31, R323, R332). -/
def dataStarts (i : Instr) (s : State) (p : SluiceProg) (x : Xfer) (rs : List SRange) : Prop :=
  let locks := rs.map fun r => r.lock s s.cur.1 p.cmd (.sluice s.cur.1 p.cmd.id)
  (meetsDeco s s.cur.1 p.cmd.id rs = true → sluiceWaits i s p .deco) ∧
  (meetsDeco s s.cur.1 p.cmd.id rs = false → takeLocksIn s locks = none → sluiceWaits i s p .locks) ∧
  ∀ u, meetsDeco s s.cur.1 p.cmd.id rs = false → takeLocksIn s locks = some u → Yields i s fun t =>
    t = u.withProg { p with wait := .xfer, xfer := some x }

/-- What a suspension waits for may have come about with this end of a program's work. -/
def settledWith (s : State) (p : SluiceProg) (u : State) : State :=
  (p.cmd.group.map fun gk => settleSuspend u (s.group gk).gang).getD u

/-- The checks a data instruction makes of its planes and ranges, then its start (R309, R317 to R319, R336). -/
def dataPlanes (i : Instr) (s : State) (p : SluiceProg) (td ts : TDesc) (src : List (Nat × Nat) → Nat)
    (go : List (Nat × Nat) → Prop) : Prop :=
  (planesOf s p.cmd td.fmt = none → sluiceFails i s p 108 0) ∧
  ∀ ms, planesOf s p.cmd td.fmt = some ms →
    (ts.fits s p.cmd (src ms) = false → sluiceFails i s p 101 ts.base) ∧
    (ts.fits s p.cmd (src ms) = true → td.fits s p.cmd ms.length = false → sluiceFails i s p 101 td.base) ∧
    (ts.fits s p.cmd (src ms) = true → td.fits s p.cmd ms.length = true →
      (planeTooNarrow td.fmt ms = true → Yields i s fun t => t = s.withProg (p.note 79 0).next) ∧
      (planeTooNarrow td.fmt ms = false → go ms))

/-- The device after the clocks resume: open transactions are aborted with code 7, the counter takes what TICKSET wrote, and the
held host accesses come next in their order (R490 to R492). -/
def resumed (s t : State) : Prop :=
  t.frozen = false ∧ t.heldHost = [] ∧ t.agenda = s.heldHost.map Agent.event ++ s.agenda ∧ t.tick = s.tickSet.getD s.tick ∧
    t.mem = s.mem ∧ t.waves = NMap.mapVal s.waves fun _ w => w.abortTx 7 0 allLanes

end Machine

end Sys2Proof
end

