-- ==== Sys2Proof/Certificates/Slice0/Obligations.lean ====
section
/-! DEFINITION. The statements about the device. Each formalises what the spec says an instruction, an event or the whole
machine does; OBLIGATIONS.json names the rules. -/

open Sys2Proof Sys2Proof.Machine

/-! ### Arithmetic of wave instructions -/

/-- R133: the sums, differences and products of IADD, ISUB, IMUL and IMAD, the high half of IMULH, and IMIN, IMAX, IABS and
INEG, per element and mod 2^W. -/
def Obligations.IntegerArithmeticWrites : Prop :=
  (∀ f : AluI,
    elementwise (.iadd f) f.g f.ty f.d (AluI.srcs f) (fun xs => xs.getD 0 0 + xs.getD 1 0) ∧
    elementwise (.isub f) f.g f.ty f.d (AluI.srcs f) (fun xs => xs.getD 0 0 - xs.getD 1 0) ∧
    elementwise (.imul f) f.g f.ty f.d (AluI.srcs f) (fun xs => xs.getD 0 0 * xs.getD 1 0) ∧
    elementwise (.imulh f) f.g f.ty f.d (AluI.srcs f)
      (fun xs => (xs.getD 0 0 * xs.getD 1 0).fdiv (2 ^ (IntTy.shape f.ty).1)) ∧
    elementwise (.imin f) f.g f.ty f.d (AluI.srcs f) (fun xs => min (xs.getD 0 0) (xs.getD 1 0)) ∧
    elementwise (.imax f) f.g f.ty f.d (AluI.srcs f) (fun xs => max (xs.getD 0 0) (xs.getD 1 0))) ∧
  (∀ f : AluI3,
    elementwise (.imad f) f.g f.ty f.d (AluI3.srcs f) (fun xs => xs.getD 0 0 * xs.getD 1 0 + xs.getD 2 0)) ∧
  ∀ f : AluI1,
    elementwise (.iabs f) f.g f.ty f.d [.op f.a f.ty.w64] (fun xs => |xs.getD 0 0|) ∧
    elementwise (.ineg f) f.g f.ty f.d [.op f.a f.ty.w64] (fun xs => -xs.getD 0 0)

/-- R134, R135: AND, OR, XOR, ANDN and NOT bit by bit; SHL, SHR, SAR and ROT of each element by the amount mod W. -/
def Obligations.LogicAndShiftsWrite : Prop :=
  (∀ f : AluI,
    elementwiseU (.and f) f.g f.ty f.d (AluI.srcs f) (fun _ xs => xs.getD 0 0 &&& xs.getD 1 0) ∧
    elementwiseU (.or f) f.g f.ty f.d (AluI.srcs f) (fun _ xs => xs.getD 0 0 ||| xs.getD 1 0) ∧
    elementwiseU (.xor f) f.g f.ty f.d (AluI.srcs f) (fun _ xs => xs.getD 0 0 ^^^ xs.getD 1 0) ∧
    elementwiseU (.andn f) f.g f.ty f.d (AluI.srcs f) (fun w xs => xs.getD 0 0 &&& (2 ^ w - 1 - xs.getD 1 0)) ∧
    elementwiseU (.shl f) f.g f.ty f.d (AluI.srcs f) (fun w xs => xs.getD 0 0 * 2 ^ (xs.getD 1 0 % w) % 2 ^ w) ∧
    elementwiseU (.shr f) f.g f.ty f.d (AluI.srcs f) (fun w xs => xs.getD 0 0 / 2 ^ (xs.getD 1 0 % w)) ∧
    elementwiseU (.sar f) f.g f.ty f.d (AluI.srcs f)
      (fun w xs => wrapTo w ((signed w (xs.getD 0 0)).fdiv (2 ^ (xs.getD 1 0 % w)))) ∧
    elementwiseU (.rot f) f.g f.ty f.d (AluI.srcs f)
      (fun w xs => (xs.getD 0 0 * 2 ^ (xs.getD 1 0 % w) + xs.getD 0 0 / 2 ^ (w - xs.getD 1 0 % w)) % 2 ^ w)) ∧
  ∀ f : AluI1, elementwiseU (.not f) f.g f.ty f.d [.op f.a f.ty.w64] (fun w xs => 2 ^ w - 1 - xs.getD 0 0)

/-- R133: IADDS and ISUBS clamp, and set MODE.SAT where an element was clamped. -/
def Obligations.SaturatingSumsClampAndFlag : Prop :=
  ∀ f : AluI, saturates (.iadds f) f (fun a b => a + b) ∧ saturates (.isubs f) f (fun a b => a - b)

/-- R136 to R138: BFX extracts a field of the value read by TYPE, BFI inserts one bit by bit; CLZ, POPC and BREV of each
element; PERMB builds each result byte from its selector nibble. -/
def Obligations.BitFieldsAndBytesWrite : Prop :=
  (∀ f : AluI3,
    computes (.bfx f) f.g f.d f.ty.w64 [.op f.a f.ty.w64, .op f.b false, .op f.c false] (fun _ _ xs r =>
      let w := (IntTy.shape f.ty).1
      let off := min (xs.getD 1 0 % 2 ^ 32) w
      let len := min (xs.getD 2 0 % 2 ^ 32) w
      let y := (IntTy.elem f.ty 0 (xs.getD 0 0)).fdiv (2 ^ off) % 2 ^ len
      (r : Int) = if len = 0 then 0
        else if f.ty.signed = true ∧ 2 ^ (len - 1) ≤ y then (y - 2 ^ len) % 2 ^ w else y) ∧
    computes (.bfi f) f.g f.d f.ty.w64 [.op f.a f.ty.w64, .op f.b false, .op f.c false, .op f.d f.ty.w64] (fun _ _ xs r =>
      let w := (IntTy.shape f.ty).1
      let off := min (xs.getD 1 0 % 2 ^ 32) w
      let len := min (xs.getD 2 0 % 2 ^ 32) (w - off)
      ∀ i, i < w → r.testBit i =
        if off ≤ i ∧ i < off + len then (xs.getD 0 0).testBit (i - off) else (xs.getD 3 0).testBit i)) ∧
  (∀ f : AluI1,
    elementwiseU (.clz f) f.g f.ty f.d [.op f.a f.ty.w64] (fun w xs => if xs.getD 0 0 = 0 then w else w - 1 - (xs.getD 0 0).log2) ∧
    elementwiseU (.popc f) f.g f.ty f.d [.op f.a f.ty.w64]
      (fun w xs => ((List.range w).filter fun i => (xs.getD 0 0).testBit i).length) ∧
    elementwiseU (.brev f) f.g f.ty f.d [.op f.a f.ty.w64]
      (fun w xs => ((List.range w).map fun i => if (xs.getD 0 0).testBit i then 2 ^ (w - 1 - i) else 0).sum)) ∧
  ∀ f : AluI, computes (.permb f) f.g f.d false (AluI.srcs f) (fun _ _ xs r => ∀ i, i < 4 →
    let sel := xs.getD 1 0 / 2 ^ (4 * i) % 16
    let y := xs.getD 0 0 / 2 ^ (8 * (sel % 4)) % 2 ^ 8
    r / 2 ^ (8 * i) % 2 ^ 8 =
      if sel.testBit 3 then 0 else if sel.testBit 2 then (if y.testBit 7 then 0xFF else 0) else y)

/-- R139, R140: ICMP and FCMP write their result to the predicate, and only there; a signalling NaN raises NV. -/
def Obligations.ComparesWritePredicates : Prop :=
  (∀ cc g ty pd a b, compares (.icmp cc g ty pd a b) g pd [.op a ty.w64, SrcB.src b ty.w64] (fun _ _ _ xs =>
    (ICond.holds cc (IntTy.elem ty 0 (xs.getD 0 0)) (IntTy.elem ty 0 (xs.getD 1 0)), 0))) ∧
  ∀ cc g ty rnd pd a b, compares (.fcmp cc g ty rnd pd a b) g pd [.op a false, SrcB.src b false] (fun c s l xs =>
    let x := fp32.read (modeFtz (c.mode s l)) (xs.getD 0 0 % 2 ^ 32)
    let y := fp32.read (modeFtz (c.mode s l)) (xs.getD 1 0 % 2 ^ 32)
    (FCond.holds cc x y, if x.sig || y.sig then fNV else 0))

/-- R141, R142: SEL chooses by the lane's bit of the predicate; MOV copies, extended into a scalar as its type says. -/
def Obligations.SelectAndMoveWrite : Prop :=
  (∀ g ty d a b p neg, computes (.sel g ty d a b p neg) g d ty.w64 [.op a ty.w64, .op b ty.w64] (fun c l xs r =>
    r = (if ((c.w.pAt p.val).getLsbD l != neg) = true then xs.getD 0 0 else xs.getD 1 0) % 2 ^ (if ty.w64 then 64 else 32))) ∧
  ∀ g ty d b, elementwise (.mov g ty d b) g ty d [SrcB.src b ty.w64] (fun xs => xs.getD 0 0)

/-- R143, R144: MODMUL, MODADD and MODSUB give the least residue, MODRCP the inverse or 0; a bad modulus traps. -/
def Obligations.ModularArithmeticWrites : Prop :=
  (∀ f : AluI3,
    modular (.modmul f) f.g f.ty f.d (AluI3.srcs f) (fun xs => xs.getD 2 0) (fun a b m r => (r : Int) = (a * b) % m) ∧
    modular (.modadd f) f.g f.ty f.d (AluI3.srcs f) (fun xs => xs.getD 2 0) (fun a b m r => (r : Int) = (a + b) % m) ∧
    modular (.modsub f) f.g f.ty f.d (AluI3.srcs f) (fun xs => xs.getD 2 0) (fun a b m r => (r : Int) = (a - b) % m)) ∧
  ∀ f : AluI, modular (.modrcp f) f.g f.ty f.d (AluI.srcs f) (fun xs => xs.getD 1 0) (fun a _ m r =>
    if Int.gcd a m = 1 then 1 ≤ r ∧ r < m ∧ (a * r) % m = 1 else r = 0)

/-- R145: FADD, FSUB, FMUL and FFMA round the exact value once in each element; FMIN and FMAX deliver an operand; FDOT2
rounds its exact sum once to FP32. -/
def Obligations.FloatArithmeticRoundsOnce : Prop :=
  (∀ f : AluF,
    rounds (.fadd f) f.g f.d false (AluF.srcs f) (floatBits f.ty f.rnd fun m vs => fAddPre m (fArg vs 0) (fArg vs 1)) ∧
    rounds (.fsub f) f.g f.d false (AluF.srcs f) (floatBits f.ty f.rnd fun m vs => fAddPre m (fArg vs 0) (fArg vs 1).negate) ∧
    rounds (.fmul f) f.g f.d false (AluF.srcs f) (floatBits f.ty f.rnd fun _ vs => fMulPre (fArg vs 0) (fArg vs 1)) ∧
    rounds (.fmin f) f.g f.d false (AluF.srcs f) (minMaxBits f.ty false) ∧
    rounds (.fmax f) f.g f.d false (AluF.srcs f) (minMaxBits f.ty true)) ∧
  ∀ f : AluF3,
    rounds (.ffma f) f.g f.d false [.op f.a false, .op f.b false, .op f.c false] (floatBits f.ty f.rnd fun m vs =>
      fSumPre m [fProd (fArg vs 0) (fArg vs 1)] (fArg vs 2) (sigFlag vs)) ∧
    rounds (.fdot2 f) f.g f.d false [.op f.a false, .op f.b false, .op f.c false] (dotBits f.ty f.rnd)

/-- R146, R147: the functions deliver the exact value rounded once; CVT and CVT.sat convert one element. -/
def Obligations.FunctionsAndConversionsRoundOnce : Prop :=
  (∀ f : AluF1,
    rounds (.frcp f) f.g f.d false [.op f.a false] (floatBits .f32 f.rnd fun _ vs => recipPre (fArg vs 0)) ∧
    rounds (.frsq f) f.g f.d false [.op f.a false] (floatBits .f32 f.rnd fun _ vs => rsqrtPre (fArg vs 0)) ∧
    rounds (.fexp2 f) f.g f.d false [.op f.a false] (floatBits .f32 f.rnd fun _ vs => exp2Pre (fArg vs 0)) ∧
    rounds (.flog2 f) f.g f.d false [.op f.a false] (floatBits .f32 f.rnd fun _ vs => log2Pre (fArg vs 0)) ∧
    rounds (.fsin f) f.g f.d false [.op f.a false] (floatBits .f32 f.rnd fun _ vs => trigPre false (fArg vs 0)) ∧
    rounds (.fcos f) f.g f.d false [.op f.a false] (floatBits .f32 f.rnd fun _ vs => trigPre true (fArg vs 0))) ∧
  ∀ f : CvtForm,
    rounds (.cvt f) f.g f.d f.dst.w64 [.op f.a f.src.w64]
      (fun c s l xs => convert false f.dst f.src (c.rmode s f.rnd l 0) (xs.getD 0 0)) ∧
    rounds (.cvtSat f) f.g f.d f.dst.w64 [.op f.a f.src.w64]
      (fun c s l xs => convert true f.dst f.src (c.rmode s f.rnd l 0) (xs.getD 0 0))

/-- R131, R96: an instruction whose effect is a register result, that reads no queue and whose enabled exceptions are none,
completes and changes nothing but its destination in the lanes of the result, its clause's progress, its RSTO counts and the
sticky flags of its group. -/
def Obligations.RegisterResultsLeaveTheRestAlone : Prop :=
  ∀ (i : Instr) (d : Operand) (w64 : Bool) (s : State) (c : Ctx), s.ctx? = some c → i.wf = true → Instr.plainResult i = true →
    Instr.dest? i = some (d, w64) → (i.uses.all fun u => !u.o.isQ) = true → (∀ l, l < 32 → modeXen (c.mode s l) = 0) →
    c.agrees s i i.guard →
    Yields i s fun t => onlyWave s t c ∧ ∃ w', t.wave? c.wid = some w' ∧ c.w.wroteOnly w' d w64 (c.resultLanes i.guard d)

/-- R110, R130: where FADD raises a flag that its MODE enables, nothing is written: the wave traps with the cause of the lowest
enabled flag, 67 for NV. Where an error strikes the second issue that MODE.VERIFY gives FADD, FSUB, FMUL, FMIN or FMAX,
nothing is written and the wave traps with 65 (log entry 50). -/
def Obligations.EnabledExceptionTrapsBeforeWriting : Prop :=
  (∀ (f : AluF) (i : Instr) (s : State) (c : Ctx) (p : Pop), i ∈ [Instr.fadd f, .fsub f, .fmul f, .fmin f, .fmax f] →
    s.ctx? = some c → i.wf = true → popPlan c s (AluF.srcs f) (c.resultLanes f.g f.d) = .ok p →
    let m := c.w.upset &&& maskOf fun l => (c.eff f.g).getLsbD l && modeVerify (c.mode s l)
    m ≠ 0 → exec i s = .next (trapNow c (s.modWave c.wid fun w => { w with upset := 0 })
      { cause := 65, lanes := if f.d.isS then c.eff f.g else m, info := c.iw.word })) ∧
  ∀ (f : AluF) (s : State) (c : Ctx) (p : Pop) (k : Group), s.ctx? = some c → (Instr.fadd f).wf = true → c.helper = false →
    s.group? c.w.group = some k → c.agrees s (.fadd f) f.g → popPlan c s (AluF.srcs f) (c.resultLanes f.g f.d) = .ok p →
    let fl (l : Nat) : Sticky := (floatBits f.ty f.rnd (fun m vs => fAddPre m (fArg vs 0) (fArg vs 1)) c s l
      ((AluF.srcs f).map fun x => (c.read s p.word l x).val.toNat)).2
    ∀ n, n < 8 → (modeXen k.mode).getLsbD n = true → (∃ l ∈ c.resultLanes f.g f.d, (fl l).getLsbD n = true) →
      (∀ m, m < n → (modeXen k.mode).getLsbD m = true → ∀ l ∈ c.resultLanes f.g f.d, (fl l).getLsbD m = false) →
      ∃ t : TrapInfo, exec (.fadd f) s = .next (trapNow c s t) ∧ t.cause = BitVec.ofNat 8 (67 + n)

/-! ### Lanes -/

/-- R149, R150, R152: SHFL, RDLANE and QXCH give each lane of the result the value of the lane that the form names, or its
edge fill. -/
def Obligations.LaneMovesWrite : Prop :=
  (∀ (k : ShflForm) (f : ShflFields),
    computes (.shfl k f) f.g f.d f.ty.w64 [.op f.b false, .op f.c f.ty.w64] fun c l xs r =>
      let n := xs.getD 0 0 % 2 ^ 32
      let fill := xs.getD 1 0 % 2 ^ (if f.ty.w64 then 64 else 32)
      let src := c.laneVal f.a f.ty.w64 l
      match k with
      | .from => r = src (n % 32)
      | .back => r = if n > l then fill else src (l - n)
      | .ahead => r = if l + n > 31 then fill else src (l + n)
      | .mirror => r = src (l ^^^ (n % 32))
      | .rot => r = src ((l + n) % 32)) ∧
  (∀ (g : Guard) (ty : LaneTy) (d a b : Operand) (s : State) (c : Ctx), s.ctx? = some c → (Instr.rdlane g ty d a b).wf = true →
    Yields (.rdlane g ty d a b) s fun t => ∀ l ∈ c.resultLanes g d,
      (t.held c.wid d true l).val = laneScalar ty
        (c.laneVal a ty.w64 l ((c.read s (fun _ => 0) l (.op b false)).val.toNat % 32))) ∧
  ∀ (g : Guard) (k : QxchForm) (ty : LaneTy) (d a : Operand),
    computes (.qxch g k ty d a) g d ty.w64 [] fun c l _ r =>
      r = c.laneVal a ty.w64 l (4 * (l / 4) + match k with
        | .h => l % 4 ^^^ 1
        | .v => l % 4 ^^^ 2
        | .d => l % 4 ^^^ 3
        | .bc pos => pos.val)

/-- R148, R153: VOTE and PLOP write a predicate in the lanes of Eff, or VOTE a scalar if Eff is not empty; nothing else but the
clause's progress changes. -/
def Obligations.VotesAndPredicateLogicWrite : Prop :=
  (∀ (g : Guard) (form : VoteForm) (d : Operand) (pd p : Fin 8) (neg : Bool) (s : State) (c : Ctx), s.ctx? = some c →
    (Instr.vote g form d pd p neg).wf = true →
    let inEff (j : Nat) : Prop := (c.eff g).getLsbD j = true
    let one (j : Nat) : Prop := ((c.w.pAt p.val).getLsbD j != neg) = true
    let predicate (x : Nat → Prop) : Prop := Yields (.vote g form d pd p neg) s fun t =>
      ∃ ps, turns s t c (c.w.withPreds ps).advance ∧
        (∀ q, q ≠ pd.val → (c.w.withPreds ps).pAt q = c.w.pAt q) ∧
        ∀ l, l < 32 → (((c.w.withPreds ps).pAt pd.val).getLsbD l = true ↔
          if (c.eff g).getLsbD l then x l else (c.w.pAt pd.val).getLsbD l = true)
    let scalar (x : Nat → Prop) : Prop := Yields (.vote g form d pd p neg) s fun t =>
      (c.eff g = 0 → turns s t c c.w.advance) ∧
      (c.eff g ≠ 0 → ∃ ss, turns s t c (c.w.withScalars ss).advance ∧ x (t.held c.wid d true 0).val.toNat ∧
        ∀ n, (∀ k, d = .s k → n ≠ k.val) → (c.w.withScalars ss).sAt n = c.w.sAt n)
    match form with
    | .some => predicate fun l => ∃ j, inEff j ∧ c.sees l j = true ∧ one j
    | .every => predicate fun l => ∀ j, inEff j → c.sees l j = true → one j
    | .agree => predicate fun l => (∀ j, inEff j → c.sees l j = true → one j) ∨ ∀ j, inEff j → c.sees l j = true → ¬one j
    | .gather => scalar fun x => x < 2 ^ 32 ∧ ∀ j, j < 32 → (x.testBit j = true ↔ inEff j ∧ one j)
    | .count => scalar fun x =>
      x = ((List.range 32).filter fun j => (c.eff g).getLsbD j && ((c.w.pAt p.val).getLsbD j != neg)).length
    | .lead => scalar fun x =>
      (x = 32 ∧ ∀ j, inEff j → ¬one j) ∨ (inEff x ∧ one x ∧ ∀ j, j < x → inEff j → ¬one j)) ∧
  ∀ (g : Guard) (op : PlopOp) (pd pa pb : Fin 8) (s : State) (c : Ctx), s.ctx? = some c → (Instr.plop g op pd pa pb).wf = true →
    Yields (.plop g op pd pa pb) s fun t => ∃ ps, turns s t c (c.w.withPreds ps).advance ∧
      (∀ q, q ≠ pd.val → (c.w.withPreds ps).pAt q = c.w.pAt q) ∧
      ∀ l, l < 32 → ((c.w.withPreds ps).pAt pd.val).getLsbD l =
        if (c.eff g).getLsbD l then
          let a := (c.w.pAt pa.val).getLsbD l
          let b := (c.w.pAt pb.val).getLsbD l
          match op with
          | .and => a && b
          | .or => a || b
          | .xor => a != b
          | .andn => a && !b
          | .not => !a
          | .mov => a
        else (c.w.pAt pd.val).getLsbD l

/-- R151, R102 to R104: an integer REDUCE writes what the lanes of Eff combine to, an integer SCAN in each lane what the lanes
before it do, with itself unless exclusive; a float one writes the value of the blocks of R102 and R103. -/
def Obligations.ReductionsAndScansWrite : Prop :=
  (∀ (g : Guard) (op : RedOp) (ty : RedTy) (d a : Operand) (s : State) (c : Ctx), s.ctx? = some c →
    (Instr.reduce g op ty d a).wf = true →
    (c.eff g = 0 → Yields (.reduce g op ty d a) s fun t => turns s t c c.w.advance) ∧
    (∀ w sg, RedTy.int? ty = some (w, sg) → c.eff g ≠ 0 → Yields (.reduce g op ty d a) s fun t =>
      ∃ r, combined op w sg ((lanesOf (c.eff g)).map fun j => (c.get s j a (decide (w = 64))).val.toNat % 2 ^ w) r ∧ r < 2 ^ w ∧
        (t.held c.wid d true 0).val = if sg then BitVec.ofInt 64 (signed w r) else BitVec.ofNat 64 r) ∧
    (∀ b, RedTy.int? ty = none → (∀ l, l < 32 → modeXen (c.mode s l) = 0) →
      blockOf (c.combine s op ty (lowestLane (c.eff g))) (c.leaf s (c.eff g) a ty) 5 0 = some b →
      Yields (.reduce g op ty d a) s fun t => (t.held c.wid d true 0).val = BitVec.ofNat 64 (b.v % 2 ^ 32))) ∧
  ∀ (g : Guard) (op : RedOp) (excl : Bool) (ty : RedTy) (d a : Operand) (s : State) (c : Ctx), s.ctx? = some c →
    (Instr.scan g op excl ty d a).wf = true →
    (∀ w sg, RedTy.int? ty = some (w, sg) → Yields (.scan g op excl ty d a) s fun t => ∀ i ∈ lanesOf (c.eff g),
      combined op w sg (((lanesOf (c.eff g)).filter fun j => c.sees i j && (decide (j < i) || (!excl && decide (j = i)))).map
          fun j => (c.get s j a (decide (w = 64))).val.toNat % 2 ^ w)
        ((t.held c.wid d (decide (w = 64)) i).val.toNat % 2 ^ w)) ∧
    (RedTy.int? ty = none → (∀ l, l < 32 → modeXen (c.mode s l) = 0) →
      Yields (.scan g op excl ty d a) s fun t => ∀ i ∈ lanesOf (c.eff g),
        (t.held c.wid d false i).val.toNat % 2 ^ 32 = (match scanFrom (c.combine s op ty (lowestLane (c.eff g)))
            (c.leaf s (c.peers (c.eff g) i) a ty) i (if excl then i else i + 1) (List.range 6) 0 none with
          | some b => b.v
          | none => RedOp.identity op ty) % 2 ^ 32)

/-- R59: LDK writes the 63 bits of the pool word at its offset from the clause header, zero- or sign-extended; a word that
cannot be fetched, or is a header, traps. -/
def Obligations.LdkLoadsThePoolWord : Prop :=
  ∀ (f : LdkForm) (sign : Bool) (s : State) (c : Ctx), s.ctx? = some c → (Instr.ldk f).wf = true →
    let i := if sign then Instr.ldkS f else Instr.ldk f
    let addr := c.iw.hdr + BitVec.ofNat 48 (8 * (BitVec.signExtend 64 f.off).toNat)
    let fetched := codeWord s c.core c.w.asid addr
    (∀ w, fetched.2 = .ok w → isHeader w = false → Yields i s fun t => ∀ l ∈ c.resultLanes f.g f.d,
      (t.held c.wid f.d f.d.isS l).val.toNat =
        (if sign then (BitVec.signExtend 64 (BitVec.ofNat 63 w.toNat)).toNat else w.toNat % 2 ^ 63) %
          2 ^ (if f.d.isS then 64 else 32)) ∧
    (∀ w, fetched.2 = .ok w → isHeader w = true →
      exec i s = .next (trapNow c fetched.1 { cause := 5, addr := BitVec.ofNat 64 addr.toNat })) ∧
    ∀ b, fetched.2 = .error b →
      exec i s = .next (trapNow c fetched.1 { cause := b.1, addr := BitVec.ofNat 64 addr.toNat, lanes := c.mask, info := b.2 })

/-- R118: GIVE moves 8·n registers of the wave to the group pool of its quarter and traps where fewer than 8 would stay;
CLAIM takes them back with every element 0 and sets its predicate, or clears it where the pool or the limit of 192 does not
allow that. -/
def Obligations.GiveAndClaimMoveRegisters : Prop :=
  (∀ (g : Guard) (n : BitVec 8) (s : State) (c : Ctx), s.ctx? = some c → (Instr.give g n).wf = true → c.whole = true →
    openDrain s c.w.group c.wid (c.w.allot - 8 * n.toNat) = false →
    (c.guardHolds g = false → Yields (.give g n) s fun t => turns s t c c.w.advance) ∧
    (c.guardHolds g = true → c.w.allot < 8 * n.toNat + 8 →
      exec (.give g n) s = .next (trapNow c s { cause := 10, info := BitVec.ofNat 64 n.toNat })) ∧
    (c.guardHolds g = true → 8 * n.toNat + 8 ≤ c.w.allot → (c.w.loads.any (writesAbove (c.w.allot - 8 * n.toNat))) = false →
      closedDrain s c.w.group c.wid (c.w.allot - 8 * n.toNat) = false →
      Yields (.give g n) s fun t => turnsBoth s t c
        (({ c.w.abortTx 4 0 (c.eff g) with allot := c.w.allot - 8 * n.toNat } : Wave).advance)
        fun x => { x with pools := NMap.set x.pools c.poolKey (NMap.getD x.pools c.poolKey 0 + n.toNat) })) ∧
  ∀ (g : Guard) (pd : Fin 8) (n : BitVec 8) (s : State) (c : Ctx) (k : Group), s.ctx? = some c → (Instr.claim g pd n).wf = true →
    s.group? c.w.group = some k → c.whole = true → c.guardHolds g = true →
    let ok := n.toNat ≤ NMap.getD k.pools c.poolKey 0 ∧ c.w.allot + 8 * n.toNat ≤ 192
    Yields (.claim g pd n) s fun t => ∃ vs ps,
      turnsBoth s t c
        (({ c.w.abortTx 4 0 (c.eff g) with
            v := vs, p := ps, allot := if ok then c.w.allot + 8 * n.toNat else c.w.allot } : Wave).advance)
        (fun x => if ok then { x with pools := NMap.set x.pools c.poolKey (NMap.getD x.pools c.poolKey 0 - n.toNat) } else x) ∧
      (∀ r l, l < 32 → (t.waveD c.wid).vAt r l =
        if ok ∧ c.w.allot ≤ r ∧ r < c.w.allot + 8 * n.toNat then { val := 0, code := 0 } else c.w.vAt r l) ∧
      ∀ q l, ((t.waveD c.wid).pAt q).getLsbD l =
        if q = pd.val ∧ c.mask.getLsbD l = true then decide ok else (c.w.pAt q).getLsbD l

/-! ### Control flow -/

/-- R159: BRA is always taken, BANY where some lane of the split has its bit, BALL where every lane has, BNONE where none has. -/
def Obligations.BranchesMoveTheSplit : Prop :=
  ∀ (s : State) (c : Ctx), s.ctx? = some c →
    let lane (l : Nat) : Prop := c.iss.mask.getLsbD l = true
    let one (g : Guard) (l : Nat) : Prop := ((c.w.pAt g.pred.val).getLsbD l != g.neg) = true
    ∀ off : BitVec 20, branches (.bra off) s c off True ∧
      ∀ g : Guard,
        branches (.bany g off) s c off (∃ l, lane l ∧ one g l) ∧
        branches (.ball g off) s c off (∀ l, lane l → one g l) ∧
        branches (.bnone g off) s c off (∀ l, lane l → ¬one g l)

/-- R160, R156, R123: BDIV checks both addresses, then moves a split whose lanes agree, or parts it into those that branch and those
that go on; unless every lane already stands inside a record of this confluence at its own depth it opens one for them, and
traps where 64 are open; both parts of a split then stand Ready at their addresses, in the table or parked. -/
def Obligations.DivergentBranchOpensARecord : Prop :=
  (∀ (g : Guard) (off conf : BitVec 20) (s : State) (c : Ctx), s.ctx? = some c →
    let i := Instr.bdiv g off conf
    let next := c.iss.next
    let r := checkTarget s c.core c.w.asid (c.target off) c.iss.mask
    let q := checkConf r.1 c.core c.w.asid (c.target conf)
    let yes := maskOf fun l => c.iss.mask.getLsbD l && ((c.w.pAt g.pred.val).getLsbD l != g.neg)
    let no := c.iss.mask &&& ~~~yes
    let inside := ∀ l, c.iss.mask.getLsbD l = true → ∃ x, c.w.innermost l = some x ∧ x.2.cpc = c.target conf ∧
      NMap.getD x.2.ldepth l 0 = c.w.depth l
    (∀ x, r.2 = some x → exec i s = .next (trapNow c r.1 x)) ∧
    (r.2 = none → ∀ x, q.2 = some x → exec i s = .next (trapNow c q.1 x)) ∧
    (r.2 = none → q.2 = none →
      (no = 0 → Yields i s fun t => ∃ x, spins q.1 t c ((c.w.movedTo c.iss.split (c.target off) yes).withSpin x).advance) ∧
      (no ≠ 0 → yes = 0 → Yields i s fun t => ∃ x, spins q.1 t c (c.w.withSpin x).advance) ∧
      (no ≠ 0 → yes ≠ 0 → inside → Yields i s fun t => ∃ x, spins q.1 t c
        ((c.w.scatter c.iss.split c.helper [(c.target off, yes), (next, no)]).withSpin x).advance) ∧
      (no ≠ 0 → yes ≠ 0 → ¬inside → c.w.recs.length < 64 → Yields i s fun t => ∃ x, spins q.1 t c
        ((({ c.w with
              nextSeq := c.w.nextSeq + 1
              recs := recache (NMap.set c.w.recs c.w.nextSeq
                { cpc := c.target conf, member := c.iss.mask, arrived := 0, helper := c.helper,
                  ldepth := (lanesOf c.iss.mask).map fun l => (l, c.w.depth l) }) } : Wave).scatter c.iss.split c.helper
            [(c.target off, yes), (next, no)]).withSpin x).advance) ∧
      (no ≠ 0 → yes ≠ 0 → ¬inside → 64 ≤ c.w.recs.length → exec i s = .next (trapNow c q.1 { cause := 130 })))) ∧
  (∀ (w : Wave) (e : Nat) (helper : Bool) (sp : Split) (p q : VAddr) (yes no : LaneMask), NMap.get? w.splits e = some sp →
    let w' := w.scatter e helper [(p, yes), (q, no)]
    let stands (x : Split) : Prop := (∃ k, NMap.get? w'.splits k = some x) ∨ x ∈ w'.parkedSplits
    stands { sp with pc := p, mask := yes, state := .ready } ∧ stands { pc := q, mask := no, state := .ready, helper := helper })

/-- R158, R156: a CONF at which no lane of the split finds a record lets the split pass. Where one record is open, and it is every
lane's, the split passes once all its members have arrived, those that waited becoming Ready and the record gone; until then
its lanes wait in a Confluent split and its clause ends. In every case the wave goes on, with no register written; the records
are as the lanes' arrivals in ascending order leave them (log entry 25). -/
def Obligations.ConfluenceGathersLanes : Prop :=
  (∀ (s : State) (c : Ctx) (q : Nat) (x : DivRecord), s.ctx? = some c → c.w.recs = [(q, x)] → x.cpc = c.iw.hdr →
    c.iss.mask ≠ 0 → (∀ l, c.iss.mask.getLsbD l = true → x.member.getLsbD l = true ∧ x.arrived.getLsbD l = false ∧
      NMap.getD x.ldepth l 0 = c.w.depth l) →
    let all : Prop := ∀ l, x.member.getLsbD l = true → x.arrived.getLsbD l = true ∨ c.iss.mask.getLsbD l = true
    let ready (sp : Split) : Split := if sp.state = .confluent q then { sp with state := .ready } else sp
    (all → Yields .conf s fun t => turns s t c ({ c.w with
      recs := [], splits := NMap.mapVal c.w.splits fun _ sp => ready sp, parkedSplits := c.w.parkedSplits.map ready } : Wave).advance) ∧
    (¬all → Yields .conf s fun t => ∃ w', turns s t c w' ∧ w'.v = c.w.v ∧ w'.s = c.w.s ∧ w'.p = c.w.p ∧
      w'.recs = [(q, { x with arrived := x.arrived ||| c.iss.mask })] ∧
      w'.issue = some { c.iss.advance with mask := 0, idx := c.iss.words.length } ∧
      ∃ sp, ((∃ k, NMap.get? w'.splits k = some sp) ∨ sp ∈ w'.parkedSplits) ∧ sp.state = .confluent q ∧
        ∀ l, c.iss.mask.getLsbD l = true → sp.mask.getLsbD l = true)) ∧
  ∀ (s : State) (c : Ctx), s.ctx? = some c →
    let r := confLanes c.iw.hdr 4096 c.w (lanesOf c.iss.mask) []
    let gone := maskOf fun l => r.2.any fun x => x.1 = l
    ((∀ l, c.iss.mask.getLsbD l = true → ∀ x ∈ c.w.recs, x.2.member.getLsbD l = true → x.2.arrived.getLsbD l = false →
        x.2.cpc = c.iw.hdr → NMap.getD x.2.ldepth l 0 ≠ c.w.depth l) → Yields .conf s fun t => turns s t c c.w.advance) ∧
    Yields .conf s fun t => ∃ w', turns s t c w' ∧ w'.v = c.w.v ∧ w'.s = c.w.s ∧ w'.p = c.w.p ∧ w'.recs = r.1.recs ∧
      (r.2 ≠ [] → w'.issue = some { c.iss.advance with
        mask := c.iss.mask &&& ~~~gone
        idx := if c.iss.mask &&& ~~~gone = 0 then c.iss.words.length else c.iss.advance.idx })

/-- R161, R157: CALL pushes the next clause's address on every lane's stack and traps where one is full; RET pops them, departs
the records made deeper, and sends each group of lanes to its address. -/
def Obligations.CallsAndReturnsUseTheStacks : Prop :=
  ∀ (s : State) (c : Ctx), s.ctx? = some c →
    let lane (l : Nat) : Bool := c.iss.mask.getLsbD l
    (∀ off : BitVec 20,
      let full := maskOf fun l => lane l && 32 ≤ c.w.depth l
      let r := checkTarget s c.core c.w.asid (c.target off) c.iss.mask
      (full ≠ 0 → exec (.call off) s = .next (trapNow c s { cause := 11, lanes := full })) ∧
      (full = 0 → ∀ x, r.2 = some x → exec (.call off) s = .next (trapNow c r.1 x)) ∧
      (full = 0 → r.2 = none → Yields (.call off) s fun t => ∃ rs,
        turns r.1 t c (({ c.w with rets := rs } : Wave).movedTo c.iss.split (c.target off) c.iss.mask).advance ∧
        ∀ l, NMap.getD rs l [] = if lane l then c.iss.next :: NMap.getD c.w.rets l [] else NMap.getD c.w.rets l [])) ∧
    let empty := maskOf fun l => lane l && c.w.depth l = 0
    let top (l : Nat) : VAddr := (NMap.getD c.w.rets l []).headD 0
    let ds := groupLanes top (lanesOf c.iss.mask)
    let r := checkTargets s c.core c.w.asid ds
    (empty ≠ 0 → exec .ret s = .next (trapNow c s { cause := 11, lanes := empty })) ∧
    (empty = 0 → ∀ x, r.2 = some x → exec .ret s = .next (trapNow c r.1 x)) ∧
    (empty = 0 → r.2 = none → Yields .ret s fun t =>
      turns r.1 t c (((c.w.pop c.iss.mask).scatter c.iss.split c.helper ds).advance)) ∧
    (∀ d ∈ ds, ∀ l, d.2.getLsbD l = true ↔ (lane l = true ∧ top l = d.1)) ∧
    (∀ l, lane l = true → ∃ d ∈ ds, d.2.getLsbD l = true) ∧
    ∀ l, NMap.getD (c.w.pop c.iss.mask).rets l [] = if lane l then (NMap.getD c.w.rets l []).tail else NMap.getD c.w.rets l []

/-- R162, R58: JTB reads a legal table header, sends each lane to the address that the entry of its index names, or to the
default beyond the table, checks every target, and parts the split by them; a failed fetch, a header that is none, an illegal
entry or a bad target traps before any lane moves. -/
def Obligations.TableBranchSelectsByIndex : Prop :=
  ∀ (a : Operand) (table dflt : BitVec 20) (s : State) (c : Ctx), s.ctx? = some c →
    let i := Instr.jtb a table dflt
    let hdr := c.target table
    let f := codeWord s c.core c.w.asid hdr
    let idx := groupLanes (fun l => BitVec.ofNat 48 ((c.get s l a false).val.toNat % 2 ^ 32)) (lanesOf c.iss.mask)
    (∀ b, f.2 = .error b →
      exec i s = .next (trapNow c f.1 { cause := b.1, addr := BitVec.ofNat 64 hdr.toNat, lanes := c.iss.mask, info := b.2 })) ∧
    (∀ h, f.2 = .ok h → tableLength h = none → exec i s = .next (trapNow c f.1 { cause := 5, addr := BitVec.ofNat 64 hdr.toNat })) ∧
    ∀ h len, f.2 = .ok h → tableLength h = some len →
      let r := tableTargets f.1 c hdr (c.target dflt) len (idx.map fun g => (g.1.toNat, g.2))
      (∀ x, r.2 = .error x → exec i s = .next (trapNow c r.1 x)) ∧
      ∀ ds, r.2 = .ok ds →
        let q := checkTargets r.1 c.core c.w.asid (mergeTargets ds)
        (∀ x, q.2 = some x → exec i s = .next (trapNow c q.1 x)) ∧
        (q.2 = none → Yields i s fun t => ∃ x, spins q.1 t c
          ((c.w.scatter c.iss.split c.helper (mergeTargets ds)).withSpin x).advance) ∧
        ∃ goes : Nat → VAddr,
          (∀ d ∈ mergeTargets ds, ∀ l, d.2.getLsbD l = true ↔ (c.iss.mask.getLsbD l = true ∧ goes l = d.1)) ∧
          ∀ l, c.iss.mask.getLsbD l = true → (∃ d ∈ mergeTargets ds, d.1 = goes l) ∧
            let n := (c.get s l a false).val.toNat % 2 ^ 32
            if len ≤ n then goes l = c.target dflt
            else ∃ (u : State) (w : Word64),
              (codeWord u c.core c.w.asid (hdr + BitVec.ofNat 48 (8 * (1 + n)))).2 = .ok w ∧ w.toNat / 2 ^ 20 = 0 ∧
              goes l = hdr + BitVec.ofNat 48 (8 * (BitVec.signExtend 48 (BitVec.ofNat 20 w.toNat)).toNat)

/-- R164, R165, R167: REP repeats the next word, skips it for a count of 0, and traps on a count above 4,095 or a register that
leaves its range in some iteration; NOP, YIELD and NAP go on, YIELD and NAP once their mark is made. -/
def Obligations.RepAndPausesGoOn : Prop :=
  ∀ (s : State) (c : Ctx), s.ctx? = some c →
    (∀ (f : RepForm) (x : IssueWord) (j : Instr), c.iss.words[c.iss.idx + 1]? = some x → decodeWave x.word = some j →
      let n := match f.count with
        | none => f.icount.toNat
        | some a => (c.w.sAt a.val).val.toNat % 2 ^ 32
      (4095 < n → exec (.rep f) s = .next (trapNow c s { cause := 12, info := BitVec.ofNat 64 n })) ∧
      (n ≤ 4095 → ∀ k fld, repRange f j x.word c.w.allot n = some (k, fld) →
        exec (.rep f) s = .next (trapNow c s { cause := 6, info := BitVec.ofNat 64 (k + fld * 2 ^ 12) })) ∧
      (n ≤ 4095 → repRange f j x.word c.w.allot n = none → Yields (.rep f) s fun t => turns s t c { c.w with
        issue := some (if n = 0 then { c.iss with idx := c.iss.idx + 2, began := false }
          else { c.iss with idx := c.iss.idx + 1, rep := some (0, n, f), began := false }) })) ∧
    (Yields .nop s fun t => turns s t c c.w.advance) ∧
    (Yields .yield s fun t => turns s t c { c.w.advance with yielded := true }) ∧
    ∀ n : Word32, Yields (.nap n) s fun t => turns s t c
      { c.w with issue := some { c.iss.advance with nap := max c.iss.nap n.toNat } }

/-- R167, R298: EXIT with no lane in Eff goes on; it traps on a turnout still held and on a drain of the open batch, waits as
EFENCE does, and then its lanes are exited; with no live lane left a placed wave ends. -/
def Obligations.ExitEndsLanes : Prop :=
  ∀ (g : Guard) (s : State) (c : Ctx), s.ctx? = some c →
    let eff := c.eff g
    let m := if c.w.frame.inh then c.w.live else eff
    let held := openTurnouts s c.wid m
    (eff = 0 → Yields (.exit g) s fun t => turns s t c c.w.advance) ∧
    (eff ≠ 0 → held ≠ 0 → exec (.exit g) s = .next (trapNow c s { cause := 133, lanes := held })) ∧
    (eff ≠ 0 → held = 0 → openDrain s c.w.group c.wid 0 = true →
      exec (.exit g) s = .next (trapNow c s { cause := 139, info := c.iw.word })) ∧
    (eff ≠ 0 → held = 0 → openDrain s c.w.group c.wid 0 = false →
      (efenceDone s c = false → exec (.exit g) s = .next (s.stall c)) ∧
      (efenceDone s c = true → ∀ x xs, c.w.faults = x :: xs → c.w.frame.inh = false → exec (.exit g) s =
        .next (lateTrap s c.wid c.core c.slot c.iss.split c.iss.next x (c.iss.restEntries false))) ∧
      (efenceDone s c = true → (c.w.faults = [] ∨ c.w.frame.inh = true) →
        (c.w.live &&& ~~~m = 0 → c.w.helperWave = false →
          Yields (.exit g) s fun t => ∃ w', t.wave? c.wid = some w' ∧ w'.place = .ended) ∧
        (c.w.live &&& ~~~m ≠ 0 → (∀ x ∈ c.w.splits.map (·.2) ++ c.w.parkedSplits, x.hold ≠ some .bar ∧ x.hold ≠ some .gbar) →
          Yields (.exit g) s fun t => ∃ w', t.wave? c.wid = some w' ∧ w'.exited = c.w.exited ||| m ∧ w'.v = c.w.v ∧ w'.s = c.w.s)))

/-- R169 to R172, R25, R28: BAR and GBAR fence the wave's accesses and hold its split; CBAR waits in place for the wave's earlier
accesses, then takes a ticket and arrives; CBAR.arm sets the target; CBWT holds its split while the phase of its ticket
stands; each traps as its rules say. A phase completes when every counted wave of its groups has arrived with its accesses
performed, and then, and only then, the lanes that wait there become Ready. -/
def Obligations.BarriersHoldAndArrive : Prop :=
  (∀ (s : State) (c : Ctx), s.ctx? = some c →
    let u := drainWave s c.wid
    let hold (t : State) (why : HoldWhy) : State := (t.modWave c.wid fun w =>
      { w with splits := NMap.modify w.splits c.iss.split fun sp => { sp with pc := c.iss.next, state := .held why } }).advance c.wid
    let bars (i : Instr) (why : HoldWhy) (scope : Scope) : Prop :=
      (c.w.frame.inh = true → exec i s = .next (trapNow c s { cause := 146, info := c.iw.word })) ∧
      (c.w.frame.inh = false → c.w.rejoined = true → exec i s = .next (trapNow c s { cause := 131, lanes := c.iss.mask })) ∧
      (c.w.frame.inh = false → c.w.rejoined = false → (c.w.holdSplit c.iss why).mixedBars = true →
        exec i s = .next (trapNow c s { cause := 131, lanes := c.iss.mask })) ∧
      (c.w.frame.inh = false → c.w.rejoined = false → (c.w.holdSplit c.iss why).mixedBars = false →
        exec i s = .next (checkBars (hold (fenceNow s c.wid (.fence noGuard .acqRel scope) c.w.live) why) c.w.group))
    bars .bar .bar .group ∧ bars .gbar .gbar .cluster ∧
    ∀ (g : Guard) (cb : Fin 16),
      let b := s.bar c.core cb.val
      (∀ n : Count,
        let k := match n with
          | .reg a => (c.w.sAt a.val).val.toNat
          | .imm x => x.toNat
        (c.guardHolds g = false → (Yields (.cbar g n cb) s fun t => turns s t c c.w.advance) ∧
          Yields (.cbarArm g n cb) s fun t => turns s t c c.w.advance) ∧
        (c.guardHolds g = true → b.owner ≠ some c.w.group →
          exec (.cbar g n cb) s = .next (trapNow c s { cause := 128, info := BitVec.ofNat 64 cb.val }) ∧
          exec (.cbarArm g n cb) s = .next (trapNow c s { cause := 128, info := BitVec.ofNat 64 cb.val })) ∧
        (c.guardHolds g = true → b.owner = some c.w.group →
          (k = 0 ∨ 65535 < k → exec (.cbar g n cb) s = .next (trapNow c s { cause := 13, info := BitVec.ofNat 64 k })) ∧
          (1 ≤ k → k ≤ 65535 → b.target = 0 →
            exec (.cbar g n cb) s = .next (trapNow c s { cause := 129, info := BitVec.ofNat 64 cb.val })) ∧
          (1 ≤ k → k ≤ 65535 → b.target ≠ 0 → u.owes c.wid allLanes = true → exec (.cbar g n cb) s = .next (u.stall c)) ∧
          (1 ≤ k → k ≤ 65535 → b.target ≠ 0 → u.owes c.wid allLanes = false → Yields (.cbar g n cb) s fun t =>
            t.wave? c.wid = (u.wave? c.wid).map (fun w =>
              ({ w with tickets := NMap.set w.tickets cb.val b.gen } : Wave).advance) ∧
            t.bar c.core cb.val = { u.bar c.core cb.val with
              count := BitVec.ofNat 16 (((u.bar c.core cb.val).count.toNat + k) % (u.bar c.core cb.val).target.toNat)
              gen := (u.bar c.core cb.val).gen +
                BitVec.ofNat 32 (((u.bar c.core cb.val).count.toNat + k) / (u.bar c.core cb.val).target.toNat) }) ∧
          (65535 < k → exec (.cbarArm g n cb) s = .next (trapNow c s { cause := 13, info := BitVec.ofNat 64 k })) ∧
          (k ≤ 65535 → Yields (.cbarArm g n cb) s fun t => (t.bar c.core cb.val).target = BitVec.ofNat 16 k ∧
            t.mem = s.mem ∧ t.wave? c.wid = some c.w.advance))) ∧
      (c.guardHolds g = false → Yields (.cbwt g cb) s fun t => turns s t c c.w.advance) ∧
      (c.guardHolds g = true → c.w.frame.inh = true → exec (.cbwt g cb) s = .next (trapNow c s { cause := 146, info := c.iw.word })) ∧
      (c.guardHolds g = true → c.w.frame.inh = false → b.owner ≠ some c.w.group →
        exec (.cbwt g cb) s = .next (trapNow c s { cause := 128, info := BitVec.ofNat 64 cb.val })) ∧
      (c.guardHolds g = true → c.w.frame.inh = false → b.owner = some c.w.group →
        let seen := (NMap.get? c.w.tickets cb.val).getD b.gen
        let w' : Wave := { c.w with tickets := NMap.erase c.w.tickets cb.val }
        Yields (.cbwt g cb) s fun t => turns s t c (if b.gen = seen
          then ({ w' with splits := NMap.modify w'.splits c.iss.split fun sp =>
            { sp with pc := c.iss.next, state := .held (.cbwt cb.val seen) } } : Wave).advance
          else w'.advance))) ∧
  (∀ (s : State) (gs : List Nat) (h : HoldWhy),
    let ws := s.waves.filter fun x => gs.contains x.2.group && x.2.counted
    let ready (sp : Split) : Split := if sp.state = .held h then { sp with state := .ready } else sp
    (ws ≠ [] → (∀ x ∈ ws, x.2.arrivedAt h = true ∧ x.2.quiet x.2.live = true) → ∀ k w, s.wave? k = some w → (checkPhase s gs h).wave? k =
      some (if k ∈ ws.map (·.1) then
        { w with splits := NMap.mapVal w.splits fun _ sp => ready sp, parkedSplits := w.parkedSplits.map ready } else w)) ∧
    (ws = [] ∨ (∃ x ∈ ws, x.2.arrivedAt h = false ∨ x.2.quiet x.2.live = false) → checkPhase s gs h = s))

/-! ### Loads, stores and atomics -/

/-- R182, R51, R52: LD, ST, LDS, STS, ATOM, RED and the futures instructions make their checks in order and join the wave's
outstanding accesses, with the addresses of R179 and the data of that moment; no byte of memory changes at issue. -/
def Obligations.AccessesIssueAfterTheirChecks : Prop :=
  (∀ (h : Hint) (f : LoadForm), (loadAccess (.ld h f) f).issues ∧ (loadAccess (.lds f) f).issues) ∧
  (∀ (h : Hint) (f : StoreForm), (StoreForm.access f (.st h f)).issues ∧ (StoreForm.access f (.sts f)).issues) ∧
  (∀ f : AtomForm, (AtomForm.access f (.atom f)).issues ∧ (AtomForm.access f (.red f)).issues) ∧
  ∀ f : FutForm, (FutForm.access f (.fwait f)).issues ∧ (FutForm.access f (.fpeek f)).issues ∧
    (FutForm.access f (.freset f)).issues ∧ (fillAccess f).issues

/-- R192, R195: TXB, once no acquire of its lanes is unperformed (log entry 69), opens a transaction in each idle lane of Eff and
dooms one that is open; TXA dooms open ones with its code; TXE takes its lanes' transactions with it, leaving them idle: 9 is
the word of an idle lane, its code that of a doomed one, and an open one commits when what came before is performed: 0, 1 or,
where its sets meet those of a lower open lane, 3. A commit puts the held bytes into device memory. -/
def Obligations.TransactionsBeginAndEnd : Prop :=
  (∀ (g : Guard) (s : State) (c : Ctx), s.ctx? = some c →
    let u := drainWave s c.wid
    let w0 := (u.wave? c.wid).getD c.w
    (∀ w, u.wave? c.wid = some w → w.acquiring (c.eff g) = true → exec (.txb g) s = .next (u.stall c)) ∧
    (w0.acquiring (c.eff g) = false → Yields (.txb g) s fun t => ∃ tx, t = { u with waves := t.waves } ∧
      t.wave? c.wid = (u.wave? c.wid).map (fun w => ({ w with tx := tx } : Wave).advance) ∧
      (∀ k, k ≠ c.wid → t.wave? k = u.wave? k) ∧
      ∀ l, NMap.get? tx l = if (c.eff g).getLsbD l then
          (match NMap.get? w0.tx l with
            | none => some { st := .open_ }
            | some x => some { x with st := .doomed 5 0 })
        else NMap.get? w0.tx l) ∧
    ∀ code : BitVec 8, Yields (.txa g code) s fun t => ∃ tx, turns s t c ({ c.w with tx := tx } : Wave).advance ∧
      ∀ l, NMap.get? tx l = (NMap.get? c.w.tx l).map fun x =>
        if (c.eff g).getLsbD l = true ∧ x.st = .open_ then { x with st := .doomed 6 code.toNat } else x) ∧
  (∀ (g : Guard) (d : Fin 192) (s : State) (c : Ctx), s.ctx? = some c →
    let i := Instr.txe g d
    let isOpen (l : Nat) : Prop := ∃ x, NMap.get? c.w.tx l = some x ∧ x.st = .open_
    let enters (o : MemOp) : Prop := o.instr = i ∧ o.id = c.w.nextOp ∧ o.mask = c.eff g ∧
      (∀ l, o.done.getLsbD l = true ↔ ((c.eff g).getLsbD l = true ∧ ¬isOpen l)) ∧
      (∀ l, (c.eff g).getLsbD l = true → NMap.get? o.tx l = NMap.get? c.w.tx l) ∧
      ∀ l, (c.eff g).getLsbD l = true → ¬isOpen l → match NMap.get? c.w.tx l with
        | none => o.datum l = 9
        | some x => match x.st with
          | .doomed code user => o.datum l = BitVec.ofNat 128 (code + if code = 6 then user * 2 ^ 8 else 0)
          | .open_ => True
    let taken (w : Wave) (o : MemOp) : Wave := { w with
      loads := w.loads ++ [o], nextOp := w.nextOp + 1, tx := w.tx.filter fun x => !(c.eff g).getLsbD x.1 }
    (c.eff g = 0 → Yields i s fun t => turns s t c c.w.advance) ∧
    (c.eff g ≠ 0 → c.w.noRoom i = true → exec i s = .next (awaitRoom c s)) ∧
    (c.eff g ≠ 0 → c.w.noRoom i = false → (∀ l, (c.eff g).getLsbD l = true → ¬isOpen l) →
      Yields i s fun t => ∃ o, enters o ∧ turns s t c (taken c.w o).advance) ∧
    (c.eff g ≠ 0 → c.w.noRoom i = false → (∃ l, (c.eff g).getLsbD l = true ∧ isOpen l) → ∃ o, enters o ∧
      exec i s = .next ((performNow (drainWave (s.modWave c.wid fun w => taken w o) c.wid) c.wid o.id).advance c.wid))) ∧
  (∀ (s : State) (wid : Nat) (w : Wave) (o : MemOp) (m : LaneMask), s.wave? wid = some w →
    w.loads.find? (fun x => x.id = o.id) = some o → ∃ w' o', (performTxe s wid o m).wave? wid = some w' ∧
      w'.loads.find? (fun x => x.id = o.id) = some o' ∧ o'.done = o.done ||| m ∧
      ∀ l, m.getLsbD l = true → match NMap.get? o.tx l with
        | none => o'.datum l = 9
        | some x => match x.st with
          | .doomed code user => o'.datum l = BitVec.ofNat 128 (code + if code = 6 then user * 2 ^ 8 else 0)
          | .open_ =>
            if o.tx.any fun y => y.1 < l && decide (y.2.st = .open_) && x.clash y.2 then o'.datum l = 3
            else o'.datum l = 0 ∨ o'.datum l = 1) ∧
  ∀ (s : State) (core : Nat) (x : Tx) (b : Nat), b ∈ x.wbytes → b < 2 ^ 66 →
    Memory.read (publish s core x).mem b = Memory.read x.writes b

/-- R185, R213, R181: what a store writes is what the same core then reads at that place, in scratchpad or through its L1; at
DEVICE scope or wider, and where the L1 has no bank left to keep it, it is then at the home slice too. No other byte of
scratchpad changes; a store that the L1 has room for changes, at a narrower scope, no byte at a home slice and no other line
of an L1, and every store changes at a home slice no byte but its own and those an L1 of the cluster held dirty. -/
def Obligations.StoresWriteTheirBytes : Prop :=
  (∀ (s : State) (core asid gang gr off l : Nat) (o : MemOp), Instr.scratch o.instr = true →
    scratchTarget s gang (o.at_ l) = some (gr, off) → (s.group? gr).isSome = true →
    let r := writeLane s core asid gang o l
    r.2 = .ok true ∧ r.1.mem = s.mem ∧ (∀ k, k ≠ gr → r.1.group? k = s.group? k) ∧
      Memory.readBytes (r.1.group gr).scratch off (Instr.bytes o.instr) = o.bytesOf l ∧
      ∀ a, ¬(off ≤ a ∧ a < off + Instr.bytes o.instr) → Memory.read (r.1.group gr).scratch a = Memory.read (s.group gr).scratch a) ∧
  ∀ (s : State) (core pa : Nat) (bs : List Byte) (sc : Scope), pa % 64 + bs.length ≤ 64 →
    let t := cachedWrite s core pa bs sc
    let room : Prop := (dropLine (s.l1 core) (lineNo pa)).length < l1Room s core
    (Scope.wide sc = false → room → (cachedRead t core pa bs.length).1 = bs ∧ t.mem = s.mem ∧
      ∀ d ln, ln ≠ lineNo pa → findLine (t.l1 d) ln = findLine (s.l1 d) ln) ∧
    (Scope.wide sc = true → room → (∀ d ∈ clusterCores (clusterOf core), findLine (s.l1 d) (lineNo pa) = none) →
      (cachedRead t core pa bs.length).1 = bs ∧ Memory.readBytes t.mem pa bs.length = bs) ∧
    (l1Room s core = 0 → (cachedRead t core pa bs.length).1 = bs ∧ Memory.readBytes t.mem pa bs.length = bs) ∧
    ∀ a, (pa ≤ a ∧ a < pa + bs.length) ∨ Memory.read t.mem a = Memory.read s.mem a ∨
      ∃ d ∈ clusterCores (clusterOf core), ∃ x ∈ s.l1 d, ∃ o, a = 64 * x.line + o ∧ x.dirty.getLsbD o = true ∧
        (o, Memory.read t.mem a) ∈ x.data

/-- R185, R51: the data of an LD or LDS that returns for some lanes fills one, two or four registers of each of them, or one
scalar, extended as WIDTH says, and nothing else; in a lane whose destination has been written since, it is open whether the
data or that write remains. Those lanes are then outstanding no more, and every other access is as it was. LOAD_DATA_RETURN
returns the performed lanes it names. -/
def Obligations.LoadsDeliverTheirData : Prop :=
  (∀ (w : Wave) (o : MemOp) (m : LaneMask) (n : Nat) (f : LoadForm), (o.instr = .lds f ∨ ∃ h, o.instr = .ld h f) →
    let k := if f.width = .b128 then 4 else if f.width = .b64 then 2 else 1
    let x (l : Nat) : Nat :=
      match f.width with
      | .s8 => (BitVec.signExtend 64 (BitVec.ofNat 8 (o.datum l).toNat)).toNat
      | .s16 => (BitVec.signExtend 64 (BitVec.ofNat 16 (o.datum l).toNat)).toNat
      | .b128 => (o.datum l).toNat
      | .z8 | .z16 | .b32 | .b64 => (o.datum l).toNat % 2 ^ 64
    let lands (l : Nat) : Prop := m.getLsbD l = true ∧ ¬(o.clobber.getLsbD l = true ∧ Config.choose (n + l) = true)
    let w' := w.returnLoad o m n
    (∀ d, f.d = .v d → ∀ r l, l < 32 → (lands l → d.val ≤ r → r < d.val + k →
        w'.vAt r l = VElem.of (BitVec.ofNat 32 (x l / 2 ^ (32 * (r - d.val))))) ∧
      (¬(lands l ∧ d.val ≤ r ∧ r < d.val + k) → w'.vAt r l = w.vAt r l)) ∧
    (∀ d, f.d = .s d → ∀ l, l < 32 → m = laneBit l → lands l → ∀ j, w'.sAt j =
      if j = d.val then Scalar.of (BitVec.ofNat 64 (x l)) else w.sAt j) ∧
    w'.p = w.p ∧ (∀ y ∈ w'.loads, y.id = o.id → y.mask &&& m = 0) ∧
    ∀ y ∈ w.loads, y.id ≠ o.id → y.mask ≠ 0 → y ∈ w'.loads) ∧
  ∀ (s : State) (wave op : Nat) (lanes : LaneMask) (ext : List (Nat × BitVec 128)) (w : Wave) (o : MemOp), s.wave? wave = some w →
    w.loads.find? (fun o => o.id = op) = some o → o.remote = false → o.undone = 0 → w.asyncs.filter MemOp.isFence = [] →
    let r := w.returnLoad o (if o.scal then o.done else o.done &&& lanes) s.free
    Yields (.loadDataReturn wave op ⟨lanes, ext⟩) s fun t => t.mem = s.mem ∧ t.hostMem = s.hostMem ∧ t.cores = s.cores ∧
      (∃ w', t.wave? wave = some w' ∧ w'.v = r.v ∧ w'.s = r.s ∧ w'.p = r.p ∧ w'.loads = r.loads ∧ w'.stores = r.stores) ∧
      ∀ k y, k ≠ wave → s.wave? k = some y → ∃ y', t.wave? k = some y' ∧ y'.v = y.v ∧ y'.s = y.s ∧ y'.p = y.p ∧ y'.loads = y.loads

/-- R190: a request at its home slice reads the word after any copy dirty in a cluster was written back, delivers the old value
and leaves the new one that the operation gives, as one in host memory does there; of several lanes at one address each sees what the lane before it left. -/
def Obligations.AtomicsActAtTheHome : Prop :=
  (∀ (o : MemOp) (op : AtomOp) (n l v : Nat) (ls : List Nat), 0 < n → v < 2 ^ (8 * n) →
    let x := (o.datum l).toNat % 2 ^ (8 * n)
    let sg (y : Nat) : Int := signed (8 * n) y
    let new := match op with
      | .add => (v + x) % 2 ^ (8 * n)
      | .min => min v x
      | .max => max v x
      | .smin => if sg x < sg v then x else v
      | .smax => if sg v < sg x then x else v
      | .and => v &&& x
      | .or => v ||| x
      | .xor => v ^^^ x
      | .exch => x
      | .cas => if v = x then (o.datum l).toNat / 2 ^ 64 % 2 ^ (8 * n) else v
    (atomicFold op n o [l] v = (new, [(l, BitVec.ofNat 128 v)])) ∧
    (atomicFold op n o (l :: ls) v).1 = (atomicFold op n o ls new).1 ∧
    ∀ j ∈ ls, j ≠ l → NMap.get? (atomicFold op n o (l :: ls) v).2 j = NMap.get? (atomicFold op n o ls new).2 j) ∧
  (∀ (s : State) (core : Nat) (p : Phys) (o : MemOp) (f : AtomForm) (ls : List Nat), p.host = false →
    let u := releaseFor s core f.order f.scope
    let k := clusterOf core
    let v := dropCopies (settleLine u k (lineNo p.pa) (acquires f.order && Scope.wide f.scope)) k (lineNo p.pa)
    let r := atomicFold f.op f.width.bytes o ls (Memory.readNat v.mem p.pa f.width.bytes)
    (lineBad u p.pa = true → homeAtomic s core p o f ls = (u, .error (42, 0))) ∧
    (lineBad u p.pa = false → (homeAtomic s core p o f ls).2 = .ok r.2 ∧
      (homeAtomic s core p o f ls).1.mem = Memory.writeBytes v.mem p.pa (leBytes r.1 f.width.bytes))) ∧
  (∀ (s : State) (core : Nat) (p : Phys) (o : MemOp) (f : AtomForm) (ls : List Nat), p.host = true →
    let r := atomicFold f.op f.width.bytes o ls (Memory.readNat s.hostMem p.pa f.width.bytes)
    (homeAtomic s core p o f ls).2 = .ok r.2 ∧
      (homeAtomic s core p o f ls).1.hostMem = Memory.writeBytes s.hostMem p.pa (leBytes r.1 f.width.bytes)) ∧
  ∀ (s : State) (wave op lane : Nat) (w : Wave) (o : MemOp) (f : AtomForm) (p : Phys), s.wave? wave = some w →
    w.op? op = some o → (w.freeLanes o).getLsbD lane = true → o.remote = false → Instr.atomic? o.instr = some f →
    let ls := (lanesOf (w.freeLanes o)).filter fun j => o.at_ j = o.at_ lane
    let q := target s (waveCore s w) w.asid (o.at_ lane) (if o.isAtom then .both else .write)
    q.2 = .ok (.here p) →
      (∀ olds, (homeAtomic q.1 (waveCore s w) p o f ls).2 = .ok olds →
        let h := (homeAtomic q.1 (waveCore s w) p o f ls).1
        exec (.homeSliceAtomic wave op lane) s = .next (settleFences ((if p.host then h else noteRead h wave (lineNo p.pa)).finishLanes
          wave o.id (maskOf fun j => ls.contains j) olds) wave)) ∧
      ∀ b, (homeAtomic q.1 (waveCore s w) p o f ls).2 = .error b →
        exec (.homeSliceAtomic wave op lane) s = .next (settleFences
          (noteFaults (homeAtomic q.1 (waveCore s w) p o f ls).1 wave o (ls.map fun j => ⟨j, b⟩)) wave)

/-- R198 to R200: a futures request at its word either acts or parks. FWAIT of a Full word and FPEEK deliver its value, FPEEK its
state too; FWAIT of an Empty word parks; FFILL fills an Empty word and wakes its waiters, and is a late fault at a Full one, as
its later lanes are; FRESET empties the word. A futures instruction does not act on host memory, which has no such state: 45. -/
def Obligations.FuturesActOrPark : Prop :=
  (∀ (s : State) (wave core pa : Nat) (o : MemOp) (ls : List Nat),
    let ln := lineNo pa
    let word := pa % 64 / 8
    let k := clusterOf core
    let wide := Scope.wide o.scope
    let empty := (s.line ln).emptyWords.getLsbD word
    let all := maskOf fun j => ls.contains j
    let r := homeFuture s wave core pa o ls
    (∀ f, o.instr = .fwait f →
      let u := settleLine s k ln (acquires o.order && wide)
      (empty = false → r = observe (u.finishLanes wave o.id all (ls.map fun j => (j, BitVec.ofNat 128 (Memory.readNat u.mem pa 8))))
        wave core ln o) ∧
      (empty = true → r.mem = u.mem ∧ (r.line ln).waiters = (u.line ln).waiters ++ ls.map (fun j => (word, wave, o.id, j)) ∧
        r = (u.modLine ln fun i => { i with waiters := i.waiters ++ ls.map fun j => (word, wave, o.id, j) }).modOp wave o.id
          fun o => { o with parked := true })) ∧
    (∀ f, o.instr = .fpeek f →
      let u := settleLine s k ln (acquires o.order && wide)
      r = observe (u.finishLanes wave o.id all (ls.map fun j =>
        (j, BitVec.ofNat 128 (Memory.readNat u.mem pa 8 + (if empty then 0 else 1) * 2 ^ 64)))) wave core ln o) ∧
    (∀ f l, o.instr = .ffill f → ls = [l] → empty = true →
      let u := dropCopies (settleLine (releaseFor s core o.order o.scope) k ln false) k ln
      r.mem = Memory.writeBytes u.mem pa (leBytes ((o.datum l).toNat % 2 ^ 64) 8) ∧
        (r.line ln).emptyWords.getLsbD word = false ∧ ∀ x ∈ (r.line ln).waiters, x.1 ≠ word) ∧
    (∀ f, o.instr = .ffill f → empty = false →
      r = noteFaults (dropCopies (settleLine (releaseFor s core o.order o.scope) k ln false) k ln) wave o
        (ls.map fun j => ⟨j, (44, 0)⟩)) ∧
    (∀ f, o.instr = .freset f → word < 8 →
      r.mem = (releaseFor s core o.order o.scope).mem ∧ (r.line ln).emptyWords.getLsbD word = true)) ∧
  ∀ (s : State) (wave op lane : Nat) (w : Wave) (o : MemOp) (p : Phys), s.wave? wave = some w → w.op? op = some o →
    (w.freeLanes o).getLsbD lane = true → Instr.isFuture o.instr = true → o.parked = false →
    let ls := (lanesOf (w.freeLanes o)).filter fun j => o.at_ j = o.at_ lane
    let q := target s (waveCore s w) w.asid (o.at_ lane) (futureNeed o.instr)
    q.2 = .ok (.here p) →
      (p.host = false → lineBad q.1 p.pa = false → exec (.futuresRequest wave op lane) s =
        .next (settleFences (homeFuture q.1 wave (waveCore s w) p.pa o ls) wave)) ∧
      (p.host = false → lineBad q.1 p.pa = true → exec (.futuresRequest wave op lane) s =
        .next (settleFences (noteFaults q.1 wave o (ls.map fun j => ⟨j, (42, 0)⟩)) wave)) ∧
      (p.host = true → exec (.futuresRequest wave op lane) s =
        .next (settleFences (noteFaults q.1 wave o (ls.map fun j => ⟨j, (45, 0)⟩)) wave))

/-- R203 to R207, R129, R188: QPUSH appends the words of its lanes while there is room, clears the guard of the lanes that found
none, and goes on; QLEN delivers the number of words; BNDMIN sends the least of its values toward the cluster's register, which
BNDMIN_APPLY lowers to it, and in helper code holds each lane's value with the chunk; BNDWT goes on while the register differs
from its operand and otherwise holds its split. QPUSH and BNDMIN stall in place while an earlier access of their lanes is not
performed (log entry 18). Each traps as its checks say. -/
def Obligations.QueuesAndBoundsAct : Prop :=
  ∀ (s : State) (c : Ctx), s.ctx? = some c →
    (∀ (g : Guard) (q : Fin 4) (d : Operand),
      let i := Instr.qpush g q d
      let ls := passLanes (c.eff g) (!d.perLane)
      let u := drainWave (abortOpen c s (c.eff g)) c.wid
      let waits : Bool := u.owes c.wid (if d.perLane then c.eff g else c.mask)
      let room := 256 - (u.queue c.core q.val).words.length
      let full := if d.perLane then maskOf fun l => (ls.drop room).contains l else c.mask
      (c.eff g = 0 → Yields i s fun t => turns s t c c.w.advance) ∧
      (c.eff g ≠ 0 → ∀ x, residueTrap c s ls (dataRegs d 4) = some x → exec i s = .next (trapNow c s x)) ∧
      (c.eff g ≠ 0 → residueTrap c s ls (dataRegs d 4) = none → (s.queue c.core q.val).owner ≠ some c.w.group →
        exec i s = .next (trapNow c s { cause := 128, info := BitVec.ofNat 64 q.val })) ∧
      (c.eff g ≠ 0 → residueTrap c s ls (dataRegs d 4) = none → (s.queue c.core q.val).owner = some c.w.group →
        (waits = true → exec i s = .next (u.stall c)) ∧
        (waits = false → c.w.heldBack = 0 → Yields i s fun t => t.mem = u.mem ∧
          ((u.queue c.core q.val).owner ≠ none → (t.queue c.core q.val).words = (u.queue c.core q.val).words ++
            (ls.take room).map fun l => BitVec.ofNat 32 ((c.dataOf u (fun _ => 0) d 4 l).toNat)) ∧
          (ls.length ≤ room → t.wave? c.wid = (u.wave? c.wid).map Wave.advance) ∧
          (room < ls.length → g.pred ≠ 7 → ∀ w, u.wave? c.wid = some w → w.frame.saved = none → ∃ w', t.wave? c.wid = some w' ∧
            w'.v = w.v ∧ w'.s = w.s ∧ (∀ p, p ≠ g.pred.val → w'.pAt p = w.pAt p) ∧
            w'.pAt g.pred.val = if g.neg then w.pAt g.pred.val ||| full else w.pAt g.pred.val &&& ~~~full)))) ∧
    (∀ (g : Guard) (q : Fin 4) (d : Fin 32),
      let i := Instr.qlen g q d
      (c.guardHolds g = false → Yields i s fun t => turns s t c c.w.advance) ∧
      (c.guardHolds g = true → c.w.noRoom i = true → exec i s = .next (awaitRoom c s)) ∧
      (c.guardHolds g = true → c.w.noRoom i = false → (s.queue c.core q.val).owner ≠ some c.w.group →
        exec i s = .next (trapNow c s { cause := 128, info := BitVec.ofNat 64 q.val })) ∧
      (c.guardHolds g = true → c.w.noRoom i = false → (s.queue c.core q.val).owner = some c.w.group →
        Yields i s fun t => ∃ w o, turns s t c w ∧ w.loads = c.w.loads ++ [o] ∧ w.v = c.w.v ∧ w.s = c.w.s ∧ w.p = c.w.p ∧
          o.instr = i ∧ o.mask = o.done ∧ o.data = [(lowestLane o.mask, BitVec.ofNat 128 (s.queue c.core q.val).words.length)])) ∧
    (∀ (g : Guard) (n : Fin 4) (wd : AtomWidth) (d : Operand),
      let i := Instr.bndmin g n wd d
      let val (t : State) (l : Nat) : Word64 := match wd with
        | .b32 => BitVec.signExtend 64 (lo32 (c.get t l d false).val)
        | .b64 => (c.get t l d true).val
      let ls := passLanes (c.eff g) (!d.perLane && !c.helper)
      let u := drainWave (abortOpen c s (c.eff g)) c.wid
      let waits : Bool := u.owes c.wid (if d.perLane then c.eff g else c.mask)
      (c.eff g = 0 → Yields i s fun t => turns s t c c.w.advance) ∧
      (c.eff g ≠ 0 → ∀ x, residueTrap c s ls (dataRegs d wd.bytes) = some x → exec i s = .next (trapNow c s x)) ∧
      (c.eff g ≠ 0 → residueTrap c s ls (dataRegs d wd.bytes) = none → c.helper = false →
        (waits = true → exec i s = .next (u.stall c)) ∧
        (waits = false → c.w.heldBack = 0 → Yields i s fun t => t.mem = u.mem ∧
          t.wave? c.wid = (u.wave? c.wid).map Wave.advance ∧
          ∃ v, (t.cluster (clusterOf c.core)).bndPending = (u.cluster (clusterOf c.core)).bndPending ++ [(c.w.nextOp, n.val, v)] ∧
            (∃ l ∈ ls, v = val u l) ∧ ∀ l ∈ ls, v.toInt ≤ (val u l).toInt)) ∧
      (c.eff g ≠ 0 → residueTrap c s ls (dataRegs d wd.bytes) = none → c.helper = true →
        (∀ l ∈ ls, ∃ h, NMap.get? c.w.helpers l = some h ∧ h.buf.length < 64) → Yields i s fun t => t.mem = s.mem ∧
          ∃ w o, turns s t c w ∧ w.v = c.w.v ∧ w.s = c.w.s ∧ w.p = c.w.p ∧ o.instr = i ∧
            (∀ l ∈ ls, o.datum l = BitVec.ofNat 128 (val s l).toNat) ∧
            ∀ l ∈ ls, ∀ h, NMap.get? c.w.helpers l = some h → NMap.get? w.helpers l = some { h with buf := h.buf ++ [⟨o, l⟩] })) ∧
    (∀ (g : Guard) (n : Fin 4) (d : Fin 32),
      let i := Instr.bndwt g n d
      let w1 := c.w.abortTx 4 0 (c.eff g)
      (c.guardHolds g = false → Yields i s fun t => turns s t c c.w.advance) ∧
      (c.guardHolds g = true → bndVal s c.core n.val ≠ (c.w.sAt d.val).val → Yields i s fun t => turns s t c w1.advance) ∧
      (c.guardHolds g = true → bndVal s c.core n.val = (c.w.sAt d.val).val → c.iss.idx + 1 = c.iss.words.length →
        Yields i s fun t => turns s t c ({ w1 with
          splits := NMap.modify c.w.splits c.iss.split fun sp =>
            { sp with pc := c.iss.next, state := .held (.bndwt n.val (c.w.sAt d.val).val) } } : Wave).advance) ∧
      (c.guardHolds g = true → bndVal s c.core n.val = (c.w.sAt d.val).val → c.iss.idx + 1 ≠ c.iss.words.length →
        Yields i s fun t => t.mem = s.mem ∧ t.groups = s.groups ∧ (∀ k, k ≠ c.wid → t.wave? k = s.wave? k) ∧
          t.wave? c.wid = some ({ w1 with
            issue := none
            splits := NMap.modify c.w.splits c.iss.split fun sp =>
              { sp with state := .held (.bndwt n.val (c.w.sAt d.val).val), cont := some c.iss.advance } } : Wave))) ∧
    ∀ (k : Nat),
      ((s.cluster k).bndPending = [] → exec (.bndminApply k) s = .next s) ∧
      ∀ id n v rest, (s.cluster k).bndPending = (id, n, v) :: rest → Yields (.bndminApply k) s fun t =>
        bndVal t (4 * k) n = (if v.toInt < (bndVal s (4 * k) n).toInt then v else bndVal s (4 * k) n) ∧
          (t.cluster k).bndPending = rest ∧ (∀ j, j ≠ k → t.cluster j = s.cluster j) ∧ t.waves = s.waves ∧ t.mem = s.mem

/-- R187, R213, R214, R235, R183, R449: PREF goes on, and no byte at a home slice, no group and no other wave changes. A FENCE with
nothing before it outstanding acts at once: a release leaves the cluster no dirty line, an acquire its core no clean one, at
DEVICE scope or wider, and at a narrower one nothing changes; otherwise it performs what it can and joins the wave's
asynchronous accesses for the lanes that still wait. In helper code its release is left to the commit of the chunk. A store's
last lane is performed, or refused late with its fault, or sent to another device, which acknowledges it; no answer within
2^24 ticks is a late fault with 46. A dirty line that is written back stays, clean, its bytes at the home slice. -/
def Obligations.AccessesArePerformed : Prop :=
  (∀ (s : State) (c : Ctx), s.ctx? = some c →
    (∀ (g : Guard) (l2 : Bool) (m : Addr),
      (∀ x, residueTrap c s (lanesOf (c.eff g)) (Addr.regs m) = some x → exec (.pref g l2 m) s = .next (trapNow c s x)) ∧
      (residueTrap c s (lanesOf (c.eff g)) (Addr.regs m) = none → Yields (.pref g l2 m) s fun t => t.mem = s.mem ∧
        t.groups = s.groups ∧ t.wave? c.wid = some c.w.advance ∧ ∀ k, k ≠ c.wid → t.wave? k = s.wave? k)) ∧
    ∀ (g : Guard) (order : MemOrder) (scope : Scope),
      let i := Instr.fence g order scope
      let wide : Prop := scope = .device ∨ scope = .system
      let core := waveCore s c.w
      (c.eff g = 0 → Yields i s fun t => turns s t c c.w.advance) ∧
      (c.eff g ≠ 0 → c.helper = false → exec i s = .next ((fenceNow (abortOpen c s (c.eff g)) c.wid i (c.eff g)).advance c.wid)) ∧
      (c.eff g ≠ 0 → c.helper = false → c.w.loads = [] → c.w.stores = [] → c.w.asyncs = [] →
        (∀ x ∈ c.w.splits, x.2.hold ≠ some .bar ∧ x.2.hold ≠ some .gbar) → Yields i s fun t =>
          ((order = .release ∨ order = .acqRel) → wide → dirtyLines t (clusterOf core) = []) ∧
          ((order = .acquire ∨ order = .acqRel) → wide → ∀ x ∈ t.l1 core, x.dirty ≠ 0) ∧
          (¬wide → t.mem = s.mem ∧ t.cores = s.cores) ∧
          ∃ w', t.wave? c.wid = some w' ∧ w'.asyncs = [] ∧ w'.loads = [] ∧ w'.stores = [] ∧ w'.v = c.w.v ∧ w'.s = c.w.s ∧
            w'.p = c.w.p ∧ w'.issue = some c.iss.advance) ∧
      (c.eff g ≠ 0 → c.helper = true → order = .release → Yields i s fun t => turns s t c ({ c.w.abortTx 4 0 (c.eff g) with
        helpers := NMap.mapVal c.w.helpers fun l h => if (c.eff g).getLsbD l then { h with fence := widen h.fence scope } else h } :
          Wave).advance)) ∧
  (∀ (s : State) (wave op l : Nat) (w : Wave) (o : MemOp), s.wave? wave = some w → w.loads = [] →
    w.stores.find? (fun o => o.id = op) = some o → ((∃ h f, o.instr = .st h f) ∨ ∃ f, o.instr = .sts f) → o.remote = false →
    l < 32 → w.freeLanes o = laneBit l →
    let r := writeLane s (waveCore s w) w.asid (gangOf s w) o l
    (r.2 = .ok true →
      exec (.storePerformed wave op) s = .next (settleFences (r.1.finishLanes wave op (laneBit l) []) wave)) ∧
    (∀ b, r.2 = .error b → exec (.storePerformed wave op) s = .next (settleFences (noteFaults r.1 wave o [⟨l, b⟩]) wave)) ∧
    (r.2 = .ok false → exec (.storePerformed wave op) s =
      .next (settleFences (r.1.modOp wave op fun o => { o with remote := true, sentAt := r.1.tick.toNat }) wave))) ∧
  (∀ (s : State) (wave op : Nat) (w : Wave) (o : MemOp), s.wave? wave = some w →
    (w.stores.find? (fun o => o.id = op && o.remote) = some o → exec (.remoteWriteAcknowledged wave op) s =
      .next (settleFences (s.finishLanes wave op (o.undone &&& ~~~o.faulted) []) wave)) ∧
    (w.op? op = some o → o.remote = true → o.sentAt + 2 ^ 24 ≤ s.tick.toNat → exec (.remoteAccessTimeout wave op) s =
      .next ((noteFaults s wave o ((lanesOf (o.undone &&& ~~~o.faulted)).map fun l => ⟨l, (46, 0)⟩)).modOp wave op
        fun o => { o with remote := false }))) ∧
  ∀ (s : State) (k : Nat),
    (dirtyLines s k = [] → exec (.dirtyLineWriteBack k) s = .next s) ∧
    ∀ d x xs, dirtyLines s k = (d, x) :: xs → Yields (.dirtyLineWriteBack k) s fun t =>
      findLine (t.l1 d) x.line = some { x with dirty := 0 } ∧ (∀ j, j ≠ d → t.l1 j = s.l1 j) ∧
        ∀ a, Memory.read t.mem a = Memory.read s.mem a ∨
          ∃ o, a = 64 * x.line + o ∧ x.dirty.getLsbD o = true ∧ (o, Memory.read t.mem a) ∈ x.data

/-- R236, R237, R444, R16: CCTL, ICINV and, in ASID 0 alone, TLBINV start with a pending token; once the wave's accesses before
them are performed, but for what a fault keeps back, they complete: the token becomes Ready with status 0 and the operation is
outstanding no more. Invalidating a line leaves no copy of it in the cluster. -/
def Obligations.CacheControlRunsUnderTokens : Prop :=
  (∀ f : CctlForm,
    startsToken (.cctlWb f) f.g f.b (fun c => c.sVal f.a) (fun c => c.sVal f.d) (fun c s => cctlCheck c s .wb f) ∧
    startsToken (.cctlInv f) f.g f.b (fun c => c.sVal f.a) (fun c => c.sVal f.d) (fun c s => cctlCheck c s .inv f) ∧
    startsToken (.cctlWbinv f) f.g f.b (fun c => c.sVal f.a) (fun c => c.sVal f.d) (fun c s => cctlCheck c s .wbinv f)) ∧
  (∀ g sc tok, startsToken (.icinv g sc tok) g tok (fun _ => 0) (fun _ => 0) (fun _ _ => none)) ∧
  (∀ (s : State) (c : Ctx) (g : Guard) (d a b : Fin 32), s.ctx? = some c → c.w.asid ≠ 0 →
    ∀ i ∈ [Instr.tlbinvAll g d, .tlbinvAsid g d b, .tlbinvPage g d a b],
      exec i s = .next (trapNow c s { cause := 16, info := c.iw.word })) ∧
  (∀ (s : State) (c : Ctx) (g : Guard) (d a b : Fin 32), s.ctx? = some c → c.w.asid = 0 →
    let u := drainWave (abortOpen c s (c.eff g)) c.wid
    ∀ i ∈ [Instr.tlbinvAll g d, .tlbinvAsid g d b, .tlbinvPage g d a b],
      (c.guardHolds g = false → Yields i s fun t => turns s t c c.w.advance) ∧
      (c.guardHolds g = true → c.addrCodes s [a] = none → Yields i s fun t => t.mem = u.mem ∧ ∀ w, u.wave? c.wid = some w →
        ∃ w' o, t.wave? c.wid = some w' ∧ w'.asyncs = w.asyncs ++ [o] ∧ o.instr = i ∧ w'.sAt d.val = Scalar.pend)) ∧
  (∀ (s : State) (wave op : Nat) (w : Wave) (o : MemOp), s.wave? wave = some w → w.asyncs.find? (fun o => o.id = op) = some o →
    let ends (i : Instr) (tok : Fin 32) : Prop :=
      (waveClear s wave op = false → exec i s = .next s) ∧
      (waveClear s wave op = true → w.alive = true → Yields i s fun t => ∃ w', t.wave? wave = some w' ∧
        w'.sAt tok.val = Scalar.of 0 ∧ (w'.sAt tok.val).pending = false ∧ w'.asyncs = w.asyncs.filter fun x => x.id ≠ op)
    (∀ k f, Instr.cctl? o.instr = some (k, f) → ends (.cctlComplete wave op) f.b) ∧
    (∀ g sc tok, o.instr = .icinv g sc tok → ends (.icinvComplete wave op) tok) ∧
    ∀ tok p, tlbinvDrops o = some (tok, p) → ends (.tlbinvComplete wave op) tok) ∧
  ∀ (s : State) (k ln : Nat), ∀ d ∈ clusterCores k,
    findLine ((cctlLine s k .inv true ln).l1 d) ln = none ∧ findLine ((cctlLine s k .wbinv true ln).l1 d) ln = none ∧
      (cctlLine s k .inv true ln).mem = s.mem

/-! ### Traps -/

/-- R408, R410 to R415: a trap aborts the wave's transactions, saves cause, address, lanes, word and resumption point, sets
aside splits, records and predicates with TSTAT.INH and TSTAT.MASK set, and starts one split of all live lanes at TVEC; with
no handler, or inside one, the grid ends with the cause, or with 180. No register and no byte of memory changes. -/
def Obligations.TrapEntrySavesAndGoesToTheHandler : Prop :=
  ∀ (s : State) (wid core slot split : Nat) (x : TrapInfo) (tpc : VAddr) (rest : List Replay) (w : Wave),
    s.wave? wid = some w → w.helpers = [] →
    let tvec := (s.group w.group).tvec
    let r := takeTrap s wid core slot split x tpc rest;
    (w.frame.inh = false → tvec ≠ 0 → r.mem = s.mem ∧ r.groups = s.groups ∧ (∀ k, k ≠ wid → r.wave? k = s.wave? k) ∧
      ∃ w' sv, r.wave? wid = some w' ∧ w'.v = w.v ∧ w'.s = w.s ∧ w'.rets = w.rets ∧ w'.exited = w.exited ∧
        w'.splits = [(0, { pc := BitVec.ofNat 48 tvec.toNat, mask := w.live, state := .ready })] ∧
        w'.parkedSplits = [] ∧ w'.recs = [] ∧ w'.issue = none ∧
        w'.frame.cause = x.cause ∧ w'.frame.ocause = x.ocause ∧ w'.frame.late = x.late ∧ w'.frame.idx = x.idx ∧
        w'.frame.tpc = BitVec.ofNat 64 tpc.toNat ∧ w'.frame.taddr = x.addr ∧ w'.frame.tlanes = x.lanes ∧
        w'.frame.tinfo = x.info ∧ w'.frame.mask = true ∧ w'.frame.inh = true ∧ w'.frame.scr = w.frame.scr ∧
        w'.frame.rqn = min (w.entries.length + rest.length) 64 ∧
        w'.frame.saved = some sv ∧ sv.preds = w.p ∧ sv.split = split ∧
        sv.recs = w.settleRecs.recs ∧
        ∀ l q, l < 32 → NMap.get? w.tx l = some q → q.st = .open_ → NMap.get? w'.tx l = some { q with st := .doomed 7 0 }) ∧
    ((w.frame.inh = true ∨ tvec = 0) → ∀ n nd, nodeOfWave s wid = some n → s.node? n = some nd → nd.ended = false →
      ∃ nd', r.node? n = some nd' ∧ nd'.ended = true ∧
        nd'.status = if nd.status = 0 then (if w.frame.inh then 180 else x.cause.toNat) else nd.status)

/-- R416 to R419: TRAP raises 160 + n and BRK 176 in the lanes of Eff and are then done; EFENCE waits for what is outstanding and
reports the first late fault; TRET restores what the trap set aside and reissues what it kept; TMASK sets TSTAT.MASK. TRET and
TMASK outside a handler trap. -/
def Obligations.TrapInstructionsRaiseAndReturn : Prop :=
  ∀ (s : State) (c : Ctx), s.ctx? = some c →
    (∀ (g : Guard) (n : Fin 16),
      (c.eff g = 0 → (Yields (.trap g n) s fun t => turns s t c c.w.advance) ∧ Yields (.brk g) s fun t => turns s t c c.w.advance) ∧
      (c.eff g ≠ 0 →
        exec (.trap g n) s = .next (trapNow c (abortOpen c s (c.eff g)) { cause := BitVec.ofNat 8 (160 + n.val), lanes := c.eff g } true) ∧
        exec (.brk g) s = .next (trapNow c (abortOpen c s (c.eff g)) { cause := 176, lanes := c.eff g } true))) ∧
    (let u := abortOpen c s c.mask;
      (efenceDone u c = false → exec .efence s = .next (u.stall c)) ∧
      (efenceDone u c = true → (c.w.faults = [] ∨ c.w.frame.inh = true) →
        Yields .efence s fun t => turns s t c (c.w.abortTx 4 0 c.mask).advance) ∧
      (efenceDone u c = true → ∀ x xs, c.w.faults = x :: xs → c.w.frame.inh = false → exec .efence s =
        .next (lateTrap u c.wid c.core c.slot c.iss.split c.iss.next x (c.iss.restEntries false)))) ∧
    (c.w.frame.inh = false → ∀ on, exec .tret s = .next (trapNow c s { cause := 146, info := c.iw.word }) ∧
      exec (.tmask on) s = .next (trapNow c s { cause := 146, info := c.iw.word })) ∧
    (c.w.frame.inh = true →
      (∀ on, Yields (.tmask on) s fun t => ∃ tx, turns s t c
        ({ c.w with tx := tx, frame := { c.w.frame with mask := on } } : Wave).advance) ∧
      (c.whole = false → exec .tret s = .next (trapNow c s { cause := 147, lanes := c.mask })) ∧
      (c.whole = true → c.w.outstanding ≠ [] → exec .tret s = .next (s.stall c)) ∧
      (c.whole = true → c.w.outstanding = [] →
        let r := checkTarget64 (abortOpen c s c.mask) c.core c.w.asid c.w.frame.tpc c.mask;
        (∀ x, r.2 = some x → exec .tret s = .next (trapNow c r.1 x)) ∧
        (r.2 = none → c.w.endReq = none → c.w.release = 0 → c.w.rejoin = [] → c.w.evictReq = false →
          (∀ k, s.gang? (s.group c.w.group).gang = some k → k.suspendReq = false) → ∀ sv, c.w.frame.saved = some sv →
          Yields .tret s fun t => t.mem = s.mem ∧ ∃ w', t.wave? c.wid = some w' ∧ w'.v = c.w.v ∧ w'.s = c.w.s ∧
            w'.p = sv.preds ∧ w'.recs = sv.recs ∧ w'.frame.inh = false ∧ w'.frame.mask = false ∧ w'.frame.saved = none ∧
            w'.frame.replay = c.w.frame.replay ∧ w'.loads.length + w'.stores.length = c.w.loads.length + c.w.stores.length +
              (c.w.frame.replayed .load ++ c.w.frame.replayed .store).length ∧
            (c.w.frame.restWords ≠ [] → ∃ j, w'.issue = some j ∧ j.words = c.w.frame.restWords ∧ j.split = sv.split ∧
              j.next = BitVec.ofNat 48 c.w.frame.tpc.toNat ∧ w'.splits = NMap.modify sv.splits sv.split fun sp =>
                { sp with pc := BitVec.ofNat 48 c.w.frame.tpc.toNat, state := .issuing }))))

/-! ### The matrix engine -/

/-- R254, R8, R36, R109, R262 to R272, R277, R297 to R300: matrix commands enter their group's queue after their checks, batch
operations in the open batch and order marks in none, each with the operands, RND, FTZ, SEED and guard that it captures; a full
queue stalls them in place. Where no TAKE or SPAWN is still to write the predicate, the guard captured is its value at issue. -/
def Obligations.MatrixCommandsEnterTheQueue : Prop :=
  (∀ xa, queues (.setmod xa) noGuard false (fun c => c.sVal xa) (fun _ => 0) fun _ => 0) ∧
  queues .setmodDefault noGuard false (fun _ => 0) (fun _ => 0) (fun _ => 0) ∧
  (∀ a b d, queues (.setfmt a b d) noGuard false (fun _ => 0) (fun _ => 0) fun _ => 0) ∧
  (∀ p f, queues (.mpair p f) noGuard false (fun _ => 0) (fun _ => 0) fun _ => 0) ∧
  queues .msolo noGuard false (fun _ => 0) (fun _ => 0) (fun _ => 0) ∧
  (∀ g a, queues (.mzero g a) g true (fun _ => 0) (fun _ => 0) fun _ => 0) ∧
  (∀ f : MacForm, queues (.mmac f) f.g true (fun c => c.sVal f.xa) (fun c => c.sVal f.xb) (fun _ => 0) ∧
    queues (.mmact f) f.g true (fun c => c.sVal f.xa) (fun c => c.sVal f.xb) (fun _ => 0) ∧
    queues (.mmacu f) f.g true (fun c => c.sVal f.xa) (fun c => c.sVal f.xb) fun c => c.sVal f.xc) ∧
  (∀ g a xa, queues (.mspill g a xa) g true (fun c => c.sVal xa) (fun _ => 0) (fun _ => 0) ∧
    queues (.mfill g a xa) g true (fun c => c.sVal xa) (fun _ => 0) fun _ => 0) ∧
  (∀ g a xa f ds, queues (.mdrain g a xa f ds) g true (fun c => c.sVal xa) (fun _ => 0) fun _ => 0) ∧
  (∀ g a f row pair, queues (.mdrainv g a f row pair) g true (fun _ => 0) (fun _ => 0) fun _ => 0) ∧
  (∀ g a xa d, queues (.mdigit g a xa d) g true (fun c => c.sVal xa) (fun _ => 0) fun _ => 0) ∧
  (∀ g a rt ct xa, queues (.mchk g a rt ct xa) g true (fun c => c.sVal xa) (fun _ => 0) fun _ => 0) ∧
  ∀ (c : Ctx) (u : State) (g : Guard), c.meets u g

/-- R19 to R21, R275, R276, R294, R301: MBATCH closes the open batch and gives its number; MWAIT holds the split while a batch
of that number is in flight; MSIG adds its arrival to that batch or, with none in flight, arrives once the wave's earlier
accesses are performed, and traps with 128 at a barrier not granted; MSTAT reads the fields of the status word and, with .clear, clears those that record faults and counts. -/
def Obligations.MatrixBatchInstructions : Prop :=
  ∀ (s : State) (c : Ctx), s.ctx? = some c →
    let x := s.group c.w.group
    let w1 := c.w.abortTx 4 0 c.mask
    (∀ sd : Fin 32,
      (16 ≤ x.batches.length → exec (.mbatch sd) s = .next (s.stall c)) ∧
      (x.batches.length < 16 → Yields (.mbatch sd) s fun t =>
        turnsBoth s t c (w1.setS sd.val (Scalar.of (BitVec.ofNat 64 (x.openSeq % 16)))).advance fun x =>
          { x with batches := x.batches ++ [{ seq := x.openSeq }], openSeq := x.openSeq + 1 })) ∧
    (∀ b : Fin 16,
      ((∀ y ∈ x.batches, y.seq % 16 ≠ b.val) → Yields (.mwait b) s fun t => turns s t c w1.advance) ∧
      (∀ y xs, x.batches.filter (fun y => y.seq % 16 = b.val) = xs ++ [y] → Yields (.mwait b) s fun t =>
        turns s t c ({ w1 with splits := NMap.modify c.w.splits c.iss.split fun sp =>
          { sp with pc := c.iss.next, state := .held (.mwait y.seq) } } : Wave).advance)) ∧
    (∀ (b cb : Fin 16) (n : BitVec 16), let u := drainWave (abortOpen c s c.mask) c.wid
      (barGranted s c.core cb.val c.w.group = false → exec (.msig b cb n) s =
        .next (trapNow c s { cause := 128, info := BitVec.ofNat 64 cb.val })) ∧
      (barGranted s c.core cb.val c.w.group = true → ∀ y xs, x.batches.filter (fun y => y.seq % 16 = b.val) = xs ++ [y] →
        ∀ w, u.wave? c.wid = some w → Yields (.msig b cb n) s fun t => turnsBoth u t c w.advance fun x =>
          { x with batches := x.batches.map fun z => if z.seq = y.seq then { z with sigs := z.sigs ++ [(cb.val, n.toNat)] } else z }) ∧
      (barGranted s c.core cb.val c.w.group = true → (∀ y ∈ x.batches, y.seq % 16 ≠ b.val) →
        u.owes c.wid allLanes = true → exec (.msig b cb n) s = .next (u.stall c)) ∧
      (barGranted s c.core cb.val c.w.group = true → (∀ y ∈ x.batches, y.seq % 16 ≠ b.val) → u.owes c.wid allLanes = false →
        ∀ w, u.wave? c.wid = some w → (u.bar (u.group c.w.group).core cb.val).target ≠ 0 →
        Yields (.msig b cb n) s fun t => t.mem = u.mem ∧ t.bar (u.group c.w.group).core cb.val =
          (u.bar (u.group c.w.group).core cb.val).arrive n.toNat ∧ t.wave? c.wid = some w.advance)) ∧
    ∀ (g : Guard) (clr : Bool) (sd : Fin 32),
      (c.guardHolds g = false → Yields (.mstat g clr sd) s fun t => turns s t c c.w.advance) ∧
      (c.guardHolds g = true → Yields (.mstat g clr sd) s fun t => ∃ v : Word64,
        turnsBoth s t c ((c.w.abortTx 4 0 (c.eff g)).setS sd.val (Scalar.of v)).advance (fun x => if clr then { x with
          mcause := 0, mcbatch := 0, ovrcnt := 0, corrcnt := 0, chkf := false, psndr := false, more := false } else x) ∧
        v.toNat / 2 ^ 56 = x.mcause.toNat ∧ v.toNat / 2 ^ 52 % 16 = x.mcbatch.toNat ∧ v.toNat / 2 ^ 24 % 2 ^ 16 = min x.ovrcnt 65535 ∧
        v.toNat / 2 ^ 8 % 2 ^ 16 = min x.corrcnt 65535 ∧ v.getLsbD 43 = x.mset.isNone ∧ v.getLsbD 42 = x.pair.isSome ∧
        v.getLsbD 3 = x.chkf ∧ v.getLsbD 2 = x.psndr ∧ v.getLsbD 1 = x.more)

/-- R255, R256, R258, R259, R262, R263, R265, R272, R22: where the head of the first group in round-robin order is ready it starts:
SETFMT and MSOLO take effect, SETMOD.default runs until what has started is complete and then puts its set in, MZERO runs, and
blanks its tile as it completes; under an Invalid set it completes with cause 76. An operation does not complete before an
earlier one whose accesses meet its own; a batch whose operations have completed retires, unless its group is suspended. -/
def Obligations.MatrixQueueStartsCompletesRetires : Prop :=
  (∀ (s : State) (core gk : Nat) (g : Group) (e : MxEntry) (rest : List (Nat × Group)), mxGroups s core = (gk, g) :: rest →
    s.group? gk = some g → mxHead g = some e → mxReady s gk e = true → (∀ x ∈ g.mq, x.id = e.id → x = e) →
    let left := g.mq.filter fun x => x.id ≠ e.id
    let fails (x : MxEntry) : MxEntry :=
      { x with fmt := g.fmt, desc := [], state := .complete, causes := x.causes ++ [batchCause 76 (entryBatch g e) e.word] }
    (∀ a b d, e.instr = .setfmt a b d → Yields (.matrixEntryStart core) s fun t => t.group? gk = some { g with
      fmt := BitVec.ofNat 64 ((Fmt.code a).toNat + (Fmt.code b).toNat * 2 ^ 5 + (Fmt.code d).toNat * 2 ^ 10), mq := left }) ∧
    (e.instr = .msolo → Yields (.matrixEntryStart core) s fun t => t.group? gk = some { g with pair := none, mq := left }) ∧
    (e.instr = .setmodDefault → servable defaultRecord (mapOf s gk) = true → Yields (.matrixEntryStart core) s fun t =>
      t.group? gk = some { g with mq := g.mq.map fun x => if x.id = e.id then
        { x with fmt := g.fmt, desc := [], state := .running, newSet := some defaultRecord, causes := [], effectAt := some s.cycle } else x }) ∧
    (∀ p a, e.instr = .mzero p a → g.mset.isSome = true → Yields (.matrixEntryStart core) s fun t => t.group? gk = some { g with
      mq := g.mq.map fun x => if x.id = e.id then { x with fmt := g.fmt, desc := [], state := .running } else x }) ∧
    (∀ p a, e.instr = .mzero p a → g.mset = none → Yields (.matrixEntryStart core) s fun t => ∃ r, t.group? gk = some { g with
      mq := g.mq.map fun x => if x.id = e.id then fails x else x, retained := g.retained ++ r })) ∧
  (∀ (s : State) (gk : Nat) (g : Group) (e : MxEntry) (id : Nat), s.group? gk = some g →
    g.mq.find? (fun e => e.id = id && e.state = .running && e.batch.isSome) = some e →
    (mxBehind s gk e = true → exec (.matrixEntryComplete gk id) s = .next s) ∧
    (mxBehind s gk e = false → let u := (runEntry s gk e).modEntry gk id fun x => { x with state := .complete };
      exec (.matrixEntryComplete gk id) s = .next (settleSuspend (retainLocks u gk id) (u.group gk).gang)) ∧
    ∀ p a, e.instr = .mzero p a → (runEntry s gk e).group? gk = some
      { g with tiles := NMap.set g.tiles a.val { elems := [], tmode := .unset, tset := g.mset, dcnt := 0 } }) ∧
  (∀ (s : State) (gk : Nat) (g : Group) (e : MxEntry), s.group? gk = some g →
    g.mq.find? (fun e => e.state = .running && e.batch.isNone) = some e →
    (g.mq.any (fun x => x.state = .running && x.batch.isSome) = true → exec (.setmodTakeEffect gk) s = .next s) ∧
    (g.mq.any (fun x => x.state = .running && x.batch.isSome) = false → e.causes = [] →
      (∀ k, s.gang? g.gang = some k → k.suspendReq = false) → Yields (.setmodTakeEffect gk) s fun t =>
        t.group? gk = some { g with mset := e.newSet, mq := g.mq.filter fun x => x.id ≠ e.id })) ∧
  ∀ (s : State) (gk : Nat) (g : Group) (b : Batch) (rest : List Batch), s.group? gk = some g → g.batches = b :: rest →
    ((g.mq.any (fun e => e.batch = some b.seq && e.state ≠ .complete) = true ∨ s.retains g = false) →
      exec (.batchRetire gk) s = .next s) ∧
    (g.mq.any (fun e => e.batch = some b.seq && e.state ≠ .complete) = false → s.retains g = true → Yields (.batchRetire gk) s fun t =>
      ∃ g', t.group? gk = some g' ∧ g'.batches = rest ∧ g'.mq = g.mq.filter (fun e => e.batch ≠ some b.seq) ∧
        g'.openSeq = g.openSeq ∧ g'.mset = g.mset ∧
        ∀ l ∈ g'.retained, l ∈ g.retained ∧ ∀ e ∈ g.mq, e.batch = some b.seq → l.owner ≠ .matrix gk e.id)

/-- R251: a contribution is exact. An element that stands for N·2^XE, residue by residue, stands for N·2^XE + P·2^x after a
contribution of P at exponent x within range, or for P·2^x where it was empty. -/
def Obligations.ContributionsAreExact : Prop :=
  ∀ (e : TElem) (cs : List Chan) (n p x : Int), e.res.length = 10 → (∀ c ∈ cs, c.h < 10 ∧ 1 < c.m ∧ c.m < 512) →
    (∀ a ∈ cs, ∀ b ∈ cs, a.h = b.h → a = b) → (∀ c ∈ cs, e.at_ c.h = res n c.m) → 0 ≤ x → x ≤ 255 →
    let e' := e.contribute cs (fun c => res p c.m) x false
    e'.empty = false ∧ e'.psn = e.psn ∧ (∀ h, (∀ c ∈ cs, c.h ≠ h) → e'.at_ h = e.at_ h) ∧
    ∃ n' : Int, (∀ c ∈ cs, e'.at_ c.h = res n' c.m) ∧
      n' * 2 ^ e'.xe.toNat = (if e.empty then 0 else n * 2 ^ e.xe.toNat) + p * 2 ^ x.toNat

/-! ### Sluice commands and tasks -/

/-- R337 to R339, R8, R13: SLAUNCH puts a command with its image, arguments, tick and token in its core's queue of 8; SSTAT
reads the engine's state; SSTOP ends the wave's queued commands with status 109 and asks its running program to stop. -/
def Obligations.SluiceCommandsQueueReadAndStop : Prop :=
  ∀ (s : State) (c : Ctx), s.ctx? = some c →
    (∀ (g : Guard) (d a b : Fin 32) (tk : TickArg),
      (∀ x, valueCheck c s (.slaunch g d a b tk) = some x → exec (.slaunch g d a b tk) s = .next (trapNow c s x)) ∧
      (valueCheck c s (.slaunch g d a b tk) = none → guarded (.slaunch g d a b tk) g s c fun u gr =>
        (8 ≤ (u.core c.core).sluiceQ.length → exec (.slaunch g d a b tk) s = .next (u.stall c)) ∧
        ((u.core c.core).sluiceQ.length < 8 → ∀ w, u.wave? c.wid = some w → Yields (.slaunch g d a b tk) s fun t =>
          t.mem = u.mem ∧ t.wave? c.wid = some ((w.abortTx 4 0 (c.eff g)).setS d.val Scalar.pend).advance ∧
          (∀ k, k ≠ c.core → t.core k = u.core k) ∧ ∃ q, (t.core c.core).sluiceQ = (u.core c.core).sluiceQ ++ [q] ∧
            q.wave = some c.wid ∧ q.group = some c.w.group ∧ q.asid = c.w.asid ∧ q.token = d ∧ q.image = c.sVal a ∧
            q.args = [(c.w.sAt b.val).val, (c.w.sAt (b.val + 1)).val, (c.w.sAt (b.val + 2)).val, (c.w.sAt (b.val + 3)).val] ∧
            q.tick = tk.map c.sVal ∧ q.after = c.w.nextOp ∧ q.guard = gr))) ∧
    (∀ (g : Guard) (d : Fin 32),
      (c.guardHolds g = false → Yields (.sstat g d) s fun t => turns s t c c.w.advance) ∧
      (c.guardHolds g = true → Yields (.sstat g d) s fun t => ∃ v : Word64,
        turns s t c ((c.w.abortTx 4 0 (c.eff g)).setS d.val (Scalar.of v)).advance ∧
        ((s.core c.core).sluice = none → v.toNat = min 8 (s.core c.core).sluiceQ.length * 2 ^ 28) ∧
        ∀ p, (s.core c.core).sluice = some p → v.toNat / 2 ^ 14 % 8 = progState p)) ∧
    ∀ (g : Guard) (d : Fin 32),
      (c.guardHolds g = false → Yields (.sstop g d) s fun t => turns s t c c.w.advance) ∧
      (c.guardHolds g = true → c.w.alive = true → (∀ gk x, s.group? gk = some x → x.savedProg = none) →
        let mine := (s.core c.core).sluiceQ.filter fun q => q.wave = some c.wid
        Yields (.sstop g d) s fun t => t.mem = s.mem ∧
          (t.core c.core).sluiceQ = (s.core c.core).sluiceQ.filter (fun q => q.wave ≠ some c.wid) ∧
          (t.core c.core).sluice = (s.core c.core).sluice.map (fun p => if p.cmd.wave = some c.wid then { p with stop := true } else p) ∧
          ∃ w, t.wave? c.wid = some w ∧ (∀ q ∈ mine, q.token ≠ d → w.sAt q.token.val = Scalar.of 109) ∧
            (∀ n, n ≠ d.val → (∀ q ∈ mine, q.token.val ≠ n) → w.sAt n = c.w.sAt n) ∧ w.v = c.w.v ∧ w.p = c.w.p ∧
            (w.sAt d.val).val.toNat % 2 ^ 8 = (mine.length + bit ((s.core c.core).sluice.filter fun p =>
              p.cmd.wave = some c.wid && !p.stop).isSome) % 2 ^ 8)

/-- R362, R367, R370, R371, R373, R231: PRIO lowers the wave's level to n; LAUNCH makes a node of its record and queues it, and waits
in place while a store of the wave may still write that record; with the queue full an unguarded one clears its predicate.
SPAWN and TAKE join the outstanding accesses; JOINW waits for the wave's loads, goes on where its counter is 0, and otherwise
parks the wave off its core. -/
def Obligations.TasksAreLaunchedSpawnedAndJoined : Prop :=
  ∀ (s : State) (c : Ctx), s.ctx? = some c →
    (∀ n : Fin 8, Yields (.prio n) s fun t => turns s t c
      ({ c.w.abortTx 4 0 c.mask with level := min n.val (wavePrio s c.wid) } : Wave).advance) ∧
    (∀ (g : Guard) (a : Fin 32) (tk : TickArg),
      let i := Instr.launch g a tk
      (∀ x, valueCheck c s i = some x → exec i s = .next (trapNow c s x)) ∧
      (valueCheck c s i = none → guarded i g s c fun u gr =>
        (4 ≤ (u.core c.core).launchQ.length → gr.isSome = true → exec i s = .next (u.stall c)) ∧
        (4 ≤ (u.core c.core).launchQ.length → gr = none → exec i s =
          .next ((refuse (abortOpen c u (c.eff g)) c.wid c.w.nextOp g c.mask).advance c.wid)) ∧
        ((u.core c.core).launchQ.length < 4 →
          let v := drainWave u c.wid
          (recordWaits v c.wid (c.sVal a) 128 = true → exec i s = .next (v.stall c)) ∧
          (recordWaits v c.wid (c.sVal a) 128 = false →
            let r := recordRead c (abortOpen c v (c.eff g)) (c.sVal a) 128
            ∀ bs, r.2 = .ok bs → Yields i s fun t => ∃ n e nd,
              (t.core c.core).launchQ = (r.1.core c.core).launchQ ++ [e] ∧ e.node = n ∧ e.wave = c.wid ∧ e.asid = c.w.asid ∧
              e.guard = (if gr = none ∧ waveClear r.1 c.wid c.w.nextOp = false then some { value := true } else gr) ∧
              e.tick = (tk.map c.sVal <|>
                if recNat bs 0x48 8 % 2 ^ 64 = 0 then none else some (BitVec.ofNat 64 (recNat bs 0x48 8))) ∧
              r.1.node? n = none ∧ t.node? n = some nd ∧ nd.addr = c.sVal a ∧ nd.asid = c.w.asid ∧ nd.wave = some c.wid ∧
              nd.bytes = bs ∧ nd.invalid = none)))) ∧
    (∀ (g : Guard) (a : Operand) (b : Fin 32), guarded (.spawn g a b) g s c fun u gr =>
      let ls := lanesOf (if gr.isSome then c.mask else c.eff g)
      (∀ x, spawnCheck s c a b ls = some x → exec (.spawn g a b) s = .next (trapNow c s x)) ∧
      (spawnCheck s c a b ls = none → c.w.noRoom (.spawn g a b) = true → exec (.spawn g a b) s = .next (awaitRoom c u)) ∧
      (spawnCheck s c a b ls = none → c.w.noRoom (.spawn g a b) = false → 64 ≤ (u.core c.core).spawnQ.length →
        exec (.spawn g a b) s = .next (u.stall c)) ∧
      (spawnCheck s c a b ls = none → c.w.noRoom (.spawn g a b) = false → (u.core c.core).spawnQ.length < 64 →
        ∀ w, u.wave? c.wid = some w → Yields (.spawn g a b) s fun t => t.mem = u.mem ∧ ∃ w' o, t.wave? c.wid = some w' ∧
          w'.stores = w.stores ++ [o] ∧ w'.v = w.v ∧ w'.s = w.s ∧ w'.p = w.p ∧ o.mask = c.eff g ∧
          (∀ l ∈ lanesOf (c.eff g), o.at_ l = (c.get s l a true).val) ∧
          o.held = (gr.isSome || !(u.core c.core).spawnQ.isEmpty) ∧
          (o.held = true → (t.core c.core).spawnQ = (u.core c.core).spawnQ ++
            [{ op := o.id, wave := c.wid, guard := gr.getD { value := true } }]))) ∧
    (∀ (g : Guard) (d : Fin 32),
      (c.guardHolds g = false → Yields (.take g d) s fun t => turns s t c c.w.advance) ∧
      (c.guardHolds g = true → c.w.noRoom (.take g d) = true → exec (.take g d) s = .next (awaitRoom c s)) ∧
      (c.guardHolds g = true → c.w.noRoom (.take g d) = false → Yields (.take g d) s fun t => ∃ w o, turns s t c w ∧
        w.loads = c.w.loads ++ [o] ∧ w.v = c.w.v ∧ w.s = c.w.s ∧ w.p = c.w.p ∧ o.instr = .take g d ∧
        o.mask = laneBit (lowestLane (c.eff g)) ∧ o.done = 0)) ∧
    ∀ (a : Fin 32),
      let i := Instr.joinw a
      let u := drainWave s c.wid
      (∀ x, valueCheck c s i = some x → exec i s = .next (trapNow c s x)) ∧
      (valueCheck c s i = none → ∀ w, u.wave? c.wid = some w →
        let waits : Prop := w.loads.any MemOp.holdsJoin = true ∨ (∃ j ∈ w.joinIncr, j.2 = (c.sVal a).toNat) ∨
          w.writing (c.sVal a) 8 = true
        (waits → exec i s = .next (u.stall c)) ∧
        (¬waits →
          let r := joinTarget u c (c.sVal a)
          (∀ b, r.2 = .error b → exec i s = .next (trapNow c r.1 { cause := b.1, addr := c.sVal a, lanes := c.mask, info := b.2 })) ∧
          ∀ pa, r.2 = .ok pa → ∀ w, r.1.wave? c.wid = some w →
            (Memory.readNat r.1.mem pa 8 = 0 → Yields i s fun t => t.mem = r.1.mem ∧
              t.wave? c.wid = some (w.abortTx 4 0 c.mask).advance ∧ ∀ x ∈ t.l1 c.core, x.dirty ≠ 0) ∧
            (Memory.readNat r.1.mem pa 8 ≠ 0 → phaseRoom r.1 c = false → exec i s = .next (r.1.stall c)) ∧
            (Memory.readNat r.1.mem pa 8 ≠ 0 → phaseRoom r.1 c = true → w.helpers = [] → w.place = .resident c.core c.slot →
              (∀ k, r.1.gang? (r.1.group c.w.group).gang = some k → k.suspendReq = false) → Yields i s fun t =>
                ∃ w', t.wave? c.wid = some w' ∧ w'.place = .joining ∧ w'.joinAddr = some (pa, c.sVal a) ∧ w'.issue = none ∧
                  w'.s = w.s ∧ w'.p = w.p)))

/-! ### Turnouts -/

/-- R379 to R384, R399, R400: RECRUIT opens a free turnout entry of its core with the recruiter's lane, iterations, chunk size
and entry address, under the entry's next generation, and writes its handle: bit 63, the entry, the generation, the helper
lanes wanted and granted, and why it got fewer. With no iteration, or with no free entry, it writes a handle that names none. -/
def Obligations.RecruitOpensATurnout : Prop :=
  ∀ (s : State) (c : Ctx), s.ctx? = some c →
    ∀ (g : Guard) (lim : RecruitLimit) (d : Fin 32) (a b : Operand) (cc : Fin 32) (win : Operand),
      let i := Instr.recruit g lim d a b cc win
      let r := lowestLane (c.eff g)
      let n := (lo32 (c.get s r a false).val).toNat
      let size := (lo32 (c.get s r b false).val).toNat
      let u := drainWave s c.wid
      let w1 := c.w.abortTx 4 0 (c.eff g)
      (∀ x, valueCheck c s i = some x → exec i s = .next (trapNow c s x)) ∧
      (valueCheck c s i = none → c.eff g = 0 → Yields i s fun t => turns s t c c.w.advance) ∧
      (valueCheck c s i = none → c.eff g ≠ 0 → n = 0 → Yields i s fun t =>
        turns s t c (w1.setS d.val (Scalar.of (BitVec.ofNat 64 (8 * 2 ^ 48)))).advance) ∧
      (valueCheck c s i = none → c.eff g ≠ 0 → n ≠ 0 → (∀ e < 8, (s.turnout c.core e).st ≠ .free) → Yields i s fun t =>
        turns s t c (w1.setS d.val (Scalar.of (BitVec.ofNat 64 (1 * 2 ^ 48)))).advance) ∧
      (valueCheck c s i = none → c.eff g ≠ 0 → n ≠ 0 → ∀ e, e < 8 → (s.turnout c.core e).st = .free →
        (∀ j < e, (s.turnout c.core j).st ≠ .free) →
        ∀ w, u.wave? c.wid = some w → w.helperWave = false → Yields i s fun t =>
          let x := t.turnout c.core e
          let want := min ((n + size - 1) / size) 128
          x.gen = (u.turnout c.core e).gen + 1 ∧ x.wave = c.wid ∧ x.lane = r ∧ x.n = n ∧ x.b = size ∧
            x.entryPc = BitVec.ofNat 48 (c.sVal cc).toNat ∧ x.st ≠ .free ∧ ∃ w' granted why, t.wave? c.wid = some w' ∧
              granted ≤ want ∧ (why = 0 ↔ granted = want) ∧ w'.sAt d.val = Scalar.of (BitVec.ofNat 64
                (2 ^ 63 + why * 2 ^ 48 + want * 2 ^ 40 + granted * 2 ^ 32 + x.gen.toNat * 2 ^ 8 + e)))

/-- R388, R391, R392, R398, R399, R401 to R404: TCLAIM gives the recruiter the next chunk of its turnout; TDONE commits the
recruiter's chunk, or takes a helper lane to its next iteration or, at the last one, to its commit; TJOIN holds the split;
TFREE frees a Complete turnout and releases any other; a waiting chunk that holds nothing back, and awaits nothing, commits;
HELPER_RELEASE asks every lane of a helper wave to leave where other work wants its core. -/
def Obligations.TurnoutsAreClaimedCommittedAndFreed : Prop :=
  (∀ (s : State) (c : Ctx), s.ctx? = some c → ∀ (g : Guard) (d a : Fin 32),
    let h := c.sVal a
    let e := h.toNat % 8
    let x := s.turnout c.core e
    let w1 := c.w.abortTx 4 0 (c.eff g)
    let w0 := c.w.abortTx 4 0 c.mask
    let bad := trapNow c s { cause := 134, info := h }
    let busy := trapNow c s { cause := 135, info := h }
    (c.guardHolds g = false → (Yields (.tclaim g d a) s fun t => turns s t c c.w.advance) ∧
      Yields (.tfree g a) s fun t => turns s t c c.w.advance) ∧
    (h.getLsbD 63 = false →
      (c.guardHolds g = true → (Yields (.tclaim g d a) s fun t => turns s t c (w1.setS d.val (Scalar.of 0)).advance) ∧
        Yields (.tfree g a) s fun t => turns s t c w1.advance) ∧
      (Yields (.tdoneRecruiter a) s fun t => turns s t c w0.advance) ∧
      Yields (.tjoin d a) s fun t => turns s t c (w0.setS d.val (Scalar.of 0)).advance) ∧
    (h.getLsbD 63 = true → (x.st = .free ∨ c.named s h = false) →
      (c.guardHolds g = true → exec (.tclaim g d a) s = .next bad ∧ exec (.tfree g a) s = .next bad) ∧
      (x.lost = false → exec (.tdoneRecruiter a) s = .next bad) ∧ exec (.tjoin d a) s = .next bad) ∧
    (h.getLsbD 63 = true → x.st ≠ .free → c.named s h = true →
      (c.guardHolds g = true → x.own.isSome = true → exec (.tclaim g d a) s = .next busy) ∧
      (c.guardHolds g = true → x.own = none → (x.st = .open_ ∨ x.st = .draining) → ∀ i y, x.claim = some (i, y) →
        Yields (.tclaim g d a) s fun t => t.mem = s.mem ∧ t.turnout c.core e = { y with own := some i } ∧
          t.wave? c.wid = some (w1.setS d.val (Scalar.of (BitVec.ofNat 64 (2 ^ 63 + (x.last i - x.first i + 1) * 2 ^ 32 + x.first i)))).advance) ∧
      (x.own = none → exec (.tdoneRecruiter a) s = .next busy) ∧
      (x.own.isSome = true → Yields (.tdoneRecruiter a) s fun t => t.mem = s.mem ∧ t.wave? c.wid = some w0.advance ∧
        (t.turnout c.core e).own = none ∧ (t.turnout c.core e).committed = x.committed + 1 ∧
        (t.turnout c.core e).st = if x.st = .draining ∧ x.committed + 1 = x.chunks then .complete else x.st) ∧
      (x.st = .releasing → exec (.tjoin d a) s = .next bad ∧ (c.guardHolds g = true → exec (.tfree g a) s = .next bad)) ∧
      (x.st ≠ .releasing → x.own.isSome = true → exec (.tjoin d a) s = .next busy) ∧
      (x.st ≠ .releasing → x.own = none → Yields (.tjoin d a) s fun t => turns s t c (w0.holdSplit c.iss (.tjoin d.val e h)).advance) ∧
      (c.guardHolds g = true → x.st = .complete → Yields (.tfree g a) s fun t => t.mem = s.mem ∧
        t.wave? c.wid = some w1.advance ∧ t.turnout c.core e = { x with st := .free }) ∧
      (c.guardHolds g = true → x.st ≠ .complete → x.st ≠ .releasing → servers s c.core e = [] → Yields (.tfree g a) s fun t =>
        t.mem = s.mem ∧ (t.turnout c.core e).st = .free ∧ (t.turnout c.core e).own = none))) ∧
  (∀ (s : State) (c : Ctx), s.ctx? = some c →
    (c.helper = false → exec .tdoneHelper s = .next (trapNow c s { cause := 2, info := c.iw.word })) ∧
    (c.helper = true → (∀ l ∈ lanesOf c.mask, ∃ h, NMap.get? c.w.helpers l = some h ∧ h.iter ≠ h.last) →
      Yields .tdoneHelper s fun t => t.mem = s.mem ∧ ∀ l ∈ lanesOf c.mask, ∀ h, NMap.get? c.w.helpers l = some h →
        t.helper? c.wid l = some { h with iter := h.iter + 1, phase := .running, rsto := 0 }) ∧
    (c.helper = true → (∀ l ∈ lanesOf c.mask, ∃ h, NMap.get? c.w.helpers l = some h ∧ h.iter = h.last) →
      c.w.leaving s = false → c.w.release &&& c.mask = 0 → Yields .tdoneHelper s fun t => t.mem = s.mem ∧
        ∀ l ∈ lanesOf c.mask, ∀ h, NMap.get? c.w.helpers l = some h → t.helper? c.wid l = some { h with phase := .waiting })) ∧
  (∀ (s : State) (wave lane : Nat) (w : Wave) (h : HelperLane), s.wave? wave = some w → NMap.get? w.helpers lane = some h →
    (h.phase = .running → h.keep = false → exec (.chunkCommit wave lane) s = .next s) ∧
    (h.phase = .waiting → h.keep = false → h.late = [] → w.loads.any (fun o => !o.scal && o.mask.getLsbD lane) = true →
      exec (.chunkCommit wave lane) s = .next s) ∧
    (∀ f fs, h.phase = .waiting → h.keep = false → h.late = f :: fs → exec (.chunkCommit wave lane) s =
      .next (helperFault s wave (waveCore s w) (waveSlot w) f.hdr f.cause f.addr lane)) ∧
    (h.phase = .waiting → h.keep = false → h.late = [] → w.loads.any (fun o => !o.scal && o.mask.getLsbD lane) = false →
      h.buf = [] → w.unacknowledged lane = false → Yields (.chunkCommit wave lane) s fun t => (t.turnout h.core h.entry).committed = (s.turnout h.core h.entry).committed + 1)) ∧
  ∀ (s : State) (wave : Nat) (w : Wave) (core slot : Nat), s.wave? wave = some w → w.helperWave = true → w.place = .resident core slot →
    (coreWanted s core = false → exec (.helperRelease wave) s = .next s) ∧
    (coreWanted s core = true → w.issue.isSome = true → Yields (.helperRelease wave) s fun t => t.mem = s.mem ∧
      ∃ w', t.wave? wave = some w' ∧ ∀ x ∈ w.helpers, x.1 < 32 → w'.release.getLsbD x.1 = true)

/-! ### The flume -/

/-- R469 to R472, R231: COLL, waiting in place where its core's queue of 16 is full or a store of the wave may still write its
descriptor, reads it, ends at once with 115 where its communicator is not the address space's, and otherwise enters the queue,
marked bad where the descriptor is not in order, and held until the wave's earlier accesses are performed; CWAIT holds the split while earlier
collectives of the communicator are out; CSTAT reads the communicator's word; CABORT ends its collectives and begins to abort. -/
def Obligations.CollectivesStartAndAreReadAndAborted : Prop :=
  ∀ (s : State) (c : Ctx), s.ctx? = some c →
    (∀ (g : Guard) (d a : Fin 32) (tk : TickArg),
      (∀ x, valueCheck c s (.coll g d a tk) = some x → exec (.coll g d a tk) s = .next (trapNow c s x)) ∧
      (valueCheck c s (.coll g d a tk) = none → guarded (.coll g d a tk) g s c fun u gr0 =>
        let v := drainWave u c.wid
        let gr := if gr0 = none ∧ waveClear v c.wid c.w.nextOp = false then some { value := true } else gr0
        let r := recordRead c (if gr = none then releaseDevice v (clusterOf c.core) else v) (c.sVal a) 64
        ((16 ≤ (u.core c.core).flumeQ.length ∨ recordWaits v c.wid (c.sVal a) 64 = true) →
          exec (.coll g d a tk) s = .next (v.stall c)) ∧
        ((u.core c.core).flumeQ.length < 16 → recordWaits v c.wid (c.sVal a) 64 = false → ∀ bs, r.2 = .ok bs →
            let k := (readColl bs).comm % 16
            let e := commEntry r.1 k
            (gr = none → (e.ok = false ∨ e.casid ≠ c.w.asid) → exec (.coll g d a tk) s =
              .next ((finishToken (pendToken (abortOpen c r.1 (c.eff g)) c.wid d.val) c.wid d.val
                { cause := 115, info := BitVec.ofNat 64 k } true).advance c.wid)) ∧
            (e.ok = true → e.casid = c.w.asid → (readColl bs).isPlane = false → Yields (.coll g d a tk) s fun t =>
              t.mem = r.1.mem ∧ (∀ j, j ≠ c.core → t.core j = r.1.core j) ∧ ∃ q,
                (t.core c.core).flumeQ = (r.1.core c.core).flumeQ ++ [q] ∧ q.wave = c.wid ∧ q.core = c.core ∧
                q.asid = c.w.asid ∧ q.token = d ∧ q.comm = k ∧ q.desc = bs ∧ q.addr = c.sVal a ∧ q.tick = tk.map c.sVal ∧
                q.guard = gr ∧ q.after = c.w.nextOp ∧ q.early = none ∧ (q.bad = none ↔ (readColl bs).ok e [] = true) ∧
                ∀ w, r.1.wave? c.wid = some w → t.wave? c.wid = some ({ (w.abortTx 4 0 (c.eff g)).setS d.val Scalar.pend with
                  colls := w.colls ++ [(k, q.id)] } : Wave).advance)))) ∧
    (∀ a : Fin 32,
      let x := c.sVal a
      (15 < x.toNat → exec (.cwait a) s = .next (trapNow c s { cause := 115, info := x })) ∧
      (x.toNat ≤ 15 → Yields (.cwait a) s fun t => turns s t c
        ((c.w.abortTx 4 0 c.mask).holdSplit c.iss (.cwait x.toNat s.stamp)).advance) ∧
      ∀ w n, holdOver s c.core w (.cwait x.toNat n) = true ↔ ∀ y ∈ w.colls, y.1 = x.toNat → n ≤ y.2) ∧
    (∀ (g : Guard) (d a : Fin 32),
      let x := c.sVal a
      (c.guardHolds g = false → Yields (.cstat g d a) s fun t => turns s t c c.w.advance) ∧
      (c.guardHolds g = true → 15 < x.toNat → exec (.cstat g d a) s = .next (trapNow c s { cause := 115, info := x })) ∧
      (c.guardHolds g = true → x.toNat ≤ 15 → Yields (.cstat g d a) s fun t => ∃ v : Word64,
        turns s t c ((c.w.abortTx 4 0 (c.eff g)).setS d.val (Scalar.of v)).advance ∧
        v.toNat / 2 ^ 32 = (s.comm x.toNat).ndone.toNat ∧ v.toNat / 2 ^ 24 % 2 ^ 8 = (s.comm x.toNat).last.toNat ∧
        v.toNat / 2 ^ 20 % 2 ^ 4 = min 15 (s.comm x.toNat).queue.length ∧
        v.toNat / 2 ^ 17 % 2 ^ 3 = CommState.code (commState s x.toNat) ∧ v.getLsbD 16 = (commEntry s x.toNat).en ∧
        v.toNat / 2 ^ 13 % 2 ^ 3 = (commEntry s x.toNat).prio ∧ v.toNat % 2 ^ 13 = (commEntry s x.toNat).my % 1024)) ∧
    ∀ (g : Guard) (d a : Fin 32),
      let x := c.sVal a
      let e := commEntry s x.toNat
      let qs := (s.comm x.toNat).queue ++ inCores s x.toNat
      (c.guardHolds g = false → Yields (.cabort g d a) s fun t => turns s t c c.w.advance) ∧
      (c.guardHolds g = true → (15 < x.toNat ∨ e.ok = false ∨ e.casid ≠ c.w.asid) →
        exec (.cabort g d a) s = .next (trapNow c s { cause := 115, info := x })) ∧
      (c.guardHolds g = true → x.toNat ≤ 15 → e.ok = true → e.casid = c.w.asid → Yields (.cabort g d a) s fun t =>
        t.mem = s.mem ∧ (t.comm x.toNat).queue = [] ∧ (t.comm x.toNat).rx = [] ∧
        (qs ≠ [] → (t.comm x.toNat).st = (if e.peers = [] then .idle else .aborting) ∧ (t.comm x.toNat).acks = e.peers) ∧
        inCores t x.toNat = [] ∧ ∃ w, t.wave? c.wid = some w ∧
          w.sAt d.val = Scalar.of (BitVec.ofNat 64 (bit (commActive s x.toNat) * 2 ^ 16 +
            min 255 (commLocks s x.toNat) * 2 ^ 8 + min 255 qs.length)))

/-- R451, R454, R460 to R468: a collective leaves its core's queue for its communicator's; the headers of all ranks start it, or
end it with 114; a chunk takes a slot, a credit and its locks, and gives slot and locks back; chunks received take a
buffer each; a credit is one more, a resend puts a sent chunk first again, an abort of a peer, or its silence beyond TMO, ends
the collectives with 117 or 116, and the last acknowledgement of an abort leaves the communicator Idle. -/
def Obligations.CommunicatorsRunTheirCollectives : Prop :=
  (∀ (s : State) (core : Nat) (q : Coll) (rest : List Coll), (s.core core).flumeQ = q :: rest →
    let moved := (s.modCore core fun k => { k with flumeQ := rest }).modComm q.comm fun k => { k with queue := k.queue ++ [q] }
    ((q.guard.isSome = true ∨ 16 ≤ (s.comm q.comm).queue.length ∨ (∃ x, q.tick = some x ∧ s.tick.toNat < x.toNat)) →
      exec (.collDequeue core) s = .next s) ∧
    (q.guard = none → (s.comm q.comm).queue.length < 16 → (∀ x, q.tick = some x → x.toNat ≤ s.tick.toNat) →
      (commState s q.comm = .matching ∨ commState s q.comm = .running → exec (.collDequeue core) s = .next moved) ∧
      (commState s q.comm = .idle → (s.comm q.comm).queue = [] → exec (.collDequeue core) s =
        .next (moved.modComm q.comm fun k => { k with st := .matching, run := { lastRx := s.tick } })))) ∧
  (∀ (s : State) (k : Nat) (q : Coll) (rest : List Coll), (s.comm k).queue = q :: rest → commState s k = .matching →
    let e := commEntry s k
    ∀ hs : List (Nat × CollHeader),
      ((∃ r ∈ e.peers, ∀ h ∈ hs, h.1 ≠ r) → exec (.flumeHeaderExchange k hs) s = .next s) ∧
      ((∀ r ∈ e.peers, ∃ h ∈ hs, h.1 = r) →
        (q.bad = none → (∃ h ∈ hs, h.1 ∈ e.peers ∧ h.2 ≠ q.header) →
          exec (.flumeHeaderExchange k hs) s = .next (closeColl s k { cause := 114, addr := q.addr, info := BitVec.ofNat 64 k })) ∧
        (∀ f, q.bad = some f → exec (.flumeHeaderExchange k hs) s = .next (closeColl s k f)) ∧
        (q.bad = none → (∀ h ∈ hs, h.1 ∈ e.peers → h.2 = q.header) →
          let d := readColl q.desc
          let ms := d.moduli q.mset
          let narrow : Prop := d.dtype = 0x10 → ∀ m ∈ ms, m ≤ 256
          let arms : Bool := bitOf d.fctl 1 && !d.barrier
          let goes (ls : List Nat) : Prop := Yields (.flumeHeaderExchange k hs) s fun t => t.mem = s.mem ∧
            (t.comm k).st = .running ∧ (t.comm k).queue = q :: rest ∧ (t.comm k).run.armed = ls ∧
            ∀ x ∈ (t.comm k).run.todo, x.comm = k ∧ x.peer ∈ e.peers ∧ x.len ≤ d.chunk
          (¬narrow → exec (.flumeHeaderExchange k hs) s = .next (closeColl s k { cause := 79, info := BitVec.ofNat 64 k })) ∧
          (narrow → arms = false → goes []) ∧
          (narrow → arms = true → (∀ u ls, armAll s q d ms.length (d.dstElems e) = (u, .ok ls) → goes ls) ∧
            ∀ u f, armAll s q d ms.length (d.dstElems e) = (u, .error f) →
              exec (.flumeHeaderExchange k hs) s = .next (failColl u k f))))) ∧
  (∀ (s : State) (k : Nat) (q : Coll) (rest : List Coll) (f : LateFault), (s.comm k).queue = q :: rest → rest = [] →
    let t := closeColl s k f
    (t.comm k).queue = [] ∧ (t.comm k).st = .idle ∧ (t.comm k).rx = [] ∧ (t.comm k).ndone = (s.comm k).ndone + 1 ∧
      (t.comm k).last = f.cause ∧ commLocks t k = 0 ∧ ∀ w, s.wave? q.wave = some w → w.alive = true →
        ∃ w', t.wave? q.wave = some w' ∧ w'.sAt q.token.val = Scalar.of (BitVec.ofNat 64 f.cause.toNat) ∧
          w'.colls = w.colls.filter fun x => x.2 ≠ q.id) ∧
  (∀ (s : State) (t k : Nat) (q : Coll) (x : Chunk), (s.tower t).gone = false →
    ((s.tower t).slotA = none ∨ (s.tower t).slotB = none) → grantChoice s t = some (k, q, x) → x.comm = k →
    let e := commEntry s k
    (routeUp s (e.device s x.peer) = false → exec (.flumeChunkGrant t) s =
      .next (failColl s k { cause := 116, info := BitVec.ofNat 64 k })) ∧
    (routeUp s (e.device s x.peer) = true → Yields (.flumeChunkGrant t) s fun u => u.mem = s.mem ∧
      NMap.getD (u.comm k).credits x.peer 0 + 1 = NMap.getD (s.comm k).credits x.peer 0 ∧
      (u.comm k).run.todo = (s.comm k).run.todo.erase x ∧
      ((s.tower t).slotA = none → (u.tower t).slotA = some x ∧ (u.tower t).slotB = (s.tower t).slotB) ∧
      ((s.tower t).slotA.isSome = true → (u.tower t).slotB = some x ∧ (u.tower t).slotA = (s.tower t).slotA))) ∧
  (∀ (s : State) (t : Nat) (b : Bool) (q : Coll) (x : Chunk),
    let slot (u : State) (b : Bool) : Option Chunk := if b then (u.tower t).slotB else (u.tower t).slotA
    let sends (v : State) (bs : List Byte) : Prop := Yields (.flumeChunkDone t b) s fun u => u.mem = v.mem ∧
      slot u b = none ∧ slot u (!b) = slot v (!b) ∧
      (u.comm x.comm).run.sent = (v.comm x.comm).run.sent ++ [{ x with data := some bs }] ∧
      ∀ l ∈ (u.core q.core).locks, l.owner ≠ .flume x.comm x.id
    slot s b = some x → (∃ rest, (s.comm x.comm).queue = q :: rest) →
      (∀ bs, x.data = some bs → sends s bs) ∧
      (x.data = none → let r := flumeReads s x.comm q.core q.asid (chunkPlaces (commEntry s x.comm) q x)
        (∀ bs, r.2 = .ok bs → sends r.1 bs) ∧
        ∀ f, r.2 = .error f → exec (.flumeChunkDone t b) s = .next (failColl r.1 x.comm f))) ∧
  (∀ (s : State) (k r off : Nat) (data : List Byte) (q : Coll) (rest : List Coll), (s.comm k).queue = q :: rest →
    commState s k = .running →
    let d := readColl q.desc
    let np := (d.moduli q.mset).length
    ((s.comm k).rx.length = 2 → ∀ ok, exec (.flumeChunkReceive k r off data ok) s = .next s) ∧
    ((s.comm k).rx.length < 2 → r ∈ senders (commEntry s k) d → (r, off) ∉ (s.comm k).run.recvd → off % d.chunk = 0 →
      off < d.span np d.n → data.length = d.dataLen np off (min d.chunk (d.span np d.n - off)) →
      (Yields (.flumeChunkReceive k r off data true) s fun t => t.mem = s.mem ∧
        (t.comm k).rx = (s.comm k).rx ++ [{ rank := r, off := off, data := data }] ∧ (t.comm k).run.lastRx = s.tick) ∧
      ((r, off) ∉ (s.comm k).run.retried → Yields (.flumeChunkReceive k r off data false) s fun t =>
        (t.comm k).rx = (s.comm k).rx ∧ (t.comm k).run.retried = (s.comm k).run.retried ++ [(r, off)]) ∧
      ((r, off) ∈ (s.comm k).run.retried → exec (.flumeChunkReceive k r off data false) s =
        .next (failColl (arrived s k) k { cause := 120, info := BitVec.ofNat 64 k })))) ∧
  (∀ (s : State) (k : Nat) (q : Coll) (rest : List Coll), (s.comm k).queue = q :: rest → commState s k = .running →
    let e := commEntry s k
    (∀ x xs, (s.comm k).rx = x :: xs → exec (.flumeReceiveDrain k) s = .next (drainRx s k e q x xs)) ∧
    ((s.comm k).rx = [] → mayComplete s k e q = true → exec (.flumeReceiveDrain k) s = .next (completeColl s k q)) ∧
    ((s.comm k).rx = [] → mayComplete s k e q = false → partReady s k e q = true → (s.comm k).run.localDone = false →
      exec (.flumeReceiveDrain k) s = .next (localPart s k e q)) ∧
    ∀ r ∈ e.peers, (∀ p ∈ e.peers, p ≠ r → p ∈ (s.comm k).run.wrote) → (s.comm k).run.localDone = true →
      partReady s k e q = true → ∃ u, u.mem = s.mem ∧ exec (.flumeRankDstWritten k r) s = .next (completeColl u k q)) ∧
  (∀ (s : State) (k r : Nat),
    let e := commEntry s k
    (commState s k ≠ .disabled → r ∈ e.peers → NMap.getD (s.comm k).credits r 0 < 2 → Yields (.flumeCreditGrant k r) s fun t =>
      NMap.getD (t.comm k).credits r 0 = NMap.getD (s.comm k).credits r 0 + 1 ∧ (t.comm k).run.lastRx = s.tick) ∧
    (∀ off x, commState s k = .running → (s.comm k).run.sent.find? (fun x => x.peer = r && x.off = off) = some x →
      Yields (.flumeResendRequest k r off) s fun t => (t.comm k).run.todo = x :: (s.comm k).run.todo ∧
        (t.comm k).run.sent = (s.comm k).run.sent.erase x) ∧
    (r ∈ e.peers → commActive s k = true → exec (.flumeAbortMessage k r) s =
      .next (failColl (arrived s k) k { cause := 117, info := BitVec.ofNat 64 k })) ∧
    (commState s k = .aborting → (∀ x ∈ (s.comm k).acks, x = r) → (s.comm k).queue = [] →
      Yields (.flumeAbortAcknowledged k r) s fun t => (t.comm k).st = .idle ∧ (t.comm k).acks = []) ∧
    (commState s k = .aborting → (∃ x ∈ (s.comm k).acks, x ≠ r) → Yields (.flumeAbortAcknowledged k r) s fun t =>
      (t.comm k).st = (s.comm k).st ∧ (t.comm k).acks = (s.comm k).acks.filter (· ≠ r)) ∧
    (2 ≤ e.nrank → e.tmo ≠ 0 → (s.comm k).run.lastRx.toNat + e.tmo * 1024 < s.tick.toNat → commActive s k = true →
      exec (.flumePeerTimeout k) s = .next (failColl s k { cause := 116, info := BitVec.ofNat 64 k })))

/-! ### Events of the wave engine -/

/-- R46 to R50, R113, R173, R207, R436: a quarter with a free port issues: of the waves that can issue, and have not yielded or
have had no start for 240 cycles (log entry 71), it takes one of the highest level; a clause whose fetch or checks fail, or
whose transfer goes to a bad target, traps and issues nothing; one whose checks pass begins to issue from its first word, and
one that a BNDWT held goes on where it stood. -/
def Obligations.ClausesIssueByLevelAfterTheirChecks : Prop :=
  (∀ (s : State) (core q : Nat), core < 256 → q < 4 →
    ((NMap.get? (s.core core).port q).isSome = true → exec (.clauseIssue core q) s = .next s) ∧
    ((NMap.get? (s.core core).port q) = none → let u := wakeQuarter s core q
      (candidates u core q = [] → exec (.clauseIssue core q) s = .next u) ∧
      ∀ x, bestOf u (candidates u core q) = some x →
        exec (.clauseIssue core q) s = .next (startClause u core x.1 x.2.1 x.2.2.2.1 x.2.2.2.2))) ∧
  (∀ (s : State) (cs : List (Nat × Nat × Wave × Nat × Split)) (x : Nat × Nat × Wave × Nat × Split), bestOf s cs = some x →
    let fresh (w : Wave) : Prop := w.yielded = false ∨ w.started + 240 ≤ s.cycle
    x ∈ cs ∧ ∀ y ∈ cs, fresh y.2.2.1 → fresh x.2.2.1 ∧ issueLevel s y.2.2.1 ≤ issueLevel s x.2.2.1 ∧
      (y.2.2.1.helperWave = false → issueLevel s y.2.2.1 = y.2.2.1.level)) ∧
  ∀ (s : State) (c slot wid e : Nat) (sp : Split) (w : Wave), (leaveLoop s wid e sp).wave? wid = some w →
    let w1 : Wave := { w with lastSplit := some e, yielded := false, started := (leaveLoop s wid e sp).cycle }
    let v := ((leaveLoop s wid e sp).modWave wid fun w =>
      { w with lastSplit := some e, yielded := false, started := (leaveLoop s wid e sp).cycle }).modCore c fun k =>
      { k with lastWave := NMap.set k.lastWave (quarterOf slot) slot }
    let r : State × Except TrapInfo (Header × List Word64) := match sp.fetched with
      | some x => (v, .ok x)
      | none => fetchClause v c w.asid sp.pc
    let issues (t : State) (i : Issue) : Prop := t.mem = s.mem ∧ NMap.get? (t.core c).port (quarterOf slot) = some slot ∧
      ∃ n, t.wave? wid = some { w1 with
        issue := some i, splits := NMap.set w.splits e { sp with state := .issuing, fetched := none, cont := none, issued := n } };
    (∀ i, sp.cont = some i → issues (startClause s c slot wid e sp) { i with mask := i.mask &&& sp.mask }) ∧
    (∀ x, sp.cont = none → r.2 = .error x → startClause s c slot wid e sp = issueTrap r.1 wid c slot e sp.pc x) ∧
    ∀ h ws, sp.cont = none → r.2 = .ok (h, ws) → (sp.helper = true ∨ watched r.1 c 50 sp.pc.toNat = false) → lateDue w1 sp h ws = false →
      let ctx : Ctx := { wid := wid, w := w1, core := c, slot := slot, iss := newIssue e sp h ws r.1.cycle, mask := sp.mask
                         iw := { word := 0, hdr := sp.pc, idx := 0 }, helper := sp.helper };
      (∀ x, checkWords r.1 ctx h.cls [] ws = some x → startClause s c slot wid e sp = issueTrap r.1 wid c slot e sp.pc x) ∧
      (checkWords r.1 ctx h.cls [] ws = none → ∀ x, (checkTransfer r.1 ctx ws).2 = some x →
        startClause s c slot wid e sp = issueTrap (checkTransfer r.1 ctx ws).1 wid c slot e sp.pc x) ∧
      (checkWords r.1 ctx h.cls [] ws = none → (checkTransfer r.1 ctx ws).2 = none → h.tkchk = false →
        issues (startClause s c slot wid e sp) (newIssue e sp h ws r.1.cycle))

/-- R37, R38, R40, R35, R130, R167, R174, R441 to R443, R488, R129: a guard resolved at the head of a queue lets the command stand or
makes it nothing, with a false one's token at 0, and waits while a write of its predicate is owed; at a start tick, and where a
lock stall is over, the engine does what it does at its own start; a nap ends; a spin mark falls after 4,096 cycles; a page walk
fills the TLBs; a translation is dropped for room; a soft error flips bits of a register and leaves its residue code, flips a
predicate, changes a residue of a tile, or waits for a second issue under VERIFY; a bank's new fill is done (log entry 55). -/
def Obligations.WaveAndTranslationEventsAct : Prop :=
  (∀ (s : State) (gk : Nat) (g : Group) (e : MxEntry) (gr : GuardRef), s.group? gk = some g →
    g.mq.find? (fun e => e.state = .waiting) = some e → e.guard = some gr →
    let become (f : MxEntry → MxEntry) : List MxEntry := g.mq.map fun x => if x.id = e.id then f x else x
    (s.resolved gr = none → exec (.guardResolve (.matrix gk)) s = .next s) ∧
    (gr.ops = [] → gr.value = true → gr.cause = none → Yields (.guardResolve (.matrix gk)) s fun t => t.mem = s.mem ∧
      t.group? gk = some { g with mq := become fun x => { x with guard := none } }) ∧
    (gr.ops = [] → gr.value = false → e.batch.isSome = true → Yields (.guardResolve (.matrix gk)) s fun t => t.mem = s.mem ∧
      t.group? gk = some { g with mq := become fun x => { x with guard := none, state := .complete } })) ∧
  (∀ (s : State) (core : Nat) (q : SluiceCmd) (rest : List SluiceCmd) (gr : GuardRef), (s.core core).sluiceQ = q :: rest →
    q.guard = some gr → gr.ops = [] →
    (gr.value = true → gr.cause = none → Yields (.guardResolve (.sluice core)) s fun t => t.mem = s.mem ∧
      (t.core core).sluiceQ = { q with guard := none } :: rest) ∧
    (gr.value = false → gr.cause = none → Yields (.guardResolve (.sluice core)) s fun t => t.mem = s.mem ∧
      (t.core core).sluiceQ = rest ∧ ∀ wid w, q.wave = some wid → s.wave? wid = some w → w.alive = true →
        t.wave? wid = some (w.setS q.token.val (Scalar.of 0)))) ∧
  (∀ (s : State) (core : Nat) (q : SpawnCmd) (rest : List SpawnCmd), (s.core core).spawnQ = q :: rest →
    q.guard.ops = [] →
    (q.guard.value = true → q.guard.cause = none → Yields (.guardResolve (.deque core)) s fun t =>
      (t.core core).spawnQ = rest ∧ t.wave? q.wave = (s.wave? q.wave).map (fun w => w.endHold q.op true) ∧
      ∀ w, s.wave? q.wave = some w → ∀ o ∈ w.stores, o.mask ≠ 0 → o.isSpawn = true → o.born = q.op →
        ({ o with held := false } : MemOp) ∈ (w.endHold q.op true).stores) ∧
    (q.guard.value = false → Yields (.guardResolve (.deque core)) s fun t => (t.core core).spawnQ = rest ∧
      t.wave? q.wave = (s.wave? q.wave).map (fun w => w.endHold q.op false) ∧
      ∀ w, s.wave? q.wave = some w → ∀ o ∈ (w.endHold q.op false).stores, o.isSpawn = true → o.born ≠ q.op)) ∧
  (∀ (s : State) (core : Nat) (e : LaunchEntry) (rest : List LaunchEntry) (gr : GuardRef), (s.core core).launchQ = e :: rest →
    e.guard = some gr → gr.ops = [] →
    (gr.value = true → gr.cause = none → waveClear s e.wave e.after = false → exec (.guardResolve (.launch core)) s = .next s) ∧
    (gr.value = true → gr.cause = none → waveClear s e.wave e.after = true → exec (.guardResolve (.launch core)) s =
      .next (launchProceeds (s.modCore core fun k => { k with launchQ := { e with guard := none } :: rest }) core e.wave e.node)) ∧
    ((gr.value = false ∨ gr.cause.isSome = true) → Yields (.guardResolve (.launch core)) s fun t => t.mem = s.mem ∧
      (t.core core).launchQ = rest ∧ t.node? e.node = none)) ∧
  (∀ (s : State) (core : Nat) (q : Coll) (rest : List Coll) (gr : GuardRef), (s.core core).flumeQ = q :: rest →
    q.guard = some gr → gr.ops = [] →
    (gr.value = true → gr.cause = none → waveClear s q.wave q.after = false → exec (.guardResolve (.flume core)) s = .next s) ∧
    (gr.value = true → gr.cause = none → waveClear s q.wave q.after = true → q.early = none →
      Yields (.guardResolve (.flume core)) s fun t => (t.core core).flumeQ = { q with guard := none } :: rest) ∧
    (gr.value = false → gr.cause = none → Yields (.guardResolve (.flume core)) s fun t => t.mem = s.mem ∧
      (t.core core).flumeQ = rest ∧ ∀ w, s.wave? q.wave = some w → w.alive = true →
        ∃ w', t.wave? q.wave = some w' ∧ w'.sAt q.token.val = Scalar.of 0)) ∧
  (∀ (s : State) (core : Nat), exec (.startTickReached (.sluice core)) s = exec (.sluiceProgramStart core) s ∧
    exec (.startTickReached (.launch core)) s = exec (.launchAccept core) s ∧
    exec (.startTickReached (.flume core)) s = exec (.collDequeue core) s ∧
    exec (.engineLockStallResume (.matrix core)) s = exec (.matrixEntryStart core) s ∧
    exec (.engineLockStallResume (.deco core)) s = exec (.decoBlockSelect core) s ∧
    exec (.engineLockStallResume (.flume core)) s = exec (.flumeChunkGrant core) s ∧
    exec (.engineLockStallResume (.sluice core)) s = .next { s with agenda := .sluice core :: s.agenda } ∧
    exec (.startTickReached (.matrix core)) s = .next s ∧ exec (.startTickReached (.deque core)) s = .next s) ∧
  (∀ (s : State) (wave split n : Nat) (w : Wave) (sp : Split), s.wave? wave = some w → NMap.get? w.splits split = some sp →
    sp.state = .held (.nap n) →
    (s.cycle < n → exec (.napExpire wave split) s = .next s) ∧
    (n ≤ s.cycle → Yields (.napExpire wave split) s fun t => t.mem = s.mem ∧
      t.wave? wave = some { w with splits := NMap.set w.splits split { sp with state := .ready } })) ∧
  (∀ (s : State) (gk : Nat) (g : Group), s.group? gk = some g → g.lowered = true → g.spinMany = true →
    (s.cycle < g.loweredAt + 4096 → exec (.spinMarkTimeout gk) s = .next s) ∧
    (g.loweredAt + 4096 ≤ s.cycle → Yields (.spinMarkTimeout gk) s fun t => t.mem = s.mem ∧
      t.group? gk = some { g with lowered := false })) ∧
  (∀ (s : State) (core asid : Nat) (va : VAddr), wantsPage s core asid va.toNat = true →
    Yields (.pageWalk core asid va none) s fun t => t.mem = s.mem ∧ t.waves = s.waves ∧
      ∀ x, (lookup s core asid va.toNat .read).2 = .ok x → x.asid = asid ∧ x.va ≤ va.toNat ∧ va.toNat < x.va + x.size ∧
        tlbFind (t.core core).tlb asid va.toNat = some x) ∧
  (∀ (s : State) (core idx : Nat), (Yields (.translationRemovedForCapacity core false idx) s fun t => t.mem = s.mem ∧
      (t.core core).tlb = (s.core core).tlb.eraseIdx idx ∧ t.clusters = s.clusters) ∧
    Yields (.translationRemovedForCapacity core true idx) s fun t => t.mem = s.mem ∧ t.cores = s.cores ∧
      (t.cluster (clusterOf core)).tlb = (s.cluster (clusterOf core)).tlb.eraseIdx idx) ∧
  (∀ (s : State) (wave r l : Nat) (flip : Word32) (w : Wave), s.wave? wave = some w → r < w.allot → l < 32 →
    Yields (.softError (.vreg wave r l flip)) s fun t => ∃ w', t.wave? wave = some w' ∧
      (w'.vAt r l).val = (w.vAt r l).val ^^^ flip ∧ (w'.vAt r l).code = (w.vAt r l).code ∧ w'.s = w.s ∧ w'.p = w.p) ∧
  (∀ (s : State) (wave : Nat) (w : Wave), s.wave? wave = some w →
    (∀ m, Yields (.softError (.verify wave m)) s fun t => t.mem = s.mem ∧ t.wave? wave = some { w with upset := w.upset ||| m }) ∧
    (∀ n flip, n < 32 → Yields (.softError (.sreg wave n flip)) s fun t => t.mem = s.mem ∧
      t.wave? wave = some (w.setS n { w.sAt n with val := (w.sAt n).val ^^^ flip })) ∧
    ∀ p flip, p < 7 → Yields (.softError (.pred wave p flip)) s fun t => t.mem = s.mem ∧
      t.wave? wave = some (w.setP p (w.pAt p ^^^ flip))) ∧
  (∀ (s : State) (gk n k h : Nat) (v : BitVec 9) (g : Group) (t : Tile), s.group? gk = some g → NMap.get? g.tiles n = some t →
    k < 4096 → h < 10 → Yields (.softError (.residue gk n k h v)) s fun u => u.mem = s.mem ∧ ∃ g' t', u.group? gk = some g' ∧
      NMap.get? g'.tiles n = some t' ∧ t'.at_ k = { t.at_ k with res := (t.at_ k).res.set h v } ∧
      ∀ j, j ≠ k → t'.at_ j = t.at_ j) ∧
  ∀ (s : State) (core bank : Nat), bank < 8 → (s.core core).bankFill.getLsbD bank = true →
    Yields (.bankFillDone core bank) s fun t => t.mem = s.mem ∧ (t.core core).bankFill.getLsbD bank = false ∧
      ∀ b, b ≠ bank → (t.core core).bankFill.getLsbD b = (s.core core).bankFill.getLsbD b

/-! ### System registers -/

/-- R432, R434, R435, R107, R217, R220, R412, R415, R477, R478, R482, R496, R500 to R502: SRD and SWR of a register that the wave may
not access trap with 15, and numbers from 0x100 up are for ASID 0; SRD reads at issue as a load; SWR writes at issue, or traps with
18 where the value breaks the register's limits, with 15 where it changes a read-only bit (log entry 26); a host's write is
accepted, recorded in SVCSTAT.ERR where it breaks a limit, and of no effect where the register is a wave's or read-only. -/
def Obligations.SystemRegistersAreReadAndWritten : Prop :=
  (∀ (w : Wave) (n : BitVec 16) (wr vec : Bool), (256 ≤ n.toNat → w.asid ≠ 0 → regDenied w n wr vec = none) ∧
    (regOf n.toNat = none → regDenied w n wr vec = none) ∧
    (∀ r, regOf n.toNat = some r → (SysReg.hostOnly r = true ∨ SysReg.perLane r ≠ vec ∨ (wr = true ∧ SysReg.readOnly r = true)) →
      regDenied w n wr vec = none)) ∧
  (∀ (s : State) (c : Ctx), s.ctx? = some c →
    (∀ (g : Guard) (d : Operand) (n : BitVec 16),
      let eff := c.eff g
      let bad := trapNow c s { cause := 15, info := BitVec.ofNat 64 n.toNat }
      (eff = 0 → Yields (.srd g d n) s fun t => turns s t c c.w.advance) ∧
      (eff ≠ 0 → regDenied c.w n false d.isV = none → exec (.srd g d n) s = .next bad) ∧
      ∀ r, eff ≠ 0 → regDenied c.w n false d.isV = some r →
        (c.w.noRoom (.srd g d n) = true → exec (.srd g d n) s = .next (awaitRoom c s)) ∧
        (c.w.noRoom (.srd g d n) = false → Yields (.srd g d n) s fun t => t.mem = s.mem ∧ t.groups = s.groups ∧
          t.cores = s.cores ∧ (∀ k, k ≠ c.wid → t.wave? k = s.wave? k) ∧ ∃ w o, t.wave? c.wid = some w ∧
            w.loads = c.w.loads ++ [o] ∧ w.v = c.w.v ∧ w.s = c.w.s ∧ w.p = c.w.p ∧ o.instr = .srd g d n ∧ o.done = o.mask ∧
            (d.isV = true → o.mask = eff ∧ ∀ l ∈ lanesOf eff, o.datum l = BitVec.ofNat 128 (laneRead c.w r l).toNat) ∧
            (d.isV = false → o.mask = laneBit (lowestLane eff) ∧
              o.datum (lowestLane eff) = BitVec.ofNat 128 (regRead c s r).toNat))) ∧
    ((s.group? c.w.group).isSome = true → regRead c s .mode = (s.group c.w.group).mode ∧
      regRead c s .seed = (s.group c.w.group).seed ∧ regRead c s .tvec = (s.group c.w.group).tvec ∧
      regRead c s .tick = s.tick ∧ regRead c s .where_ = BitVec.ofNat 64 (c.core + c.slot * 2 ^ 8 + c.w.asid * 2 ^ 16) ∧
      regRead c s .astbase = s.dev.astBase ∧ regRead c s .tpc = c.w.frame.tpc ∧ regRead c s .taddr = c.w.frame.taddr ∧
      regRead c s .tinfo = c.w.frame.tinfo ∧ regRead c s .contain = (s.core c.core).contain) ∧
    ∀ (g : Guard) (k : Fin 32) (n : BitVec 16),
      let i := Instr.swr g (.s k) n
      let v := (c.get s (lowestLane (c.eff g)) (.s k) true).val
      let trap (x : BitVec 8) : State := trapNow c s { cause := x, info := BitVec.ofNat 64 n.toNat }
      let w1 := (c.w.abortTx 4 0 (c.eff g)).advance
      (c.eff g = 0 → Yields i s fun t => turns s t c c.w.advance) ∧
      (c.eff g ≠ 0 → regDenied c.w n true false = none → exec i s = .next (trap 15)) ∧
      (c.eff g ≠ 0 → n = 0x10 →
        (badMode v = true → exec i s = .next (trap 18)) ∧
        (badMode v = false → Yields i s fun t => turnsBoth s t c w1 fun x => { x with mode := v })) ∧
      (c.eff g ≠ 0 → n = 0x11 → Yields i s fun t => turnsBoth s t c w1 fun x => { x with seed := v }) ∧
      (c.eff g ≠ 0 → n = 0x26 → Yields i s fun t => turnsBoth s t c w1 fun x => { x with tvec := v }) ∧
      (∀ j : Fin 4, c.eff g ≠ 0 → n = 0x28 + BitVec.ofNat 16 j.val → Yields i s fun t =>
        turns s t c ({ c.w.abortTx 4 0 (c.eff g) with frame := { c.w.frame with scr := NMap.set c.w.frame.scr j.val v } } : Wave).advance) ∧
      (c.eff g ≠ 0 → n = 0x30 → c.w.frame.inh = true →
        (64 ≤ v.toNat → exec i s = .next (trap 18)) ∧
        (v.toNat < 64 → Yields i s fun t => turns s t c
          ({ c.w.abortTx 4 0 (c.eff g) with frame := { c.w.frame with rqsel := v.toNat } } : Wave).advance)) ∧
      (c.eff g ≠ 0 → c.w.asid = 0 → n = 0x100 → Yields i s fun t => t.mem = s.mem ∧ t.dev = { s.dev with astBase := v } ∧
        t.wave? c.wid = some w1) ∧
      (c.eff g ≠ 0 → c.w.asid = 0 → n = 0x140 →
        (v.toNat < 1500 ∨ 3800 < v.toNat → exec i s = .next (trap 18)) ∧
        (1500 ≤ v.toNat → v.toNat ≤ 3800 → Yields i s fun t => t.dev = { s.dev with pwrCap := v } ∧ t.wave? c.wid = some w1)) ∧
      (∀ r, c.eff g ≠ 0 → regDenied c.w n true false = some r → SysReg.ofWave r = false →
        let u := abortOpen c s (c.eff g)
        let x := unitWrite u c.core (towerOf c.core) r v
        (roOk (unitRead u c.core (towerOf c.core) r) r v = false → exec i s = .next (trap 15)) ∧
        (roOk (unitRead u c.core (towerOf c.core) r) r v = true → x.2.isSome = true → exec i s = .next (trap 18)) ∧
        (roOk (unitRead u c.core (towerOf c.core) r) r v = true → x.2 = none → Yields i s fun t => t = x.1.advance c.wid)) ∧
      (c.eff g ≠ 0 → c.w.frame.inh = true →
        (regOf n.toNat = some .tpc → Yields i s fun t => turns s t c
          ({ c.w.abortTx 4 0 (c.eff g) with frame := c.w.frame.setTpc v } : Wave).advance) ∧
        (regOf n.toNat = some .rqmask →
          (c.w.frame.entry = none → exec i s = .next (trap 18)) ∧
          ∀ e, c.w.frame.entry = some e →
            (v &&& ~~~(BitVec.ofNat 64 e.op.mask.toNat) ≠ 0 → exec i s = .next (trap 18)) ∧
            (v &&& ~~~(BitVec.ofNat 64 e.op.mask.toNat) = 0 → Yields i s fun t => turns s t c
              ({ c.w.abortTx 4 0 (c.eff g) with
                frame := c.w.frame.modEntry fun o => { o with mask := BitVec.ofNat 32 v.toNat } } : Wave).advance)))) ∧
  (∀ (s : State) (c : Ctx) (g : Guard) (k : Fin 192) (n : BitVec 16) (r : SysReg), s.ctx? = some c → c.eff g ≠ 0 →
    regDenied c.w n true true = some r →
    (c.w.frame.entry = none → exec (.swr g (.v k) n) s = .next (trapNow c s { cause := 18, info := BitVec.ofNat 64 n.toNat })) ∧
    ∀ e, c.w.frame.entry = some e → Yields (.swr g (.v k) n) s fun t => ∃ f e',
      turns s t c ({ c.w.abortTx 4 0 (c.eff g) with frame := f } : Wave).advance ∧ f.entry = some e' ∧ e'.op.mask = e.op.mask ∧
      ∀ l, l < 32 →
        let x := (c.get s l (.v k) false).val.toNat % 2 ^ 32
        let on : Prop := (c.eff g).getLsbD l = true
        (∀ j, r = .rqd j → (e'.op.datum l).toNat / 2 ^ (32 * j) % 2 ^ 32 =
          if on then x else (e.op.datum l).toNat / 2 ^ (32 * j) % 2 ^ 32) ∧
        (r = .rqa 0 → (e'.op.at_ l).toNat % 2 ^ 32 = if on then x else (e.op.at_ l).toNat % 2 ^ 32) ∧
        (r = .rqa 1 → (e'.op.at_ l).toNat / 2 ^ 32 % 2 ^ 16 = if on then x % 2 ^ 16 else (e.op.at_ l).toNat / 2 ^ 32 % 2 ^ 16)) ∧
  ∀ (s : State) (v : Word64) (tw : Fin 4),
    (∀ u, u < 256 → (Yields (.registerWrite u 0x100 v) s fun t => t = s.modDev fun d => { d with astBase := v }) ∧
      (∀ n, regOf n = none → exec (.registerWrite u n v) s = .next s) ∧
      (∀ n r, regOf n = some r → (SysReg.ofWave r = true ∨ SysReg.readOnly r = true) → exec (.registerWrite u n v) s = .next s) ∧
      ∀ n r, regOf n = some r → SysReg.ofWave r = false → SysReg.readOnly r = false →
        let t := if r = .ctxbase ∨ r = .ctxsize ∨ r = .diedrop ∨ r = .wayen then u else towerOf u
        let err (k : Nat) : Prop := exec (.registerWrite u n v) s = .next (s.modDev fun d => { d with svcErr := BitVec.ofNat 8 k })
        (roOk (unitRead s u t r) r v = false → err 5) ∧
        (roOk (unitRead s u t r) r v = true → (∀ k, (unitWrite s u t r v).2 = some k → err k) ∧
          ((unitWrite s u t r v).2 = none → Yields (.registerWrite u n v) s fun x => x = (unitWrite s u t r v).1))) ∧
    (v.toNat ≤ s.dev.evHead.toNat → Yields (.evtail v) s fun t => t = s.modDev fun d => { d with evTail := v }) ∧
    (1500 ≤ v.toNat → v.toNat ≤ 3800 → Yields (.pwrcap v) s fun t => t = s.modDev fun d => { d with pwrCap := v }) ∧
    (v.toNat < 1500 ∨ 3800 < v.toNat → Yields (.pwrcap v) s fun t => t = s.modDev fun d => { d with svcErr := 5 }) ∧
    (v = 1 → s.dev.attRun = false → Yields (.attctl v) s fun t => t = s.modDev fun d => { d with attRun := true }) ∧
    (v = 1 → s.dev.amRun = false → Yields (.amloadStart v) s fun t => t = s.modDev fun d => { d with amRun := true }) ∧
    (1 ≤ v.toNat → v.toNat ≤ 65535 → (s.line (lineNo s.dev.rcLine.toNat)).counter = none →
      countersAt s (homeSlice s (64 * lineNo s.dev.rcLine.toNat)) < 4096 → Yields (.rcarm v) s fun t =>
        (t.line (lineNo s.dev.rcLine.toNat)).counter = some (v.toNat, 0) ∧
        (t.line (lineNo s.dev.rcLine.toNat)).emptyWords = BitVec.allOnes 8 ∧ t.dev = { s.dev with rcStat := 1 } ∧ t.mem = s.mem) ∧
    (v.toNat < 10 → s.dev.svcBusy = false → (s.tower tw.val).down.getLsbD v.toNat = false → Yields (.diedrop tw v) s fun t =>
      t.mem = s.mem ∧ ((t.tower tw.val).dieDrop.map Fin.val) = some v.toNat ∧ t.dev.svcBusy = true) ∧
    (v.toNat < 10 → s.dev.svcBusy = true → Yields (.diedrop tw v) s fun t => t = s.modDev fun d => { d with svcErr := 1 }) ∧
    (∀ b, Yields (.noplace tw b) s fun t => t = s.modTower tw.val fun x => { x with noplace := b }) ∧
    (v.toNat < 2 ^ 16 → 4 ≤ ((List.range 16).filter fun i => v.getLsbD i).length → Yields (.wayen tw v) s fun t => t.mem = s.mem ∧
      (t.tower tw.val).wayReq = BitVec.setWidth 16 v ∧
      (t.tower tw.val).wayAct = (s.tower tw.val).wayAct ||| BitVec.setWidth 16 v) ∧
    (∀ core, core < 256 → v.toNat < 2 ^ 8 → Yields (.bankgate core v) s fun t => t.mem = s.mem ∧
      (t.core core).bankReq = BitVec.setWidth 8 v ∧ (∀ b, (t.core core).bankGated.getLsbD b =
        ((s.core core).bankGated.getLsbD b && v.getLsbD b))) ∧
    (∀ t, dropRefused s tw.val = some t → (Yields (.towerDrop tw) s fun u => u = s.modDev fun d => { d with svcErr := BitVec.ofNat 8 t }) ∧
      Yields (.towerForceDrop tw) s fun u => u = s.modDev fun d => { d with svcErr := BitVec.ofNat 8 t }) ∧
    (dropRefused s tw.val = none → towerEmpty s tw.val = false → Yields (.towerDrop tw) s fun u =>
      u = s.modDev fun d => { d with svcErr := 3 }) ∧
    (dropRefused s tw.val = none → towerEmpty s tw.val = true → Yields (.towerDrop tw) s fun u =>
      (u.tower tw.val).sweep = true ∧ u.dev.svcBusy = true ∧ u.dev.svcTwr = BitVec.ofNat 2 tw.val) ∧
    (dropRefused s tw.val = none → Yields (.towerForceDrop tw) s fun u => (u.tower tw.val).gone = true ∧
      u.dev.svcTwr = BitVec.ofNat 2 tw.val) ∧
    (∀ ports, ports < 2 ^ 12 → s.dev.portRun = 0 → ((List.range 12).any fun i => bitOf ports i && goneTower s (i / 3)) = false →
      v = BitVec.ofNat 64 ports → Yields (.portctl v) s fun t => t.dev.portRun = BitVec.ofNat 12 ports ∧
        ∀ i, i < 12 → bitOf ports i = true → NMap.getD t.dev.ports i 0 = 1) ∧
    ∀ q, q < 16 → bitOf v.toNat q = true → ∀ w : Fin 4, queueTower s q = some w.val → Yields (.dbell v) s fun t =>
      t.mem = s.mem ∧ (t.tower w.val).feIdle = false

/-! ### Sluice programs -/

/-- R311, R312: the arithmetic of a sluice writes xd mod 2^64 and nothing else, and x0 stays 0; its branches go on, go to their
target and leave the loops that do not contain it, or end the program with 97 beyond the image. -/
def Obligations.SluiceArithmeticAndBranches : Prop :=
  (∀ (d a b : Fin 16) (i : BitVec 14),
    sluiceComputes (.sLi d i) d (fun _ => BitVec.ofInt 64 i.toInt) ∧
    sluiceComputes (.sAdd d a b) d (fun x => x a + x b) ∧
    sluiceComputes (.sSub d a b) d (fun x => x a - x b) ∧
    sluiceComputes (.sMul d a b) d (fun x => x a * x b) ∧
    sluiceComputes (.sAddi d a i) d (fun x => x a + BitVec.signExtend 64 i) ∧
    sluiceComputes (.sAnd d a b) d (fun x => x a &&& x b) ∧
    sluiceComputes (.sOr d a b) d (fun x => x a ||| x b) ∧
    sluiceComputes (.sShl d a b) d (fun x => BitVec.ofNat 64 ((x a).toNat * 2 ^ ((x b).toNat % 64))) ∧
    sluiceComputes (.sShr d a b) d (fun x => BitVec.ofNat 64 ((x a).toNat / 2 ^ ((x b).toNat % 64))) ∧
    sluiceComputes (.sMin d a b) d (fun x => BitVec.ofInt 64 (min (x a).toInt (x b).toInt)) ∧
    sluiceComputes (.sMax d a b) d (fun x => BitVec.ofInt 64 (max (x a).toInt (x b).toInt))) ∧
  ∀ (a b : Fin 16) (i : BitVec 14),
    sluiceJumps (.sBeq a b i) i (fun x => x a = x b) ∧ sluiceJumps (.sBne a b i) i (fun x => x a ≠ x b) ∧
    sluiceJumps (.sBlt a b i) i (fun x => (x a).toInt < (x b).toInt) ∧
    sluiceJumps (.sBge a b i) i (fun x => (x b).toInt ≤ (x a).toInt) ∧ sluiceJumps (.sJmp i) i (fun _ => True)

/-- R313 to R316: LOOP opens a loop of its count, skips its body for a count of 0, and faults with 97 where no ENDL stands at its
end and with 98 where it does not nest or the stack is full; ENDL repeats or leaves the innermost loop, and faults with 98
elsewhere; LDX loads 8 bytes, TDESC a valid descriptor, each after the blocks that write there; TSTEP moves the base by whole
steps, TADDR reads it; a bad address or step ends the program with 101, a bad or missing descriptor with 102; HALT ends it once
its blocks are done. -/
def Obligations.SluiceLoopsLoadsAndDescriptors : Prop :=
  (∀ (s : State) (p : SluiceProg), (s.core s.cur.1).sluice = some p →
    let faults (i : Instr) (k : BitVec 8) : Prop := exec i s = .next (endProgram s s.cur.1 k 0 p.spc)
    (∀ (a : Fin 16) (n : BitVec 14) (t : Nat), t = p.spc + n.toNat →
      let legal : Prop := t ≤ p.icnt ∧ p.instr? t = some .sEndl
      let nests : Prop := ∀ l ls, p.loops = l :: ls → t ≤ l.stop
      (¬legal → faults (.sLoop a n) 97) ∧
      (legal → ¬nests → faults (.sLoop a n) 98) ∧
      (legal → nests → p.xAt a = 0 → Yields (.sLoop a n) s fun u => u = s.withProg { p with spc := t + 1, wait := .none }) ∧
      (legal → nests → p.xAt a ≠ 0 → 4 ≤ p.loops.length → faults (.sLoop a n) 98) ∧
      (legal → nests → p.xAt a ≠ 0 → p.loops.length < 4 → Yields (.sLoop a n) s fun u => u = s.withProg { p with
        spc := p.spc + 1, wait := .none, loops := { start := p.spc + 1, stop := t, count := (p.xAt a).toNat } :: p.loops })) ∧
    (p.loops = [] → faults .sEndl 98) ∧
    ∀ l ls, p.loops = l :: ls →
      (p.spc ≠ l.stop → faults .sEndl 98) ∧
      (p.spc = l.stop → 2 ≤ l.count → Yields .sEndl s fun u => u = s.withProg { p with
        spc := l.start, wait := .none, loops := { l with count := l.count - 1 } :: ls }) ∧
      (p.spc = l.stop → l.count < 2 → Yields .sEndl s fun u => u = s.withProg { p with spc := p.spc + 1, wait := .none, loops := ls })) ∧
  (∀ (s : State) (p : SluiceProg), (s.core s.cur.1).sluice = some p →
    let c := s.cur.1
    let faults (i : Instr) (k : BitVec 8) (a : Word64) : Prop := exec i s = .next (endProgram s c k a p.spc)
    (∀ (d a : Fin 16) (i : BitVec 14),
      let ea := p.xAt a + BitVec.ofInt 64 (8 * i.toInt)
      let r := sluiceRead s c p.cmd ea 8
      let meets := meetsDeco s c p.cmd.id [⟨ea, 8, false⟩]
      (ea.toNat % 8 ≠ 0 → faults (.sLdx d a i) 101 ea) ∧
      (ea.toNat % 8 = 0 → meets = true → sluiceWaits (.sLdx d a i) s p .deco) ∧
      (∀ k x, ea.toNat % 8 = 0 → meets = false → r.2 = .error (k, x) →
        exec (.sLdx d a i) s = .next (endProgram r.1 c k x p.spc)) ∧
      ∀ bs, ea.toNat % 8 = 0 → meets = false → r.2 = .ok bs →
        Yields (.sLdx d a i) s fun t => ∃ q : SluiceProg, t = r.1.withProg q ∧
          q = { p with x := q.x, spc := p.spc + 1, wait := .none } ∧
          ∀ n : Fin 16, q.xAt n = if n = d ∧ n ≠ 0 then BitVec.ofNat 64 (leNat bs) else p.xAt n) ∧
    (∀ (d : Fin 8) (a : Fin 16),
      let r := sluiceRead s c p.cmd (p.xAt a) 64
      let meets := meetsDeco s c p.cmd.id [⟨p.xAt a, 64, false⟩]
      ((p.xAt a).toNat % 8 ≠ 0 → faults (.sTdesc d a) 101 (p.xAt a)) ∧
      ((p.xAt a).toNat % 8 = 0 → meets = true → sluiceWaits (.sTdesc d a) s p .deco) ∧
      (∀ bs, (p.xAt a).toNat % 8 = 0 → meets = false → r.2 = .ok bs → readDesc bs = none →
        exec (.sTdesc d a) s = .next (endProgram r.1 c 102 (p.xAt a) p.spc)) ∧
      ∀ bs t, (p.xAt a).toNat % 8 = 0 → meets = false → r.2 = .ok bs → readDesc bs = some t →
        Yields (.sTdesc d a) s fun u => ∃ td, u = r.1.withProg { p with td := td, spc := p.spc + 1, wait := .none } ∧
          NMap.get? td d.val = some t ∧ ∀ n, n ≠ d.val → NMap.get? td n = NMap.get? p.td n) ∧
    (∀ (d : Fin 8) (a : Fin 16) (k : Fin 4),
      (NMap.get? p.td d.val = none → faults (.sTstep d a k) 102 0 ∧ ∀ x, faults (.sTaddr x d) 102 0) ∧
      ∀ t, NMap.get? p.td d.val = some t →
        let top : Int := if sluiceVirt t.base then 2 ^ 48 else 2 ^ 21
        (t.step (p.xAt a).toInt k.val = none → faults (.sTstep d a k) 101 t.base) ∧
        (∀ st, t.step (p.xAt a).toInt k.val = some st → ((t.addrBits : Int) + st < 0 ∨ top ≤ t.addrBits + st) →
          faults (.sTstep d a k) 101 t.base) ∧
        (∀ st, t.step (p.xAt a).toInt k.val = some st → 0 ≤ (t.addrBits : Int) + st → (t.addrBits : Int) + st < top →
          Yields (.sTstep d a k) s fun u => ∃ td, u = s.withProg { p with td := td, spc := p.spc + 1, wait := .none } ∧
            NMap.get? td d.val = some { t with base := t.base + BitVec.ofInt 64 st } ∧
            ∀ n, n ≠ d.val → NMap.get? td n = NMap.get? p.td n)) ∧
    (∀ (d : Fin 16) (a : Fin 8) (t : TDesc), NMap.get? p.td a.val = some t → Yields (.sTaddr d a) s fun u => ∃ q : SluiceProg,
      u = s.withProg q ∧ q = { p with x := q.x, spc := p.spc + 1, wait := .none } ∧
      ∀ n : Fin 16, q.xAt n = if n = d ∧ n ≠ 0 then t.base else p.xAt n) ∧
    (s.pendingDecos c p.cmd.id ≠ [] → sluiceWaits .sHalt s p .deco) ∧
    (s.pendingDecos c p.cmd.id = [] → exec .sHalt s = .next (endProgram s c 0 0 p.spc)))

/-- R316 to R319, R323, R326 to R328, R332: MOVE, GATHER, CONV and TOPK check their descriptors, formats and ranges, take their locks
and start; DECO hands its block to the decompressor's queue of 4; SLUICE_TRANSFER_COMPLETE frees the locks and goes on;
DECO_BLOCK_SELECT takes the next block in turn whose source it can lock, DECO_BLOCK_COMPLETE writes it whole or faults. -/
def Obligations.SluiceDataMovesAndBlocks : Prop :=
  (∀ (s : State) (p : SluiceProg), (s.core s.cur.1).sluice = some p →
    (∀ (d a : Fin 8) (b : Fin 16) (f g : Fmt) (k : BitVec 14) (i : Instr),
      i = .sMove d a b ∨ i = .sGather d a b ∨ i = .sConv d a f g ∨ i = .sTopk d a b k →
      (NMap.get? p.td d.val = none ∨ NMap.get? p.td a.val = none) → sluiceFails i s p 102 0) ∧
    ∀ (d a : Fin 8) (b : Fin 16) (td ts : TDesc), NMap.get? p.td d.val = some td → NMap.get? p.td a.val = some ts →
      (let n := if p.xAt b = 0 then td.count else (p.xAt b).toNat
       let same : Prop := td.fmt = ts.fmt ∧ Fmt.isBlock td.fmt = false
       (td.count < n ∨ ts.count < n → sluiceFails (.sMove d a b) s p 101 0) ∧
       (n ≤ td.count → n ≤ ts.count → ¬same → sluiceFails (.sMove d a b) s p 108 0) ∧
       (n ≤ td.count → n ≤ ts.count → same → dataPlanes (.sMove d a b) s p td ts List.length fun ms =>
         dataStarts (.sMove d a b) s p { instr := .sMove d a b, total := n, mset := ms }
           [ts.range ms.length false, td.range ms.length true])) ∧
      (∀ ms, td.fmt = ts.fmt → td.n0 = ts.n0 → Fmt.isBlock td.fmt = false → planesOf s p.cmd td.fmt = some ms →
        (p.xAt b).toNat % 4 = 0 → sluiceOk s p.cmd (p.xAt b) (4 * td.rows) = true → ts.fits s p.cmd ms.length = true →
        td.fits s p.cmd ms.length = true → planeTooNarrow td.fmt ms = false →
        let rs : List SRange := [ts.range ms.length false, ⟨p.xAt b, 4 * td.rows, false⟩, td.range ms.length true]
        let locks := rs.map fun r => r.lock s s.cur.1 p.cmd (.sluice s.cur.1 p.cmd.id)
        (meetsDeco s s.cur.1 p.cmd.id rs = true → sluiceWaits (.sGather d a b) s p .deco) ∧
        (meetsDeco s s.cur.1 p.cmd.id rs = false → takeLocksIn s locks = none → sluiceWaits (.sGather d a b) s p .locks) ∧
        ∀ u v bs, meetsDeco s s.cur.1 p.cmd.id rs = false → takeLocksIn s locks = some u →
          sluiceRead u s.cur.1 p.cmd (p.xAt b) (4 * td.rows) = (v, .ok bs) →
          let rows := chunksOf 4 td.rows bs
          (∀ j, badIndex ts.rows rows = some j → exec (.sGather d a b) s =
            .next (endProgram v s.cur.1 101 (p.xAt b + BitVec.ofNat 64 (4 * j)) p.spc)) ∧
          (badIndex ts.rows rows = none → Yields (.sGather d a b) s fun t => t = v.withProg { p with
            wait := .xfer, xfer := some { instr := .sGather d a b, total := td.count, list := rows, mset := ms } })) ∧
      (∀ f g : Fmt, let fits : Prop := f = ts.fmt ∧ g = td.fmt ∧ td.count = ts.count ∧ Fmt.isPlane ts.fmt = false ∧
          (td.rmode p.cmd).rnd ≠ 6
        (¬fits → sluiceFails (.sConv d a f g) s p 108 0) ∧
        (fits → dataPlanes (.sConv d a f g) s p td ts (fun _ => 1) fun ms =>
          dataStarts (.sConv d a f g) s p
            { instr := .sConv d a f g, total := if Fmt.isBlock td.fmt then td.count / 64 * 65 else td.count, mset := ms }
            [ts.range 1 false, td.range ms.length true])) ∧
      ∀ k : BitVec 14, let fits : Prop := topkSource ts.fmt = true ∧ (td.fmt = .i64 ∨ td.fmt = .u64) ∧ td.n0 = k.toNat ∧
          td.rows = ts.rows ∧ (p.xAt b).toNat % 4 = 0 ∧ 1 ≤ k.toNat ∧ k.toNat ≤ ts.n0 ∧ k.toNat ≤ 4096 ∧ (ts.rmode p.cmd).rnd ≠ 6
        (¬fits → sluiceFails (.sTopk d a b k) s p 110 0) ∧
        (fits → ts.fits s p.cmd 1 = true → td.fits s p.cmd 1 = true → sluiceOk s p.cmd (p.xAt b) (4 * ts.count) = true →
          dataStarts (.sTopk d a b k) s p { instr := .sTopk d a b k, total := ts.rows * (k.toNat + ts.n0) }
            [ts.range 1 false, td.range 1 true, ⟨p.xAt b, 4 * ts.count, true⟩])) ∧
  (∀ (s u : State) (ls : List (Nat × Lock)), takeLocksIn s ls = some u → u.mem = s.mem ∧ u.waves = s.waves ∧
    ∀ c, (u.core c).locks = (s.core c).locks ++ (ls.filter fun l => l.1 = c).map (·.2)) ∧
  (∀ (s : State) (p : SluiceProg) (d : Fin 8) (a : Fin 16) (td : TDesc), (s.core s.cur.1).sluice = some p →
    NMap.get? p.td d.val = some td →
    let c := s.cur.1
    let queue (t : State) : List DecoBlock := NMap.getD (t.cluster (clusterOf c)).decoQ (c % 4) []
    let lock := (td.range 1 true).lock s c p.cmd (.deco c p.cmd.id p.blocks)
    ((p.xAt a).toNat % 32 ≠ 0 → sluiceFails (.sDeco d a) s p 101 (p.xAt a)) ∧
    ((p.xAt a).toNat % 32 = 0 → (Fmt.isBlock td.fmt = true ∨ Fmt.isPlane td.fmt = true) → sluiceFails (.sDeco d a) s p 108 0) ∧
    ((p.xAt a).toNat % 32 = 0 → Fmt.isBlock td.fmt = false → Fmt.isPlane td.fmt = false → td.fits s p.cmd 1 = true →
      (4 ≤ (queue s).length → sluiceWaits (.sDeco d a) s p .room) ∧
      ((queue s).length < 4 → meetsDeco s c p.cmd.id [td.range 1 true] = true → sluiceWaits (.sDeco d a) s p .deco) ∧
      ((queue s).length < 4 → meetsDeco s c p.cmd.id [td.range 1 true] = false → takeLocksIn s [lock] = none →
        sluiceWaits (.sDeco d a) s p .locks) ∧
      ((queue s).length < 4 → meetsDeco s c p.cmd.id [td.range 1 true] = false → (takeLocksIn s [lock]).isSome = true →
        Yields (.sDeco d a) s fun t => t.mem = s.mem ∧ queue t = queue s ++
            [{ core := c, cmd := p.cmd.id, block := p.blocks, td := td, addr := p.xAt a, spc := p.spc }] ∧
          (t.core c).sluice = some { p with spc := p.spc + 1, wait := .none, blocks := p.blocks + 1 } ∧
          ∀ k, (t.core k).locks = (s.core k).locks ++ if k = lock.1 then [lock.2] else []))) ∧
  (∀ (s : State) (core : Nat) (p : SluiceProg) (x : Xfer), (s.core core).sluice = some p → p.xfer = some x → p.resumed = false →
    (x.done < x.total → exec (.sluiceTransferComplete core) s = .next s) ∧
    (x.total ≤ x.done → ∃ u : State, u.mem = s.mem ∧
      (u.core core).sluice = some { p with spc := p.spc + 1, wait := .none, xfer := none } ∧
      (∀ k, ∀ l ∈ (u.core k).locks, l.owner ≠ .sluice core p.cmd.id) ∧
      exec (.sluiceTransferComplete core) s = .next (settledWith u p u))) ∧
  (∀ (s : State) (cl : Nat),
    ((s.cluster cl).decoNow.isSome = true ∨ (∀ x ∈ decoHeads (s.cluster cl), lockBlock s x.2 = none) →
      exec (.decoBlockSelect cl) s = .next s) ∧
    ∀ q b rest u, (s.cluster cl).decoNow = none → decoHeads (s.cluster cl) = (q, b) :: rest → lockBlock s b = some u →
      Yields (.decoBlockSelect cl) s fun t => t.mem = s.mem ∧ t.waves = s.waves ∧
        (t.cluster cl).decoNow = some { b with locked := true } ∧ (t.cluster cl).decoLast = some q) ∧
  ∀ (s : State) (cl : Nat) (b : DecoBlock) (p : SluiceProg), (s.cluster cl).decoNow = some b → (s.core b.core).sluice = some p →
    (∀ u k, readBlock s p.cmd b = (u, .error k) → p.stop = false → progHeld (freeBlock u cl b) p = false →
      exec (.decoBlockComplete cl) s = .next (settledWith s p (endProgram (freeBlock u cl b) b.core k b.addr b.spc))) ∧
    ∀ u v out, readBlock s p.cmd b = (u, .ok out) → writeBlock u p.cmd b out = (v, none) →
      exec (.decoBlockComplete cl) s = .next (settledWith s p (freeBlock v cl b)) ∧
      ((freeBlock v cl b).cluster cl).decoNow = none ∧
      ∀ k, ∀ l ∈ ((freeBlock v cl b).core k).locks, l.owner ≠ blockOwner b

/-- R26, R304 to R306, R329 to R331, R335, R339, R78, R231: ARRIVE arrives and keeps a ticket, WAITB waits for its phase, SIGNAL writes the
token early, TICKW waits for its tick; the head of the queue starts, once the accesses its wave issued before it are performed,
as a new program or one set aside, its image is loaded, a stop takes effect at a boundary, an illegal word ends the program with 96; an ending program loses its blocks and its locks,
its record reaches MODE, and its token or node gets the status. -/
def Obligations.SluiceProgramsSynchroniseStartAndEnd : Prop :=
  (∀ (s : State) (p : SluiceProg), (s.core s.cur.1).sluice = some p →
    let c := s.cur.1
    let decos := s.pendingDecos c p.cmd.id
    (∀ a cb : Fin 16,
      let n := if a.val = 0 then 1 else (p.xAt a).toNat
      let b := s.bar c cb.val
      (decos ≠ [] → sluiceWaits (.sArrive a cb) s p .deco) ∧
      (decos = [] → (n = 0 ∨ 65535 < n ∨ b.target = 0 ∨ ∀ gk, p.cmd.group = some gk → b.owner ≠ some gk) →
        sluiceFails (.sArrive a cb) s p 103 0) ∧
      ∀ gk, decos = [] → 1 ≤ n → n ≤ 65535 → b.target ≠ 0 → p.cmd.group = some gk → b.owner = some gk →
        Yields (.sArrive a cb) s fun t => t.mem = s.mem ∧ t.bar c cb.val = b.arrive n ∧
          ∃ ts, (t.core c).sluice = some { p with tickets := ts, spc := p.spc + 1, wait := .none } ∧
            NMap.get? ts cb.val = some b.gen ∧ ∀ k, k ≠ cb.val → NMap.get? ts k = NMap.get? p.tickets k) ∧
    (∀ cb : Fin 16,
      let b := s.bar c cb.val
      ((∀ gk, p.cmd.group = some gk → b.owner ≠ some gk) → sluiceFails (.sWaitb cb) s p 103 0) ∧
      ∀ gk, p.cmd.group = some gk → b.owner = some gk → Yields (.sWaitb cb) s fun t => t = s.withProg { p with
        tickets := NMap.erase p.tickets cb.val, wait := .barrier cb.val ((NMap.get? p.tickets cb.val).getD b.gen) }) ∧
    (∀ (n : Nat) (g : BitVec 32), p.wait = .barrier n g → p.loaded = true → p.stop = false → progHeld s p = false → p.resumed = false →
      sluiceTodo s c = .done (if (s.bar c n).gen = g then s else s.withProg { p with spc := p.spc + 1, wait := .none })) ∧
    (∀ a : Fin 16,
      (decos ≠ [] → sluiceWaits (.sSignal a) s p .deco) ∧
      (decos = [] → (p.cmd.wave = none ∨ p.xAt a ≠ 0 ∨ p.signalled = true) → sluiceFails (.sSignal a) s p 104 0) ∧
      ∀ w, decos = [] → p.cmd.wave = some w → p.xAt a = 0 → p.signalled = false → Yields (.sSignal a) s fun t => t.mem = s.mem ∧
        (t.core c).sluice = some { p with spc := p.spc + 1, wait := .none, signalled := true } ∧
        ∀ x, s.wave? w = some x → x.alive = true → t.wave? w = some (x.setS p.cmd.token.val (Scalar.of 0))) ∧
    ∀ a : Fin 16,
      ((p.xAt a).toNat ≤ s.tick.toNat → Yields (.sTickw a) s fun t => t = s.withProg { p with spc := p.spc + 1, wait := .none }) ∧
      (s.tick.toNat < (p.xAt a).toNat → sluiceWaits (.sTickw a) s p (.tick (p.xAt a)))) ∧
  (∀ (s : State) (core : Nat) (p : SluiceProg) (x : Word64), (s.core core).sluice = some p → p.wait = .tick x →
    (s.tick.toNat < x.toNat → exec (.tickwExpire core) s = .next s) ∧
    (x.toNat ≤ s.tick.toNat → progHeld s p = false → Yields (.tickwExpire core) s fun t =>
      t = s.modCore core fun k => { k with sluice := some { p with spc := p.spc + 1, wait := .none } })) ∧
  (∀ (s : State) (core : Nat) (q : SluiceCmd) (rest : List SluiceCmd), (s.core core).sluice = none → (s.core core).sluiceQ = q :: rest →
    ((q.guard.isSome = true ∨ (∃ x, q.tick = some x ∧ s.tick.toNat < x.toNat) ∨
      ∃ w, q.wave = some w ∧ waveClear s w q.after = false) → exec (.sluiceProgramStart core) s = .next s) ∧
    (q.guard = none → (∀ x, q.tick = some x → x.toNat ≤ s.tick.toNat) → (∀ w, q.wave = some w → waveClear s w q.after = true) →
      (∀ g, (q.gang s).bind s.gang? = some g → g.suspendReq = false) →
      let saved := ((q.group.bind s.group?).bind fun g => g.savedProg).filter fun p => p.cmd.id = q.id
      (saved = none → q.args.length = 4 → Yields (.sluiceProgramStart core) s fun t => ∃ p : SluiceProg,
        t = s.modCore core (fun k => { k with sluiceQ := rest, sluice := some p }) ∧ p.cmd = q ∧ p.loaded = false ∧ p.spc = 0 ∧
        p.td = [] ∧ p.loops = [] ∧ p.tickets = [] ∧ p.sticky = 0 ∧ p.dataCause = none ∧
        ∀ n : Fin 16, p.xAt n = if 1 ≤ n.val ∧ n.val ≤ 4 then q.args.getD (n.val - 1) 0 else 0) ∧
      ∀ p, saved = some p → Yields (.sluiceProgramStart core) s fun t => t.mem = s.mem ∧ (t.core core).sluice = some p ∧
        (t.core core).sluiceQ = rest)) ∧
  (∀ (s : State) (core : Nat) (p : SluiceProg), (s.core core).sluice = some p →
    let n := p.cmd.image.toNat / 2 ^ 48 % 2 ^ 10 + 1
    let r := engineRead s core p.cmd.asid (p.cmd.image.toNat % 2 ^ 48) (4 * n)
    (p.loaded = true → exec (.sluiceImageLoaded core) s = .next s) ∧
    (p.loaded = false → p.stop = false → progHeld s p = false →
      (∀ b va, r.2 = .error (b, va) → exec (.sluiceImageLoaded core) s =
        .next (endProgram r.1 core 99 (BitVec.ofNat 64 va) 0)) ∧
      ∀ bs, r.2 = .ok bs → Yields (.sluiceImageLoaded core) s fun t => t.mem = s.mem ∧ (t.core core).sluice = some { p with
        loaded := true, resumed := false, words := (chunksOf 4 n bs).map (BitVec.ofNat 32) }) ∧
    (p.stop = true → p.atBoundary = true → exec (.sluiceStopEffect core) s = .next (endProgram s core 109 0 p.spc)) ∧
    (p.stop = false ∨ p.atBoundary = false → exec (.sluiceStopEffect core) s = .next s) ∧
    (p.loaded = true → p.resumed = false → p.xfer = none → p.stop = false → progHeld s p = false → p.spc < p.words.length →
      p.instr? p.spc = none → exec (.illegalSluiceInstruction core) s = .next (endProgram s core 96 0 p.spc)) ∧
    ((p.instr? p.spc).isSome = true → exec (.illegalSluiceInstruction core) s = .next s)) ∧
  ∀ (s : State) (c spc : Nat) (p : SluiceProg) (k : BitVec 8) (a : Word64), (s.core c).sluice = some p →
    let q := p.cmd
    let data : BitVec 8 := (p.dataCause.map (·.1)).getD 0
    let status := (if k = 0 then data else k).toNat
    ∃ u : State, endProgram s c k a spc = (q.group.map fun gk => settleSuspend (settleGroup u gk) (u.group gk).gang).getD u ∧
      u.mem = s.mem ∧ (u.core c).sluice = none ∧ u.pendingDecos c q.id = [] ∧ (∀ n, ∀ l ∈ (u.core n).locks, l.owner.ofCmd q.id = false) ∧
      (∀ gk g, q.group = some gk → s.group? gk = some g → ∃ g', u.group? gk = some g' ∧ g'.mode = modeOr g.mode p.sticky) ∧
      (∀ n nd, q.node = some n → s.node? n = some nd → nd.status = 0 → ∃ nd', u.node? n = some nd' ∧ nd'.st = .completing ∧
        nd'.status = status + p.sticky.toNat * 2 ^ 8) ∧
      ∀ w x, q.wave = some w → s.wave? w = some x → x.alive = true → ∃ x', u.wave? w = some x' ∧
        (p.signalled = false → x'.sAt q.token.val = Scalar.of (BitVec.ofNat 64 status)) ∧
        (k ≠ 0 → k ≠ 109 → ∃ f ∈ x'.faults, f.cause = k ∧ f.addr = a) ∧
        ∀ d y, p.dataCause = some (d, y) → ∃ f ∈ x'.faults, f.cause = d ∧ f.addr = y

/-! ### Service, host and peers -/

/-- R449, R490 to R492, R494, R497, R498, R500 to R502, R411, R482, R489, R496, R217: a freeze starts and resumes, and a reset ends
it and leaves host memory and firmware alone; the host and other devices read and write memory at its home, and other devices act
on a word there lane by lane; ports, ways, banks, dies, the home sweep, an attestation and the address map finish what a register
write began, a map that cannot be read being refused (log entry 65); system software ends a grid with 145. -/
def Obligations.ServiceEventsAct : Prop :=
  (∀ s : State,
    (Yields .freezeWrite s fun t => t.frozen = true ∧ t.mem = s.mem ∧ t.waves = s.waves ∧ (s.frozen = true → t = s)) ∧
    (Yields .freezePin s fun t => t.frozen = true ∧ t.pinLow = true ∧ t.mem = s.mem ∧ t.waves = s.waves) ∧
    (s.frozen = false → exec .freezeEnd s = .next s) ∧
    (s.frozen = true → s.pinLow = true → Yields .freezeEnd s fun t => t = { s with endWritten := true }) ∧
    (s.frozen = true → s.pinLow = false → Yields .freezeEnd s fun t => resumed s t) ∧
    (s.frozen = true → s.endWritten = true → Yields .freezePinRelease s fun t => resumed s t ∧ t.pinLow = false) ∧
    (s.frozen = false ∨ s.endWritten = false → Yields .freezePinRelease s fun t => t = { s with pinLow := false }) ∧
    exec .scanRead s = .next s ∧
    (∀ v, (s.frozen = true → Yields (.tickset v) s fun t => t = { s with tickSet := some v }) ∧
      (s.frozen = false → exec (.tickset v) s = .next s)) ∧
    (∀ c : BitVec 8,
      (105 ≤ c.toNat → Yields (.thermalWarn c) s fun t => t = s.modDev fun d => { d with thermMax := c, thermWarn := true }) ∧
      (c.toNat < 105 → Yields (.thermalWarnEnd c) s fun t => t = s.modDev fun d => { d with thermMax := c, thermWarn := false }) ∧
      (115 ≤ c.toNat → Yields (.thermalFreeze c) s fun t => t.frozen = true ∧ t.mem = s.mem ∧ t.waves = s.waves ∧
        t.dev.thermMax = c ∧ t.dev.thermWarn = true) ∧
      (c.toNat < 115 → exec (.thermalFreeze c) s = .next s)) ∧
    (s.dev.attRun = true → Yields .attestationSigned s fun t => t = s.modDev fun d => { d with
      attRun := false, report := reportBytes s ++ leBytes (Config.sign (reportBytes s)).length 2 ++ Config.sign (reportBytes s) }) ∧
    Yields .deviceReset s fun t => t.firmware = s.firmware ∧ t.hostMem = s.hostMem ∧ t.mem = [] ∧ t.waves = [] ∧ t.cores = [] ∧
      t.groups = [] ∧ t.nodes = [] ∧ t.dev = {} ∧ t.tick = 0 ∧ t.frozen = false ∧ t.recovery = !Config.verified s.firmware) ∧
  (∀ (s : State) (pa n : Nat) (bs : List Byte), 0 < n → pa % 64 + n ≤ 64 →
    (∀ img, Yields (.hostMemoryAccess (.image img)) s fun t => t = { s with firmware := img }) ∧
    (s.recovery = true → (Yields (.hostMemoryAccess (.read pa n)) s fun t => t = { s with hostRead := [] }) ∧
      exec (.hostMemoryAccess (.write pa bs)) s = .next s) ∧
    (s.recovery = false → exec (.hostMemoryAccess (.read pa n)) s = exec (.remoteAccessRequest (.read pa n)) s ∧
      exec (.hostMemoryAccess (.write pa bs)) s = exec (.remoteAccessRequest (.write pa bs)) s) ∧
    (lineBad s pa = true → Yields (.remoteAccessRequest (.read pa n)) s fun t => t = { s with hostRead := [] }) ∧
    (lineBad s pa = false → (s.line (lineNo pa)).writers = [] → Yields (.remoteAccessRequest (.read pa n)) s fun t =>
      t = { s with hostRead := Memory.readBytes s.mem pa n }) ∧
    (bs.length = n → reaches s pa = true → Yields (.remoteAccessRequest (.write pa bs)) s fun t =>
      Memory.readBytes t.mem pa n = bs ∧ ∀ x, x < pa ∨ pa + n ≤ x → Memory.read t.mem x = Memory.read s.mem x) ∧
    (bs.length = n → reaches s pa = false → exec (.remoteAccessRequest (.write pa bs)) s = .next s) ∧
    ∀ (op : AtomOp) (w : AtomWidth) (red : Bool) (ls : List (Word64 × Word64)),
      let act (v : Nat) (x : Word64 × Word64) : Nat :=
        AtomOp.apply op w.bytes v (x.1.toNat % 2 ^ (8 * w.bytes)) (x.2.toNat % 2 ^ (8 * w.bytes))
      (pa % w.bytes ≠ 0 → exec (.remoteAccessRequest (.atomic pa op w red ls)) s = .next s) ∧
      (pa % w.bytes = 0 → lineBad s pa = true → Yields (.remoteAccessRequest (.atomic pa op w red ls)) s fun t =>
        t = { s with hostRead := [] }) ∧
      (pa % w.bytes = 0 → lineBad s pa = false → (s.line (lineNo pa)).writers = [] → (red = false ∨ (s.line (lineNo pa)).counter = none) →
        Yields (.remoteAccessRequest (.atomic pa op w red ls)) s fun t =>
          let olds := (ls.scanl act (Memory.readNat s.mem pa w.bytes)).take ls.length
          t.hostRead = olds.flatMap (fun x => leBytes x w.bytes) ∧ Memory.readBytes t.mem pa w.bytes =
            leBytes (ls.foldl act (Memory.readNat s.mem pa w.bytes)) w.bytes)) ∧
  (∀ (s : State) (tw : Fin 4) (way : Fin 16),
    ((s.tower tw.val).wayReq.getLsbD way.val = true → exec (.wayGateDone tw way) s = .next s) ∧
    ((s.tower tw.val).wayReq.getLsbD way.val = false → Yields (.wayGateDone tw way) s fun t => t.mem = s.mem ∧
      ∀ i, i < 16 → (t.tower tw.val).wayAct.getLsbD i = ((s.tower tw.val).wayAct.getLsbD i && decide (i ≠ way.val)))) ∧
  (∀ (s : State) (core : Nat) (bank : Fin 8),
    let k := s.core core
    let may : Prop := k.bankReq.getLsbD bank.val = true ∧ k.bankGated.getLsbD bank.val = false ∧ k.scratchBanks ≤ bank.val ∧
      ∃ i, i < 8 ∧ i ≠ bank.val ∧ k.scratchBanks ≤ i ∧ k.bankGated.getLsbD i = false
    (¬may → exec (.bankGated core bank) s = .next s) ∧
    (may → Yields (.bankGated core bank) s fun t => (t.core core).l1 = [] ∧ ∀ i, i < 8 →
      (t.core core).bankGated.getLsbD i = (k.bankGated.getLsbD i || decide (i = bank.val)))) ∧
  (∀ (s : State) (port : Fin 12) (up : Bool) (lanes : Nat),
    (portUp s port.val = false → exec (.portFail port) s = .next s) ∧
    (portUp s port.val = true → exec (.portFail port) s = .next ((List.range 16).foldl checkRoutes
      (s.modDev fun d => { d with ports := NMap.set d.ports port.val 3 }))) ∧
    (NMap.getD s.dev.ports port.val 0 < 2#2 → goneTower s (port.val / 3) = false → Yields (.portTrainDone port up lanes) s fun t =>
      t.mem = s.mem ∧ NMap.getD t.dev.ports port.val 0 = (if up then (if lanes = 4 then 2 else 0) else 3) ∧
      (∀ i, i ≠ port.val → NMap.getD t.dev.ports i 0 = NMap.getD s.dev.ports i 0) ∧ t.dev.portRun.getLsbD port.val = false)) ∧
  (∀ (s : State) (sl t : Nat), t = sl / 64 → t < 4 → (s.tower t).sweep = true → NMap.getD (s.tower t).sweepPtr sl 0 < 2048 →
    let u := s.modTower t fun x => { x with sweepPtr := NMap.set x.sweepPtr sl (NMap.getD x.sweepPtr sl 0 + 1) }
    ((∃ i, i < 64 ∧ NMap.getD (u.tower t).sweepPtr (64 * t + i) 0 ≠ 2048) → Yields (.homeSweepStep sl) s fun v => v = u) ∧
    ((∀ i, i < 64 → NMap.getD (u.tower t).sweepPtr (64 * t + i) 0 = 2048) → Yields (.homeSweepStep sl) s fun v =>
      v = (leaveService u t).modDev fun d => { d with svcBusy := false, svcRebuild := false })) ∧
  (∀ (s : State) (tw : Fin 4) (bad : List (Nat × Nat × Nat)),
    ((s.tower tw.val).dieDrop = none → exec (.dieDropComplete tw bad) s = .next s) ∧
    ∀ d, (s.tower tw.val).dieDrop = some d →
      let mine (g : Group) : Bool := g.live && towerOf g.core = tw.val
      let map := (dropDie (s.tower tw.val).map (s.tower tw.val).down d.val).1
      ((s.groups.any fun g => mine g.2 && g.2.mq.any fun e => e.state = .running) = true → exec (.dieDropComplete tw bad) s = .next s) ∧
      ((s.groups.any fun g => mine g.2 && g.2.mq.any fun e => e.state = .running) = false → Yields (.dieDropComplete tw bad) s fun t =>
        t.mem = s.mem ∧ t.dev.svcBusy = false ∧ (t.tower tw.val).map = map ∧ (t.tower tw.val).dieDrop = none ∧
        (t.tower tw.val).down = (s.tower tw.val).down ||| BitVec.ofNat 10 (2 ^ d.val) ∧
        ∀ gk g, s.group? gk = some g → ∃ g', t.group? gk = some g' ∧
          g'.mset = if mine g then g.mset.filter (fun r => servable r map) else g.mset)) ∧
  (∀ s : State,
    let base := s.dev.amBase.toNat
    let l := (List.range 1536).map fun i => BitVec.ofNat 16 (Memory.readNat s.mem (base + 2 * i) 2)
    let reads : Prop := ∀ x ∈ linePieces base 3072, lineBad s x.1 = false
    (s.dev.amRun = false → exec .amloadComplete s = .next s) ∧
    (s.dev.amRun = true → base = 0 → Yields .amloadComplete s fun t => t.dev.amMap = none ∧ t.dev.amRun = false) ∧
    (s.dev.amRun = true → base ≠ 0 → reads → tableOk l = true → Yields .amloadComplete s fun t => t.dev.amMap = some l ∧
      t.dev.amRun = false) ∧
    (s.dev.amRun = true → base ≠ 0 → (¬reads ∨ tableOk l = false) → Yields .amloadComplete s fun t =>
      t = s.modDev fun d => { d with amRun := false, amRefused := true })) ∧
  ∀ (s : State) (node : Nat) (n : Node), s.node? node = some n →
    (n.ended = false → (n.st = .ready ∨ n.st = .running) → recNat n.bytes 0 1 = 0 →
      exec (.gridEndedBySystemSoftware node) s = .next (endGridFor s node 145)) ∧
    (n.ended = true ∨ (n.st ≠ .ready ∧ n.st ≠ .running) ∨ recNat n.bytes 0 1 ≠ 0 →
      exec (.gridEndedBySystemSoftware node) s = .next s)

/-! ### The scheduler -/

/-- R345, R346, R350, R351, R353 to R357, R363 to R366, R368, R375, R421: a front end serves a queue's entry and adds one to `HEAD`,
or goes idle; records become Waiting, Ready or complete as invalid; a gang is placed with waves in the state of R353; transforms,
sluice nodes and completions run; waves are evicted, restored, suspended, woken and resumed; an overdue request is reported. -/
def Obligations.SchedulerEventsAct : Prop :=
  (∀ (s u : State) (t q : Nat) (d : HostQueue) (bs : List Byte), frontOn s t = true →
    pollAll s (frontQueues s t) = (u, some (q, .entry d bs)) →
    let v := u.modTower t fun x => { x with feLast := some q, feSince := u.cycle }
    let served (w x : State) : Prop := x = homeWrite w (queueAddr w q + 16) (leBytes (d.head + 1) 8) ∧
      Memory.readNat x.mem (queueAddr w q + 16) 8 = (d.head + 1) % 2 ^ 64
    (recNat bs 0 1 = 0 → Yields (.hqNop t) s (served v)) ∧
    (recNat bs 0 1 = 1 → Yields (.hqSubmit t) s (served (hostSubmit v q d bs).1)) ∧
    (recNat bs 0 1 = 2 →
      let r := decrement v d.asid (BitVec.ofNat 64 (recNat bs 8 8)) (recNat bs 16 4)
      (r.2 = none → Yields (.hqDecr t) s (served r.1)) ∧
      ∀ b a, r.2 = some (b, a) → Yields (.hqDecr t) s fun x => x = stopQueue r.1 q d b.1 a) ∧
    (recNat bs 0 1 = 3 → Yields (.hqFence t) s (served v))) ∧
  (∀ (s : State) (t : Nat),
    (frontOn s t = true → (s.tower t).feSince + 4096 ≤ s.cycle → (pollAll s (frontQueues s t)).2 = none →
      anyHeld s (frontQueues s t) = false →
      Yields (.frontEndIdle t) s fun x => x = s.modTower t fun y => { y with feIdle := true }) ∧
    (frontOn s t = false → exec (.frontEndIdle t) s = .next s)) ∧
  (∀ (s : State) (core : Nat) (e : LaunchEntry) (rest : List LaunchEntry) (nd : Node), (s.core core).launchQ = e :: rest →
    s.node? e.node = some nd → e.guard = none → (∀ x, e.tick = some x → x.toNat ≤ s.tick.toNat) →
    (s.tower (towerOf core)).noplace = false → (s.tower (towerOf core)).gone = false → s.recovery = false →
    let u := s.modCore core fun k => { k with launchQ := rest }
    (∀ c, nd.invalid = some c → Yields (.launchAccept core) s fun t => t = u.modNode e.node fun x => { x with
      st := .completing, status := c.toNat }) ∧
    (nd.invalid = none → Yields (.launchAccept core) s fun t => t = submitNode u e.node)) ∧
  (∀ (s : State) (n : Nat) (nd : Node), s.node? n = some nd →
    let r := nd.bytes
    let again := nd.queue.isSome && s.nodes.any fun x => x.1 ≠ n && x.2.queue.isSome && x.2.pa = nd.pa && x.2.st ≠ .done
    let ready : Node := { nd with
      kd := [], prio := min (recNat r 1 1) nd.cap, st := .ready, readyAt := s.stamp
      tick := if nd.wave.isSome ∨ recNat r 0x48 8 = 0 then none else some (BitVec.ofNat 64 (recNat r 0x48 8)) }
    ((recordCommonOk r = false ∨ again = true) → ∃ nd', (submitNode s n).node? n = some nd' ∧ nd'.st = .completing ∧
      nd'.status = 140) ∧
    (recordCommonOk r = true → again = false → (recNat r 0 1 = 1 ∧ transformOk r = true ∨ recNat r 0 1 = 2 ∧ sluiceNodeOk r = true) →
      (recNat r 4 4 = 0 → (submitNode s n).node? n = some ready) ∧
      (recNat r 4 4 ≠ 0 → nd.wave = none → (submitNode s n).node? n = some { ready with st := .waiting, readyAt := nd.readyAt }))) ∧
  (∀ (s u : State) (node : Nat) (nd : Node) (place : Placement), s.node? node = some nd → s.recovery = false →
    nd.hasGang s = true → firstReady s node nd = true → placementOk s nd place = true →
    (∀ b a, readAllArgs nd place 0 s = (u, .error (b, a)) →
      Yields (.gangPlace node place) s fun t => t = argFault u node nd b.1 b.2) ∧
    ∀ gs, readAllArgs nd place 0 s = (u, .ok gs) → Yields (.gangPlace node place) s fun t =>
      let gang := NMap.fresh u.gangs
      let g : Gang := { node := node, gangid := nd.nextGang, cluster := clusterOf ((List.map Prod.fst place).headD 0)
                        groups := (List.range place.length).map (NMap.fresh u.groups + ·), placedAt := u.stamp }
      let v := ({ u with gangs := NMap.set u.gangs gang g }).modNode node fun x => { x with st := .running, nextGang := x.nextGang + 1 }
      t = (List.map Prod.fst place).foldl setBanks (gs.foldl (startGroup nd gang) v)) ∧
  (∀ (nd : Node) (gk i o : Nat) (args : List Word64),
    let w := newWave nd gk i o args
    w.splits = [(0, { pc := nd.grid.entry, mask := allLanes, state := .ready })] ∧
      (∀ n, w.sAt n = Scalar.of (args.getD n 0)) ∧ (∀ r l, w.vAt r l = ⟨0, 0⟩) ∧ (∀ n, n ≠ 7 → w.pAt n = 0) ∧
      w.recs = [] ∧ w.tx = [] ∧ w.lseq = [] ∧ w.level = nd.prio ∧ w.allot = nd.grid.regs ∧ w.waveid = i ∧
      w.role = roleOf nd.bytes i) ∧
  (∀ (s u : State) (node : Nat) (nd : Node), s.node? node = some nd → recNat nd.bytes 0 1 = 1 → s.recovery = false →
    (nd.due s = true ∨ nd.st = .running) → nd.lines < recNat nd.bytes 0x20 8 / 64 →
    (∀ b, transformLine s nd = (u, .error b) → Yields (.transformRun node) s fun t =>
      t = u.modNode node fun x => { x with st := .completing, status := b.1.toNat }) ∧
    ∀ p, transformLine s nd = (u, .ok p) → Yields (.transformRun node) s fun t =>
      t.mem = u.mem ∧ (recNat nd.bytes 8 1 = 1 → p.host = false →
        Memory.readBytes t.mem p.pa 64 = (List.replicate 8 (leBytes (recNat nd.bytes 0x10 8) 8)).flatten) ∧
      t = u.modNode node fun x => { x with
        lines := x.lines + 1, st := if x.lines + 1 = recNat nd.bytes 0x20 8 / 64 then .completing else .running }) ∧
  (∀ (s : State) (node core : Nat) (nd : Node), s.node? node = some nd → recNat nd.bytes 0 1 = 2 → nd.due s = true →
    (recNat nd.bytes 0x30 2 = 0xFFFF ∨ recNat nd.bytes 0x30 2 = core) → core < 256 → goneTower s (towerOf core) = false →
    (s.core core).sluiceQ.length < 8 → Yields (.sluiceNodeStart node core) s fun t =>
      t.node? node = some { nd with st := .running, core := some core } ∧ ∃ q : SluiceCmd,
        (t.core core).sluiceQ = (s.core core).sluiceQ ++ [q] ∧ q.wave = none ∧ q.node = some node ∧ q.asid = nd.asid ∧
        q.image = BitVec.ofNat 64 (recNat nd.bytes 8 8) ∧
        q.args = (List.range 4).map fun i => BitVec.ofNat 64 (recNat nd.bytes (0x10 + 8 * i) 8)) ∧
  (∀ (s : State) (node : Nat) (nd : Node), s.node? node = some nd →
    (nodeOver s node nd = false → exec (.nodeComplete node) s = .next s) ∧
    (nodeOver s node nd = true → nodeWaves s node = [] → gangsOf s node = [] → nd.core = none → recNat nd.bytes 0 1 ≠ 0 →
      Yields (.nodeComplete node) s fun t =>
        t = (dropSuccs (dropJoin (writeDone (s.modNode node fun x => { x with st := .completing }) nd) nd) nd).modNode node
          fun x => { x with st := .done })) ∧
  (∀ (s : State) (wave c sl : Nat) (x : Wave), s.wave? wave = some x → x.place = .resident c sl → isVictim s wave = true →
    poolFits s (towerOf c) (waveBlocks s wave) = true →
    (∀ w y, (w, y) ∈ s.waves → y.helperWave = true → ∀ k, y.place ≠ .resident c k) →
    (x.canStop = true → x.helpers = [] → Yields (.waveEvict wave) s fun t => NMap.get? (t.core c).slots sl = none ∧
      ∃ y, t.wave? wave = some y ∧ y.place = .evicted s.stamp ∧ y.v = x.v ∧ y.s = x.s ∧ y.p = x.p ∧ y.recs = x.recs ∧
        y.frame = { x.frame with ovd := false }) ∧
    (x.canStop = false → Yields (.waveEvict wave) s fun t => t = s.modWave wave fun y => y.pend s.cycle)) ∧
  (∀ (s : State) (wave slot k : Nat) (x : Wave), s.wave? wave = some x → x.place = .evicted k → gangStays s x = true →
    outrankedAt s wave (homeCore s x) (wavePrio s wave, k) = false → slotFits s (homeCore s x) slot x.allot = true →
    (∀ d b, damagedBlock s x.ctx d = some b → Yields (.waveRestore wave slot d) s fun t => t = damageWave s wave b) ∧
    (∀ d, damagedBlock s x.ctx d = none → x.rejoin = [] → Yields (.waveRestore wave slot d) s fun t => NMap.get? (t.core (homeCore s x)).slots slot = some wave ∧
      ∃ y, t.wave? wave = some y ∧ y.place = .resident (homeCore s x) slot ∧ y.v = x.v ∧ y.s = x.s ∧ y.p = x.p ∧
        y.splits = x.splits ∧ y.frame = x.frame)) ∧
  (∀ (s : State) (gang : Nat) (g : Gang), s.gang? gang = some g → g.live = true →
    (∀ software : Bool, g.suspendReq = false → g.suspended = none → poolFits s (g.cluster / 16) (gangBlocks s g) = true →
      (software = true ∨ (suspendDue s gang g = true ∧ helperOn s (clusterCores g.cluster) = false)) →
      Yields (.gangSuspend ⟨gang, software⟩) s fun t => t = askSuspend s gang) ∧
    ∀ place : Placement, g.suspended.isSome = true → place.length = g.groups.length →
      (List.map Prod.fst place).Pairwise (· < ·) → (∀ c ∈ List.map Prod.fst place, clusterOf c = g.cluster) →
      goneTower s (g.cluster / 16) = false → gangOutranked s gang g = false →
      (∀ x ∈ g.groups.zip place, resumeFits s x.1 x.2.1 x.2.2 = true) →
      (∀ d b, damagedBlock s (gangContext s g) d = some b → Yields (.gangResume gang place d) s fun t => t = damageGang s g b) ∧
      ∀ d, damagedBlock s (gangContext s g) d = none → Yields (.gangResume gang place d) s fun t =>
        t = (g.groups.zip place).foldl resumeGroup (s.modGang gang fun x => { x with suspended := none })) ∧
  (∀ (s : State) (pa : Nat),
    let due (w : Wave) : Bool := w.place = .joining && w.joinZero && w.woken.isNone && w.joinAddr.map Prod.fst = some pa
    (∃ w x, (w, x) ∈ s.waves ∧ due x = true) → Yields (.joinCounterZero pa) s fun t =>
      ∀ w, t.wave? w = (s.wave? w).map fun x => if due x then { x with woken := some s.stamp } else x) ∧
  (∀ (s : State) (wave core slot k : Nat) (x : Wave), s.wave? wave = some x → x.place = .joining → x.woken = some k →
    clusterOf core = clusterOf (homeCore s x) → gangStays s x = true → outrankedAt s wave core (wavePrio s wave, k) = false →
    slotFits s core slot x.allot = true → (core = homeCore s x ∨ coreFits (withoutHelpers s) (homeCore s x) x.allot = false) →
    (∀ d b, damagedBlock s x.ctx d = some b → Yields (.joinResume wave core ⟨slot, d⟩) s fun t => t = damageWave s wave b) ∧
    ∀ d, damagedBlock s x.ctx d = none → Yields (.joinResume wave core ⟨slot, d⟩) s fun t => t = resumeJoin s wave core slot) ∧
  ∀ (s : State) (wave c sl : Nat) (x : Wave), s.wave? wave = some x → x.place = .resident c sl → x.evictReq = true →
    x.frame.mask = true → x.frame.ovd = false →
    (x.reqAt + 65536 ≤ s.cycle → Yields (.preemptOverdue wave) s fun t => t.mem = s.mem ∧
      t.wave? wave = some { x with frame := { x.frame with ovd := true } } ∧ ∀ w, w ≠ wave → t.wave? w = s.wave? w) ∧
    (s.cycle < x.reqAt + 65536 → exec (.preemptOverdue wave) s = .next s)

/-! ### Decoding, steps and the whole machine -/

/-- R60 to R63, R71 to R74, R76, R77: words written out from the spec's formats, one or more for each family, decode to the
instructions they stand for. -/
def Obligations.WordsDecodeAsWritten : Prop :=
  decodeTableWord 64 0x00E0030102000000 = some (.iadd ⟨⟨7, false⟩, .s32, .v 3, .v 1, .reg (.v 2)⟩) ∧
  decodeTableWord 64 0x00580504FFFFFFFF = some (.iadd ⟨⟨2, true⟩, .s32, .v 5, .v 4, .imm 0xFFFFFFFF⟩) ∧
  decodeTableWord 64 0x30E1010200000000 = some (.vote ⟨7, false⟩ .every (.v 0) 1 2 false) ∧
  decodeTableWord 64 0x38E0000000200000 = some (.bra 2) ∧
  decodeTableWord 64 0x3DE000F000311000 = some (.rep ⟨none, 3, 1, 1, 0, 0⟩) ∧
  decodeTableWord 64 0x40E008C20462FFFC =
    some (.ld .none ⟨⟨7, false⟩, .v 8, ⟨.s 2, .v 4, 0xFFFC⟩, .b32, .relaxed, .device⟩) ∧
  decodeTableWord 64 0x53E0443002000000 = some (.mmac ⟨⟨7, false⟩, 2, 4, 6, 0, 2, 0, 0, .full, false, false⟩) ∧
  decodeTableWord 64 0x60E2C30000000000 = some (.sstop ⟨7, false⟩ 3) ∧
  decodeTableWord 64 0x6CE0C70000000021 = some (.srd ⟨7, false⟩ (.s 7) 0x21) ∧
  decodeTableWord 32 0x08C83FFF = some (.sAddi 3 2 0x3FFF) ∧
  decodeTableWord 32 0x34048005 = some (.sBlt 1 2 5) ∧
  decodeTableWord 32 0x64400142 = some (.sConv 1 0 .f32 .i8)

/-- R60 to R78: every well-formed wave or sluice instruction has one word, and decoding that word gives the instruction back; an
event has none. A word that decodes to an instruction is that instruction's own encoding, so every bit of it is read, no other
instruction has it, and it is no header. -/
def Obligations.EncodingsRoundTrip : Prop :=
  (∀ i : Instr, i.wf = true →
    (isEvent i = true ∧ encodeWave i = none ∧ encodeSluice i = none) ∨
    (∃ w, encodeWave i = some w ∧ encodeSluice i = none ∧ decodeWave w = some i ∧ decodeTableWord 64 w.toNat = some i) ∨
    ∃ w, encodeSluice i = some w ∧ encodeWave i = none ∧ decodeSluice w = some i ∧ decodeTableWord 32 w.toNat = some i) ∧
  (∀ (w : Word64) (i : Instr), decodeWave w = some i → i.wf = true ∧ encodeWave i = some w ∧ isHeader w = false) ∧
  ∀ (w : Word32) (i : Instr), decodeSluice w = some i → i.wf = true ∧ encodeSluice i = some w

/-- R50, R165, R8, R304, R305, R490: a step at which a quarter issues executes the instruction that the word in hand (as a REP steps
it) decodes to, at the state with that wave current and what the instruction writes noted for the loads and drains outstanding
and for the spin detector; a command waits for those of earlier clauses that enter the same queue; a word that is none, or that the wave may not execute, traps; a sluice
step executes the instruction at its counter; an event is executed as itself. -/
def Obligations.StepsRunTheDecodedInstruction : Prop :=
  (∀ (s : State) (rest : List Agent) (c q slot wid : Nat) (w : Wave) (i : Issue) (iw : IssueWord) (ctx : Ctx),
    s.agenda = .issue c q :: rest → NMap.get? (s.core c).port q = some slot → NMap.get? (s.core c).slots slot = some wid →
    s.wave? wid = some w → w.issue = some i → i.mask ≠ 0 → i.words[i.idx]? = some iw →
    let t : State := { s.modWave wid fun w => { w with issue := some i.enterRep } with cur := (c, slot), agenda := rest }
    t.ctx? = some ctx →
    (∀ ins, decodeWave (i.enterRep.word iw) = some ins → Instr.rejected ins ctx.w.allot = none →
      (mustFollow t c slot i.enterRep ins ctx.w.group = true → step s = .next t) ∧
      (mustFollow t c slot i.enterRep ins ctx.w.group = false → step s = exec ins (noteWrites t ctx i.split ins))) ∧
    (∀ ins x, decodeWave (i.enterRep.word iw) = some ins → Instr.rejected ins ctx.w.allot = some x →
      step s = .next (trapNow ctx t { cause := 7, info := x })) ∧
    (decodeWave (i.enterRep.word iw) = none → step s = .next (trapNow ctx t { cause := 1, info := i.enterRep.word iw }))) ∧
  (∀ (s : State) (rest : List Agent) (c : Nat) (p : SluiceProg) (w : Word32), s.agenda = .sluice c :: rest → s.frozen = false →
    (s.core c).sluice = some p → p.loaded = true → p.stop = false → progHeld s p = false → p.resumed = false → p.wait = .none →
    p.xfer = none → p.words[p.spc]? = some w →
    (∀ i, decodeSluice w = some i → step s = exec i { s with agenda := rest, cur := (c, 0) }) ∧
    (decodeSluice w = none → step s = .next (endProgram { s with agenda := rest } c 96 0 p.spc))) ∧
  ∀ (s : State) (rest : List Agent) (i : Instr), s.agenda = .event i :: rest → isEvent i = true →
    (s.frozen = false → step s = exec i { s with agenda := rest }) ∧
    (s.frozen = true → Instr.actsFrozen i = true → step s = exec i { s with agenda := rest }) ∧
    (s.frozen = true → Instr.actsFrozen i = false → Instr.hostEvent i = true →
      step s = .next { s with agenda := rest, heldHost := s.heldHost ++ [i] })

/-- R475, R75: no step of the device ends in a fault or a refusal: whatever a word holds, the device goes on. -/
def Obligations.NoStepStops : Prop := ∀ s : State, Safe s

/-- R4, R217: device memory keeps its canonical form (addresses rising, no byte listed that reads as an unwritten one) at every
step, so equal memories are equal data. The form is the model's own: log entry 1. -/
def Obligations.StepsKeepMemoryCanonical : Prop :=
  ∀ s t : State, Memory.wf s.mem = true → step s = .next t → Memory.wf t.mem = true

/-- R39, R217, R433, R436, R447, R478 to R480, R484, R496, R500 to R502: what reset leaves in the registers of the device, of
every core and of every tower that the spec gives reset values for; memory lists nothing and is in its canonical form. -/
def Obligations.ResetLeavesTheRegisterValues : Prop :=
  Memory.wf State.reset.mem = true ∧
  ∀ c t : Nat, t < 4 →
    unitRead State.reset c t .diemap = 0x9876543210#64 ∧ unitRead State.reset c t .wayen = 0xFFFFFFFF#64 ∧
    unitRead State.reset c t .pwrcap = 3800#64 ∧ (∀ i, unitRead State.reset c t (.bndset i) = 0x7FFFFFFFFFFFFFFF#64) ∧
    (∀ r ∈ ([.tick, .contain, .astbase, .hqbase, .spillbase, .spillcap, .ctxbase, .ctxsize, .ambase, .amload, .rcline, .rcstat,
        .ptpline, .devid, .cmbase, .rtbase, .portstat, .portctl, .evring, .evhead, .evtail, .evlost, .svcstat, .twrctl,
        .bankgate, .therm] : List SysReg), unitRead State.reset c t r = 0) ∧
    ∀ i, unitRead State.reset c t (.wp i) = 0 ∧ unitRead State.reset c t (.ccnt i) = 0 ∧ unitRead State.reset c t (.attn i) = 0
end

