-- ==== Sys2Proof/Laws/Map.lean ====
section
/-! SUPPORT. Sparse tables and byte memory: reading after writing, and the canonical form that every memory operation
keeps. -/

namespace Sys2Proof.Machine

variable {α : Type}

/-! ### Tables -/

@[simp] theorem NMap.get?_nil (i : Nat) : NMap.get? ([] : NMap α) i = none := rfl

theorem NMap.get?_cons (k : Nat) (v : α) (m : NMap α) (i : Nat) :
    NMap.get? ((k, v) :: m) i = if i = k then some v else NMap.get? m i := rfl

@[simp] theorem NMap.get?_set_self (m : NMap α) (i : Nat) (v : α) : NMap.get? (NMap.set m i v) i = some v := by
  induction m with
  | nil => simp [NMap.set, NMap.get?]
  | cons c m ih =>
    obtain ⟨k, w⟩ := c
    simp only [NMap.set]
    split
    · simp [NMap.get?]
    · split
      · simp [NMap.get?]
      · simp [NMap.get?, *]

theorem NMap.get?_set_other (m : NMap α) {i j : Nat} (v : α) (h : j ≠ i) :
    NMap.get? (NMap.set m i v) j = NMap.get? m j := by
  induction m with
  | nil => simp [NMap.set, NMap.get?, h]
  | cons c m ih =>
    obtain ⟨k, w⟩ := c
    simp only [NMap.set]
    split
    · simp [NMap.get?, h]
    · split
      · rename_i hk
        subst hk
        simp [NMap.get?, h]
      · simp [NMap.get?, ih]

theorem NMap.get?_set (m : NMap α) (i j : Nat) (v : α) :
    NMap.get? (NMap.set m i v) j = if j = i then some v else NMap.get? m j := by
  split
  · rename_i h
    rw [h, NMap.get?_set_self]
  · exact NMap.get?_set_other m v ‹_›

@[simp] theorem NMap.getD_set_self (m : NMap α) (i : Nat) (v d : α) : NMap.getD (NMap.set m i v) i d = v := by
  simp [NMap.getD]

theorem NMap.getD_set_other (m : NMap α) {i j : Nat} (v d : α) (h : j ≠ i) :
    NMap.getD (NMap.set m i v) j d = NMap.getD m j d := by
  simp [NMap.getD, NMap.get?_set_other m v h]

theorem NMap.get?_erase (m : NMap α) (i j : Nat) :
    NMap.get? (NMap.erase m i) j = if j = i then none else NMap.get? m j := by
  induction m with
  | nil => simp [NMap.erase]
  | cons c m ih =>
    obtain ⟨k, w⟩ := c
    simp only [NMap.erase, List.filter_cons, NMap.get?_cons] at ih ⊢
    by_cases hk : k = i
    · subst hk
      by_cases hj : j = k <;> simp_all
    · by_cases hj : j = i
      · have : i ≠ k := fun h => hk h.symm
        simp_all [NMap.get?_cons]
      · simp_all [NMap.get?_cons]

theorem NMap.get?_modify (m : NMap α) (i j : Nat) (f : α → α) :
    NMap.get? (NMap.modify m i f) j = if j = i then (NMap.get? m j).map f else NMap.get? m j := by
  induction m with
  | nil => simp [NMap.modify]
  | cons c m ih =>
    obtain ⟨k, w⟩ := c
    simp only [NMap.modify, List.map_cons] at ih ⊢
    by_cases hk : k = i
    · subst hk
      by_cases hj : j = k
      · simp [NMap.get?_cons, hj]
      · simp_all [NMap.get?_cons]
    · by_cases hj : j = i
      · have : i ≠ k := fun h => hk h.symm
        simp_all [NMap.get?_cons]
      · simp_all [NMap.get?_cons]

@[simp] theorem NMap.get?_modify_self (m : NMap α) (i : Nat) (f : α → α) :
    NMap.get? (NMap.modify m i f) i = (NMap.get? m i).map f := by simp [NMap.get?_modify]

theorem NMap.get?_modify_other (m : NMap α) {i j : Nat} (f : α → α) (h : j ≠ i) :
    NMap.get? (NMap.modify m i f) j = NMap.get? m j := by simp [NMap.get?_modify, h]

theorem NMap.get?_mapVal (m : NMap α) (f : Nat → α → α) (i : Nat) :
    NMap.get? (NMap.mapVal m f) i = (NMap.get? m i).map (f i) := by
  induction m with
  | nil => simp [NMap.mapVal]
  | cons c m ih =>
    obtain ⟨k, w⟩ := c
    simp only [NMap.mapVal, List.map_cons, NMap.get?_cons] at ih ⊢
    by_cases h : i = k
    · subst h; simp
    · simp [h, ih]

/-! ### The rising order of keys -/

theorem NMap.sorted_cons (c : Nat × α) (m : NMap α) :
    NMap.sorted (c :: m) = true ↔ (∀ d ∈ m, c.1 < d.1) ∧ NMap.sorted m = true := by
  simp [NMap.sorted]

theorem NMap.mem_set (m : NMap α) (i : Nat) (v : α) : ∀ d ∈ NMap.set m i v, d = (i, v) ∨ d ∈ m := by
  induction m with
  | nil => simp [NMap.set]
  | cons c m ih =>
    obtain ⟨k, w⟩ := c
    intro d hd
    simp only [NMap.set] at hd
    split at hd
    · simpa using hd
    · split at hd
      · simp only [List.mem_cons] at hd ⊢
        tauto
      · simp only [List.mem_cons] at hd ⊢
        rcases hd with h | h
        · exact .inr (.inl h)
        · rcases ih d h with h | h
          · exact .inl h
          · exact .inr (.inr h)

theorem NMap.sorted_set (m : NMap α) (i : Nat) (v : α) (h : NMap.sorted m = true) :
    NMap.sorted (NMap.set m i v) = true := by
  induction m with
  | nil => simp [NMap.set, NMap.sorted]
  | cons c m ih =>
    obtain ⟨k, w⟩ := c
    have hc := (NMap.sorted_cons _ _).1 h
    simp only [NMap.set]
    split
    · rename_i hi
      refine (NMap.sorted_cons _ _).2 ⟨?_, h⟩
      intro d hd
      rcases List.mem_cons.1 hd with rfl | hd
      · exact hi
      · exact lt_trans hi (hc.1 d hd)
    · split
      · rename_i hk
        exact (NMap.sorted_cons _ _).2 ⟨fun d hd => hk ▸ hc.1 d hd, hc.2⟩
      · refine (NMap.sorted_cons _ _).2 ⟨?_, ih hc.2⟩
        intro d hd
        rcases NMap.mem_set m i v d hd with rfl | hd
        · show k < i
          omega
        · exact hc.1 d hd

theorem NMap.sorted_filter (m : NMap α) (p : Nat × α → Bool) (h : NMap.sorted m = true) :
    NMap.sorted (m.filter p) = true := by
  induction m with
  | nil => rfl
  | cons c m ih =>
    have hc := (NMap.sorted_cons _ _).1 h
    rw [List.filter_cons]
    split
    · exact (NMap.sorted_cons _ _).2 ⟨fun d hd => hc.1 d (List.mem_of_mem_filter hd), ih hc.2⟩
    · exact ih hc.2

/-! ### Byte memory -/

@[simp] theorem Memory.read_nil (a : Nat) : Memory.read [] a = Memory.blank := rfl

/-- A byte read where it was written is the byte written; any other byte is as before. -/
theorem Memory.read_write (m : Memory) (a j : Nat) (b : Byte) :
    Memory.read (Memory.write m a b) j = if j = a then b else Memory.read m j := by
  unfold Memory.read Memory.write NMap.getD
  split
  · rename_i hb
    rw [NMap.get?_erase]
    split <;> simp [hb]
  · rw [NMap.get?_set]
    split <;> simp

@[simp] theorem Memory.read_write_self (m : Memory) (a : Nat) (b : Byte) : Memory.read (Memory.write m a b) a = b := by
  simp [Memory.read_write]

theorem Memory.read_write_other (m : Memory) {a j : Nat} (b : Byte) (h : j ≠ a) :
    Memory.read (Memory.write m a b) j = Memory.read m j := by simp [Memory.read_write, h]

theorem Memory.wf_iff (m : Memory) :
    Memory.wf m = true ↔ NMap.sorted m = true ∧ ∀ c ∈ m, c.2 ≠ Memory.blank := by
  simp [Memory.wf]

@[simp] theorem Memory.wf_nil : Memory.wf [] = true := rfl

theorem Memory.wf_write (m : Memory) (a : Nat) (b : Byte) (h : Memory.wf m = true) :
    Memory.wf (Memory.write m a b) = true := by
  rw [Memory.wf_iff] at h ⊢
  unfold Memory.write
  split
  · exact ⟨NMap.sorted_filter _ _ h.1, fun c hc => h.2 c (List.mem_of_mem_filter hc)⟩
  · refine ⟨NMap.sorted_set _ _ _ h.1, fun c hc => ?_⟩
    rcases NMap.mem_set m a b c hc with rfl | hc
    · assumption
    · exact h.2 c hc

theorem Memory.wf_filter (m : Memory) (p : Host.Cell → Bool) (h : Memory.wf m = true) :
    Memory.wf (m.filter p) = true := by
  rw [Memory.wf_iff] at h ⊢
  exact ⟨NMap.sorted_filter _ _ h.1, fun c hc => h.2 c (List.mem_of_mem_filter hc)⟩

theorem Memory.wf_writeBytes (bs : List Byte) : ∀ (m : Memory) (a : Nat), Memory.wf m = true →
    Memory.wf (Memory.writeBytes m a bs) = true := by
  induction bs with
  | nil => exact fun _ _ h => h
  | cons b bs ih => exact fun m a h => ih _ _ (Memory.wf_write m a b h)

theorem Memory.wf_writeNat (m : Memory) (a n x : Nat) (h : Memory.wf m = true) :
    Memory.wf (Memory.writeNat m a n x) = true := Memory.wf_writeBytes _ m a h

/-- What a run of bytes leaves: the bytes written from `a` up, and every other byte as before. -/
theorem Memory.read_writeBytes (bs : List Byte) : ∀ (m : Memory) (a j : Nat),
    Memory.read (Memory.writeBytes m a bs) j =
      if a ≤ j ∧ j < a + bs.length then bs.getD (j - a) 0 else Memory.read m j := by
  induction bs with
  | nil => intro m a j; simp [Memory.writeBytes]
  | cons b bs ih =>
    intro m a j
    rw [Memory.writeBytes, ih, Memory.read_write]
    by_cases h : j = a
    · subst h
      simp
    · by_cases h2 : a + 1 ≤ j ∧ j < a + 1 + bs.length
      · have h3 : a ≤ j ∧ j < a + (b :: bs).length := by simp; omega
        rw [if_pos h2, if_pos h3]
        have : j - a = (j - (a + 1)) + 1 := by omega
        rw [this, List.getD_cons_succ]
      · have h3 : ¬ (a ≤ j ∧ j < a + (b :: bs).length) := by simp; omega
        rw [if_neg h2, if_neg h3, if_neg h]

theorem Memory.readBytes_length (m : Memory) (n : Nat) : ∀ a, (Memory.readBytes m a n).length = n := by
  induction n with
  | zero => intro a; rfl
  | succ n ih => intro a; simp [Memory.readBytes, ih]

theorem leBytes_length (n : Nat) : ∀ x, (leBytes x n).length = n := by
  induction n with
  | zero => intro x; rfl
  | succ n ih => intro x; simp [leBytes, ih]

/-- Two memories in canonical form that read alike are the same list. -/
theorem Memory.ext_of_wf : ∀ (m n : Memory), Memory.wf m = true → Memory.wf n = true →
    (∀ a, Memory.read m a = Memory.read n a) → m = n := by
  have noBelow : ∀ (m : Memory) (k : Nat), (∀ d ∈ m, k < d.1) → Memory.read m k = Memory.blank := by
    intro m k h
    unfold Memory.read NMap.getD
    induction m with
    | nil => rfl
    | cons c m ih =>
      obtain ⟨a, b⟩ := c
      have := h (a, b) List.mem_cons_self
      rw [NMap.get?_cons, if_neg (by simp at this; omega)]
      exact ih fun d hd => h d (List.mem_cons_of_mem _ hd)
  have head : ∀ (a : Nat) (b : Byte) (m : Memory), Memory.read ((a, b) :: m) a = b := by
    intro a b m; simp [Memory.read, NMap.getD, NMap.get?_cons]
  have tail : ∀ (a : Nat) (b : Byte) (m : Memory) (j : Nat), j ≠ a → Memory.read ((a, b) :: m) j = Memory.read m j := by
    intro a b m j h; simp [Memory.read, NMap.getD, NMap.get?_cons, h]
  intro m
  induction m with
  | nil =>
    intro n _ hn h
    cases n with
    | nil => rfl
    | cons c n =>
      obtain ⟨a, b⟩ := c
      have h1 := h a
      rw [head, Memory.read_nil] at h1
      exact absurd h1.symm (((Memory.wf_iff _).1 hn).2 (a, b) List.mem_cons_self)
  | cons c m ih =>
    obtain ⟨a, b⟩ := c
    intro n hm hn h
    have hm' := (Memory.wf_iff _).1 hm
    have hs := (NMap.sorted_cons _ _).1 hm'.1
    cases n with
    | nil =>
      have h1 := h a
      rw [head, Memory.read_nil] at h1
      exact absurd h1 (hm'.2 (a, b) List.mem_cons_self)
    | cons d n =>
      obtain ⟨a', b'⟩ := d
      have hn' := (Memory.wf_iff _).1 hn
      have hs' := (NMap.sorted_cons _ _).1 hn'.1
      have hb : b ≠ Memory.blank := hm'.2 (a, b) List.mem_cons_self
      have hb' : b' ≠ Memory.blank := hn'.2 (a', b') List.mem_cons_self
      have haa : a = a' := by
        rcases Nat.lt_trichotomy a a' with hlt | heq | hgt
        · exfalso
          have h1 := h a
          rw [head, noBelow] at h1
          · exact hb h1
          · intro d hd
            rcases List.mem_cons.1 hd with rfl | hd
            · exact hlt
            · exact lt_trans hlt (hs'.1 d hd)
        · exact heq
        · exfalso
          have h1 := h a'
          rw [head, noBelow] at h1
          · exact hb' h1.symm
          · intro d hd
            rcases List.mem_cons.1 hd with rfl | hd
            · exact hgt
            · exact lt_trans hgt (hs.1 d hd)
      subst haa
      have hbb : b = b' := by
        have h1 := h a
        rwa [head, head] at h1
      subst hbb
      have wfm : Memory.wf m = true := (Memory.wf_iff _).2 ⟨hs.2, fun c hc => hm'.2 c (List.mem_cons_of_mem _ hc)⟩
      have wfn : Memory.wf n = true := (Memory.wf_iff _).2 ⟨hs'.2, fun c hc => hn'.2 c (List.mem_cons_of_mem _ hc)⟩
      rw [ih n wfm wfn]
      intro j
      by_cases hj : j = a
      · subst hj
        rw [noBelow m j fun d hd => hs.1 d hd, noBelow n j fun d hd => hs'.1 d hd]
      · have h1 := h j
        rwa [tail _ _ _ _ hj, tail _ _ _ _ hj] at h1

end Sys2Proof.Machine
end

