-- ==== Sys2Proof/Laws/State.lean ====
section
/-! SUPPORT. What each update of State leaves of each field, and reading a unit after writing one. -/

namespace Sys2Proof.Machine

/-! ### Fields after updates -/

@[simp] theorem State.setCore_cycle (s : State) (c : Nat) (k : Core) : (s.setCore c k).cycle = s.cycle := rfl
@[simp] theorem State.setCore_tick (s : State) (c : Nat) (k : Core) : (s.setCore c k).tick = s.tick := rfl
@[simp] theorem State.setCore_frozen (s : State) (c : Nat) (k : Core) : (s.setCore c k).frozen = s.frozen := rfl
@[simp] theorem State.setCore_pinLow (s : State) (c : Nat) (k : Core) : (s.setCore c k).pinLow = s.pinLow := rfl
@[simp] theorem State.setCore_endWritten (s : State) (c : Nat) (k : Core) : (s.setCore c k).endWritten = s.endWritten := rfl
@[simp] theorem State.setCore_tickSet (s : State) (c : Nat) (k : Core) : (s.setCore c k).tickSet = s.tickSet := rfl
@[simp] theorem State.setCore_heldHost (s : State) (c : Nat) (k : Core) : (s.setCore c k).heldHost = s.heldHost := rfl
@[simp] theorem State.setCore_recovery (s : State) (c : Nat) (k : Core) : (s.setCore c k).recovery = s.recovery := rfl
@[simp] theorem State.setCore_firmware (s : State) (c : Nat) (k : Core) : (s.setCore c k).firmware = s.firmware := rfl
@[simp] theorem State.setCore_mem (s : State) (c : Nat) (k : Core) : (s.setCore c k).mem = s.mem := rfl
@[simp] theorem State.setCore_hostMem (s : State) (c : Nat) (k : Core) : (s.setCore c k).hostMem = s.hostMem := rfl
@[simp] theorem State.setCore_lines (s : State) (c : Nat) (k : Core) : (s.setCore c k).lines = s.lines := rfl
@[simp] theorem State.setCore_oldWords (s : State) (c : Nat) (k : Core) : (s.setCore c k).oldWords = s.oldWords := rfl
@[simp] theorem State.setCore_unplaced (s : State) (c : Nat) (k : Core) : (s.setCore c k).unplaced = s.unplaced := rfl
@[simp] theorem State.setCore_unplacedLines (s : State) (c : Nat) (k : Core) : (s.setCore c k).unplacedLines = s.unplacedLines := rfl
@[simp] theorem State.setCore_clusters (s : State) (c : Nat) (k : Core) : (s.setCore c k).clusters = s.clusters := rfl
@[simp] theorem State.setCore_towers (s : State) (c : Nat) (k : Core) : (s.setCore c k).towers = s.towers := rfl
@[simp] theorem State.setCore_waves (s : State) (c : Nat) (k : Core) : (s.setCore c k).waves = s.waves := rfl
@[simp] theorem State.setCore_groups (s : State) (c : Nat) (k : Core) : (s.setCore c k).groups = s.groups := rfl
@[simp] theorem State.setCore_gangs (s : State) (c : Nat) (k : Core) : (s.setCore c k).gangs = s.gangs := rfl
@[simp] theorem State.setCore_nodes (s : State) (c : Nat) (k : Core) : (s.setCore c k).nodes = s.nodes := rfl
@[simp] theorem State.setCore_comms (s : State) (c : Nat) (k : Core) : (s.setCore c k).comms = s.comms := rfl
@[simp] theorem State.setCore_dev (s : State) (c : Nat) (k : Core) : (s.setCore c k).dev = s.dev := rfl
@[simp] theorem State.setCore_hostRead (s : State) (c : Nat) (k : Core) : (s.setCore c k).hostRead = s.hostRead := rfl
@[simp] theorem State.setCore_stamp (s : State) (c : Nat) (k : Core) : (s.setCore c k).stamp = s.stamp := rfl
@[simp] theorem State.setCore_free (s : State) (c : Nat) (k : Core) : (s.setCore c k).free = s.free := rfl
@[simp] theorem State.setCore_cur (s : State) (c : Nat) (k : Core) : (s.setCore c k).cur = s.cur := rfl
@[simp] theorem State.setCore_agenda (s : State) (c : Nat) (k : Core) : (s.setCore c k).agenda = s.agenda := rfl

@[simp] theorem State.modCore_cycle (s : State) (c : Nat) (f : Core → Core) : (s.modCore c f).cycle = s.cycle := rfl
@[simp] theorem State.modCore_tick (s : State) (c : Nat) (f : Core → Core) : (s.modCore c f).tick = s.tick := rfl
@[simp] theorem State.modCore_frozen (s : State) (c : Nat) (f : Core → Core) : (s.modCore c f).frozen = s.frozen := rfl
@[simp] theorem State.modCore_pinLow (s : State) (c : Nat) (f : Core → Core) : (s.modCore c f).pinLow = s.pinLow := rfl
@[simp] theorem State.modCore_endWritten (s : State) (c : Nat) (f : Core → Core) : (s.modCore c f).endWritten = s.endWritten := rfl
@[simp] theorem State.modCore_tickSet (s : State) (c : Nat) (f : Core → Core) : (s.modCore c f).tickSet = s.tickSet := rfl
@[simp] theorem State.modCore_heldHost (s : State) (c : Nat) (f : Core → Core) : (s.modCore c f).heldHost = s.heldHost := rfl
@[simp] theorem State.modCore_recovery (s : State) (c : Nat) (f : Core → Core) : (s.modCore c f).recovery = s.recovery := rfl
@[simp] theorem State.modCore_firmware (s : State) (c : Nat) (f : Core → Core) : (s.modCore c f).firmware = s.firmware := rfl
@[simp] theorem State.modCore_mem (s : State) (c : Nat) (f : Core → Core) : (s.modCore c f).mem = s.mem := rfl
@[simp] theorem State.modCore_hostMem (s : State) (c : Nat) (f : Core → Core) : (s.modCore c f).hostMem = s.hostMem := rfl
@[simp] theorem State.modCore_lines (s : State) (c : Nat) (f : Core → Core) : (s.modCore c f).lines = s.lines := rfl
@[simp] theorem State.modCore_oldWords (s : State) (c : Nat) (f : Core → Core) : (s.modCore c f).oldWords = s.oldWords := rfl
@[simp] theorem State.modCore_unplaced (s : State) (c : Nat) (f : Core → Core) : (s.modCore c f).unplaced = s.unplaced := rfl
@[simp] theorem State.modCore_unplacedLines (s : State) (c : Nat) (f : Core → Core) : (s.modCore c f).unplacedLines = s.unplacedLines := rfl
@[simp] theorem State.modCore_clusters (s : State) (c : Nat) (f : Core → Core) : (s.modCore c f).clusters = s.clusters := rfl
@[simp] theorem State.modCore_towers (s : State) (c : Nat) (f : Core → Core) : (s.modCore c f).towers = s.towers := rfl
@[simp] theorem State.modCore_waves (s : State) (c : Nat) (f : Core → Core) : (s.modCore c f).waves = s.waves := rfl
@[simp] theorem State.modCore_groups (s : State) (c : Nat) (f : Core → Core) : (s.modCore c f).groups = s.groups := rfl
@[simp] theorem State.modCore_gangs (s : State) (c : Nat) (f : Core → Core) : (s.modCore c f).gangs = s.gangs := rfl
@[simp] theorem State.modCore_nodes (s : State) (c : Nat) (f : Core → Core) : (s.modCore c f).nodes = s.nodes := rfl
@[simp] theorem State.modCore_comms (s : State) (c : Nat) (f : Core → Core) : (s.modCore c f).comms = s.comms := rfl
@[simp] theorem State.modCore_dev (s : State) (c : Nat) (f : Core → Core) : (s.modCore c f).dev = s.dev := rfl
@[simp] theorem State.modCore_hostRead (s : State) (c : Nat) (f : Core → Core) : (s.modCore c f).hostRead = s.hostRead := rfl
@[simp] theorem State.modCore_stamp (s : State) (c : Nat) (f : Core → Core) : (s.modCore c f).stamp = s.stamp := rfl
@[simp] theorem State.modCore_free (s : State) (c : Nat) (f : Core → Core) : (s.modCore c f).free = s.free := rfl
@[simp] theorem State.modCore_cur (s : State) (c : Nat) (f : Core → Core) : (s.modCore c f).cur = s.cur := rfl
@[simp] theorem State.modCore_agenda (s : State) (c : Nat) (f : Core → Core) : (s.modCore c f).agenda = s.agenda := rfl

@[simp] theorem State.modCluster_cycle (s : State) (k : Nat) (f : Cluster → Cluster) : (s.modCluster k f).cycle = s.cycle := rfl
@[simp] theorem State.modCluster_tick (s : State) (k : Nat) (f : Cluster → Cluster) : (s.modCluster k f).tick = s.tick := rfl
@[simp] theorem State.modCluster_frozen (s : State) (k : Nat) (f : Cluster → Cluster) : (s.modCluster k f).frozen = s.frozen := rfl
@[simp] theorem State.modCluster_pinLow (s : State) (k : Nat) (f : Cluster → Cluster) : (s.modCluster k f).pinLow = s.pinLow := rfl
@[simp] theorem State.modCluster_endWritten (s : State) (k : Nat) (f : Cluster → Cluster) : (s.modCluster k f).endWritten = s.endWritten := rfl
@[simp] theorem State.modCluster_tickSet (s : State) (k : Nat) (f : Cluster → Cluster) : (s.modCluster k f).tickSet = s.tickSet := rfl
@[simp] theorem State.modCluster_heldHost (s : State) (k : Nat) (f : Cluster → Cluster) : (s.modCluster k f).heldHost = s.heldHost := rfl
@[simp] theorem State.modCluster_recovery (s : State) (k : Nat) (f : Cluster → Cluster) : (s.modCluster k f).recovery = s.recovery := rfl
@[simp] theorem State.modCluster_firmware (s : State) (k : Nat) (f : Cluster → Cluster) : (s.modCluster k f).firmware = s.firmware := rfl
@[simp] theorem State.modCluster_mem (s : State) (k : Nat) (f : Cluster → Cluster) : (s.modCluster k f).mem = s.mem := rfl
@[simp] theorem State.modCluster_hostMem (s : State) (k : Nat) (f : Cluster → Cluster) : (s.modCluster k f).hostMem = s.hostMem := rfl
@[simp] theorem State.modCluster_lines (s : State) (k : Nat) (f : Cluster → Cluster) : (s.modCluster k f).lines = s.lines := rfl
@[simp] theorem State.modCluster_oldWords (s : State) (k : Nat) (f : Cluster → Cluster) : (s.modCluster k f).oldWords = s.oldWords := rfl
@[simp] theorem State.modCluster_unplaced (s : State) (k : Nat) (f : Cluster → Cluster) : (s.modCluster k f).unplaced = s.unplaced := rfl
@[simp] theorem State.modCluster_unplacedLines (s : State) (k : Nat) (f : Cluster → Cluster) : (s.modCluster k f).unplacedLines = s.unplacedLines := rfl
@[simp] theorem State.modCluster_cores (s : State) (k : Nat) (f : Cluster → Cluster) : (s.modCluster k f).cores = s.cores := rfl
@[simp] theorem State.modCluster_towers (s : State) (k : Nat) (f : Cluster → Cluster) : (s.modCluster k f).towers = s.towers := rfl
@[simp] theorem State.modCluster_waves (s : State) (k : Nat) (f : Cluster → Cluster) : (s.modCluster k f).waves = s.waves := rfl
@[simp] theorem State.modCluster_groups (s : State) (k : Nat) (f : Cluster → Cluster) : (s.modCluster k f).groups = s.groups := rfl
@[simp] theorem State.modCluster_gangs (s : State) (k : Nat) (f : Cluster → Cluster) : (s.modCluster k f).gangs = s.gangs := rfl
@[simp] theorem State.modCluster_nodes (s : State) (k : Nat) (f : Cluster → Cluster) : (s.modCluster k f).nodes = s.nodes := rfl
@[simp] theorem State.modCluster_comms (s : State) (k : Nat) (f : Cluster → Cluster) : (s.modCluster k f).comms = s.comms := rfl
@[simp] theorem State.modCluster_dev (s : State) (k : Nat) (f : Cluster → Cluster) : (s.modCluster k f).dev = s.dev := rfl
@[simp] theorem State.modCluster_hostRead (s : State) (k : Nat) (f : Cluster → Cluster) : (s.modCluster k f).hostRead = s.hostRead := rfl
@[simp] theorem State.modCluster_stamp (s : State) (k : Nat) (f : Cluster → Cluster) : (s.modCluster k f).stamp = s.stamp := rfl
@[simp] theorem State.modCluster_free (s : State) (k : Nat) (f : Cluster → Cluster) : (s.modCluster k f).free = s.free := rfl
@[simp] theorem State.modCluster_cur (s : State) (k : Nat) (f : Cluster → Cluster) : (s.modCluster k f).cur = s.cur := rfl
@[simp] theorem State.modCluster_agenda (s : State) (k : Nat) (f : Cluster → Cluster) : (s.modCluster k f).agenda = s.agenda := rfl

@[simp] theorem State.modTower_cycle (s : State) (t : Nat) (f : Tower → Tower) : (s.modTower t f).cycle = s.cycle := rfl
@[simp] theorem State.modTower_tick (s : State) (t : Nat) (f : Tower → Tower) : (s.modTower t f).tick = s.tick := rfl
@[simp] theorem State.modTower_frozen (s : State) (t : Nat) (f : Tower → Tower) : (s.modTower t f).frozen = s.frozen := rfl
@[simp] theorem State.modTower_pinLow (s : State) (t : Nat) (f : Tower → Tower) : (s.modTower t f).pinLow = s.pinLow := rfl
@[simp] theorem State.modTower_endWritten (s : State) (t : Nat) (f : Tower → Tower) : (s.modTower t f).endWritten = s.endWritten := rfl
@[simp] theorem State.modTower_tickSet (s : State) (t : Nat) (f : Tower → Tower) : (s.modTower t f).tickSet = s.tickSet := rfl
@[simp] theorem State.modTower_heldHost (s : State) (t : Nat) (f : Tower → Tower) : (s.modTower t f).heldHost = s.heldHost := rfl
@[simp] theorem State.modTower_recovery (s : State) (t : Nat) (f : Tower → Tower) : (s.modTower t f).recovery = s.recovery := rfl
@[simp] theorem State.modTower_firmware (s : State) (t : Nat) (f : Tower → Tower) : (s.modTower t f).firmware = s.firmware := rfl
@[simp] theorem State.modTower_mem (s : State) (t : Nat) (f : Tower → Tower) : (s.modTower t f).mem = s.mem := rfl
@[simp] theorem State.modTower_hostMem (s : State) (t : Nat) (f : Tower → Tower) : (s.modTower t f).hostMem = s.hostMem := rfl
@[simp] theorem State.modTower_lines (s : State) (t : Nat) (f : Tower → Tower) : (s.modTower t f).lines = s.lines := rfl
@[simp] theorem State.modTower_oldWords (s : State) (t : Nat) (f : Tower → Tower) : (s.modTower t f).oldWords = s.oldWords := rfl
@[simp] theorem State.modTower_unplaced (s : State) (t : Nat) (f : Tower → Tower) : (s.modTower t f).unplaced = s.unplaced := rfl
@[simp] theorem State.modTower_unplacedLines (s : State) (t : Nat) (f : Tower → Tower) : (s.modTower t f).unplacedLines = s.unplacedLines := rfl
@[simp] theorem State.modTower_cores (s : State) (t : Nat) (f : Tower → Tower) : (s.modTower t f).cores = s.cores := rfl
@[simp] theorem State.modTower_clusters (s : State) (t : Nat) (f : Tower → Tower) : (s.modTower t f).clusters = s.clusters := rfl
@[simp] theorem State.modTower_waves (s : State) (t : Nat) (f : Tower → Tower) : (s.modTower t f).waves = s.waves := rfl
@[simp] theorem State.modTower_groups (s : State) (t : Nat) (f : Tower → Tower) : (s.modTower t f).groups = s.groups := rfl
@[simp] theorem State.modTower_gangs (s : State) (t : Nat) (f : Tower → Tower) : (s.modTower t f).gangs = s.gangs := rfl
@[simp] theorem State.modTower_nodes (s : State) (t : Nat) (f : Tower → Tower) : (s.modTower t f).nodes = s.nodes := rfl
@[simp] theorem State.modTower_comms (s : State) (t : Nat) (f : Tower → Tower) : (s.modTower t f).comms = s.comms := rfl
@[simp] theorem State.modTower_dev (s : State) (t : Nat) (f : Tower → Tower) : (s.modTower t f).dev = s.dev := rfl
@[simp] theorem State.modTower_hostRead (s : State) (t : Nat) (f : Tower → Tower) : (s.modTower t f).hostRead = s.hostRead := rfl
@[simp] theorem State.modTower_stamp (s : State) (t : Nat) (f : Tower → Tower) : (s.modTower t f).stamp = s.stamp := rfl
@[simp] theorem State.modTower_free (s : State) (t : Nat) (f : Tower → Tower) : (s.modTower t f).free = s.free := rfl
@[simp] theorem State.modTower_cur (s : State) (t : Nat) (f : Tower → Tower) : (s.modTower t f).cur = s.cur := rfl
@[simp] theorem State.modTower_agenda (s : State) (t : Nat) (f : Tower → Tower) : (s.modTower t f).agenda = s.agenda := rfl

@[simp] theorem State.setWave_cycle (s : State) (w : Nat) (x : Wave) : (s.setWave w x).cycle = s.cycle := rfl
@[simp] theorem State.setWave_tick (s : State) (w : Nat) (x : Wave) : (s.setWave w x).tick = s.tick := rfl
@[simp] theorem State.setWave_frozen (s : State) (w : Nat) (x : Wave) : (s.setWave w x).frozen = s.frozen := rfl
@[simp] theorem State.setWave_pinLow (s : State) (w : Nat) (x : Wave) : (s.setWave w x).pinLow = s.pinLow := rfl
@[simp] theorem State.setWave_endWritten (s : State) (w : Nat) (x : Wave) : (s.setWave w x).endWritten = s.endWritten := rfl
@[simp] theorem State.setWave_tickSet (s : State) (w : Nat) (x : Wave) : (s.setWave w x).tickSet = s.tickSet := rfl
@[simp] theorem State.setWave_heldHost (s : State) (w : Nat) (x : Wave) : (s.setWave w x).heldHost = s.heldHost := rfl
@[simp] theorem State.setWave_recovery (s : State) (w : Nat) (x : Wave) : (s.setWave w x).recovery = s.recovery := rfl
@[simp] theorem State.setWave_firmware (s : State) (w : Nat) (x : Wave) : (s.setWave w x).firmware = s.firmware := rfl
@[simp] theorem State.setWave_mem (s : State) (w : Nat) (x : Wave) : (s.setWave w x).mem = s.mem := rfl
@[simp] theorem State.setWave_hostMem (s : State) (w : Nat) (x : Wave) : (s.setWave w x).hostMem = s.hostMem := rfl
@[simp] theorem State.setWave_lines (s : State) (w : Nat) (x : Wave) : (s.setWave w x).lines = s.lines := rfl
@[simp] theorem State.setWave_oldWords (s : State) (w : Nat) (x : Wave) : (s.setWave w x).oldWords = s.oldWords := rfl
@[simp] theorem State.setWave_unplaced (s : State) (w : Nat) (x : Wave) : (s.setWave w x).unplaced = s.unplaced := rfl
@[simp] theorem State.setWave_unplacedLines (s : State) (w : Nat) (x : Wave) : (s.setWave w x).unplacedLines = s.unplacedLines := rfl
@[simp] theorem State.setWave_cores (s : State) (w : Nat) (x : Wave) : (s.setWave w x).cores = s.cores := rfl
@[simp] theorem State.setWave_clusters (s : State) (w : Nat) (x : Wave) : (s.setWave w x).clusters = s.clusters := rfl
@[simp] theorem State.setWave_towers (s : State) (w : Nat) (x : Wave) : (s.setWave w x).towers = s.towers := rfl
@[simp] theorem State.setWave_groups (s : State) (w : Nat) (x : Wave) : (s.setWave w x).groups = s.groups := rfl
@[simp] theorem State.setWave_gangs (s : State) (w : Nat) (x : Wave) : (s.setWave w x).gangs = s.gangs := rfl
@[simp] theorem State.setWave_nodes (s : State) (w : Nat) (x : Wave) : (s.setWave w x).nodes = s.nodes := rfl
@[simp] theorem State.setWave_comms (s : State) (w : Nat) (x : Wave) : (s.setWave w x).comms = s.comms := rfl
@[simp] theorem State.setWave_dev (s : State) (w : Nat) (x : Wave) : (s.setWave w x).dev = s.dev := rfl
@[simp] theorem State.setWave_hostRead (s : State) (w : Nat) (x : Wave) : (s.setWave w x).hostRead = s.hostRead := rfl
@[simp] theorem State.setWave_stamp (s : State) (w : Nat) (x : Wave) : (s.setWave w x).stamp = s.stamp := rfl
@[simp] theorem State.setWave_free (s : State) (w : Nat) (x : Wave) : (s.setWave w x).free = s.free := rfl
@[simp] theorem State.setWave_cur (s : State) (w : Nat) (x : Wave) : (s.setWave w x).cur = s.cur := rfl
@[simp] theorem State.setWave_agenda (s : State) (w : Nat) (x : Wave) : (s.setWave w x).agenda = s.agenda := rfl

@[simp] theorem State.modWave_cycle (s : State) (w : Nat) (f : Wave → Wave) : (s.modWave w f).cycle = s.cycle := rfl
@[simp] theorem State.modWave_tick (s : State) (w : Nat) (f : Wave → Wave) : (s.modWave w f).tick = s.tick := rfl
@[simp] theorem State.modWave_frozen (s : State) (w : Nat) (f : Wave → Wave) : (s.modWave w f).frozen = s.frozen := rfl
@[simp] theorem State.modWave_pinLow (s : State) (w : Nat) (f : Wave → Wave) : (s.modWave w f).pinLow = s.pinLow := rfl
@[simp] theorem State.modWave_endWritten (s : State) (w : Nat) (f : Wave → Wave) : (s.modWave w f).endWritten = s.endWritten := rfl
@[simp] theorem State.modWave_tickSet (s : State) (w : Nat) (f : Wave → Wave) : (s.modWave w f).tickSet = s.tickSet := rfl
@[simp] theorem State.modWave_heldHost (s : State) (w : Nat) (f : Wave → Wave) : (s.modWave w f).heldHost = s.heldHost := rfl
@[simp] theorem State.modWave_recovery (s : State) (w : Nat) (f : Wave → Wave) : (s.modWave w f).recovery = s.recovery := rfl
@[simp] theorem State.modWave_firmware (s : State) (w : Nat) (f : Wave → Wave) : (s.modWave w f).firmware = s.firmware := rfl
@[simp] theorem State.modWave_mem (s : State) (w : Nat) (f : Wave → Wave) : (s.modWave w f).mem = s.mem := rfl
@[simp] theorem State.modWave_hostMem (s : State) (w : Nat) (f : Wave → Wave) : (s.modWave w f).hostMem = s.hostMem := rfl
@[simp] theorem State.modWave_lines (s : State) (w : Nat) (f : Wave → Wave) : (s.modWave w f).lines = s.lines := rfl
@[simp] theorem State.modWave_oldWords (s : State) (w : Nat) (f : Wave → Wave) : (s.modWave w f).oldWords = s.oldWords := rfl
@[simp] theorem State.modWave_unplaced (s : State) (w : Nat) (f : Wave → Wave) : (s.modWave w f).unplaced = s.unplaced := rfl
@[simp] theorem State.modWave_unplacedLines (s : State) (w : Nat) (f : Wave → Wave) : (s.modWave w f).unplacedLines = s.unplacedLines := rfl
@[simp] theorem State.modWave_cores (s : State) (w : Nat) (f : Wave → Wave) : (s.modWave w f).cores = s.cores := rfl
@[simp] theorem State.modWave_clusters (s : State) (w : Nat) (f : Wave → Wave) : (s.modWave w f).clusters = s.clusters := rfl
@[simp] theorem State.modWave_towers (s : State) (w : Nat) (f : Wave → Wave) : (s.modWave w f).towers = s.towers := rfl
@[simp] theorem State.modWave_groups (s : State) (w : Nat) (f : Wave → Wave) : (s.modWave w f).groups = s.groups := rfl
@[simp] theorem State.modWave_gangs (s : State) (w : Nat) (f : Wave → Wave) : (s.modWave w f).gangs = s.gangs := rfl
@[simp] theorem State.modWave_nodes (s : State) (w : Nat) (f : Wave → Wave) : (s.modWave w f).nodes = s.nodes := rfl
@[simp] theorem State.modWave_comms (s : State) (w : Nat) (f : Wave → Wave) : (s.modWave w f).comms = s.comms := rfl
@[simp] theorem State.modWave_dev (s : State) (w : Nat) (f : Wave → Wave) : (s.modWave w f).dev = s.dev := rfl
@[simp] theorem State.modWave_hostRead (s : State) (w : Nat) (f : Wave → Wave) : (s.modWave w f).hostRead = s.hostRead := rfl
@[simp] theorem State.modWave_stamp (s : State) (w : Nat) (f : Wave → Wave) : (s.modWave w f).stamp = s.stamp := rfl
@[simp] theorem State.modWave_free (s : State) (w : Nat) (f : Wave → Wave) : (s.modWave w f).free = s.free := rfl
@[simp] theorem State.modWave_cur (s : State) (w : Nat) (f : Wave → Wave) : (s.modWave w f).cur = s.cur := rfl
@[simp] theorem State.modWave_agenda (s : State) (w : Nat) (f : Wave → Wave) : (s.modWave w f).agenda = s.agenda := rfl

@[simp] theorem State.setGroup_cycle (s : State) (g : Nat) (x : Group) : (s.setGroup g x).cycle = s.cycle := rfl
@[simp] theorem State.setGroup_tick (s : State) (g : Nat) (x : Group) : (s.setGroup g x).tick = s.tick := rfl
@[simp] theorem State.setGroup_frozen (s : State) (g : Nat) (x : Group) : (s.setGroup g x).frozen = s.frozen := rfl
@[simp] theorem State.setGroup_pinLow (s : State) (g : Nat) (x : Group) : (s.setGroup g x).pinLow = s.pinLow := rfl
@[simp] theorem State.setGroup_endWritten (s : State) (g : Nat) (x : Group) : (s.setGroup g x).endWritten = s.endWritten := rfl
@[simp] theorem State.setGroup_tickSet (s : State) (g : Nat) (x : Group) : (s.setGroup g x).tickSet = s.tickSet := rfl
@[simp] theorem State.setGroup_heldHost (s : State) (g : Nat) (x : Group) : (s.setGroup g x).heldHost = s.heldHost := rfl
@[simp] theorem State.setGroup_recovery (s : State) (g : Nat) (x : Group) : (s.setGroup g x).recovery = s.recovery := rfl
@[simp] theorem State.setGroup_firmware (s : State) (g : Nat) (x : Group) : (s.setGroup g x).firmware = s.firmware := rfl
@[simp] theorem State.setGroup_mem (s : State) (g : Nat) (x : Group) : (s.setGroup g x).mem = s.mem := rfl
@[simp] theorem State.setGroup_hostMem (s : State) (g : Nat) (x : Group) : (s.setGroup g x).hostMem = s.hostMem := rfl
@[simp] theorem State.setGroup_lines (s : State) (g : Nat) (x : Group) : (s.setGroup g x).lines = s.lines := rfl
@[simp] theorem State.setGroup_oldWords (s : State) (g : Nat) (x : Group) : (s.setGroup g x).oldWords = s.oldWords := rfl
@[simp] theorem State.setGroup_unplaced (s : State) (g : Nat) (x : Group) : (s.setGroup g x).unplaced = s.unplaced := rfl
@[simp] theorem State.setGroup_unplacedLines (s : State) (g : Nat) (x : Group) : (s.setGroup g x).unplacedLines = s.unplacedLines := rfl
@[simp] theorem State.setGroup_cores (s : State) (g : Nat) (x : Group) : (s.setGroup g x).cores = s.cores := rfl
@[simp] theorem State.setGroup_clusters (s : State) (g : Nat) (x : Group) : (s.setGroup g x).clusters = s.clusters := rfl
@[simp] theorem State.setGroup_towers (s : State) (g : Nat) (x : Group) : (s.setGroup g x).towers = s.towers := rfl
@[simp] theorem State.setGroup_waves (s : State) (g : Nat) (x : Group) : (s.setGroup g x).waves = s.waves := rfl
@[simp] theorem State.setGroup_gangs (s : State) (g : Nat) (x : Group) : (s.setGroup g x).gangs = s.gangs := rfl
@[simp] theorem State.setGroup_nodes (s : State) (g : Nat) (x : Group) : (s.setGroup g x).nodes = s.nodes := rfl
@[simp] theorem State.setGroup_comms (s : State) (g : Nat) (x : Group) : (s.setGroup g x).comms = s.comms := rfl
@[simp] theorem State.setGroup_dev (s : State) (g : Nat) (x : Group) : (s.setGroup g x).dev = s.dev := rfl
@[simp] theorem State.setGroup_hostRead (s : State) (g : Nat) (x : Group) : (s.setGroup g x).hostRead = s.hostRead := rfl
@[simp] theorem State.setGroup_stamp (s : State) (g : Nat) (x : Group) : (s.setGroup g x).stamp = s.stamp := rfl
@[simp] theorem State.setGroup_free (s : State) (g : Nat) (x : Group) : (s.setGroup g x).free = s.free := rfl
@[simp] theorem State.setGroup_cur (s : State) (g : Nat) (x : Group) : (s.setGroup g x).cur = s.cur := rfl
@[simp] theorem State.setGroup_agenda (s : State) (g : Nat) (x : Group) : (s.setGroup g x).agenda = s.agenda := rfl

@[simp] theorem State.modGroup_cycle (s : State) (g : Nat) (f : Group → Group) : (s.modGroup g f).cycle = s.cycle := rfl
@[simp] theorem State.modGroup_tick (s : State) (g : Nat) (f : Group → Group) : (s.modGroup g f).tick = s.tick := rfl
@[simp] theorem State.modGroup_frozen (s : State) (g : Nat) (f : Group → Group) : (s.modGroup g f).frozen = s.frozen := rfl
@[simp] theorem State.modGroup_pinLow (s : State) (g : Nat) (f : Group → Group) : (s.modGroup g f).pinLow = s.pinLow := rfl
@[simp] theorem State.modGroup_endWritten (s : State) (g : Nat) (f : Group → Group) : (s.modGroup g f).endWritten = s.endWritten := rfl
@[simp] theorem State.modGroup_tickSet (s : State) (g : Nat) (f : Group → Group) : (s.modGroup g f).tickSet = s.tickSet := rfl
@[simp] theorem State.modGroup_heldHost (s : State) (g : Nat) (f : Group → Group) : (s.modGroup g f).heldHost = s.heldHost := rfl
@[simp] theorem State.modGroup_recovery (s : State) (g : Nat) (f : Group → Group) : (s.modGroup g f).recovery = s.recovery := rfl
@[simp] theorem State.modGroup_firmware (s : State) (g : Nat) (f : Group → Group) : (s.modGroup g f).firmware = s.firmware := rfl
@[simp] theorem State.modGroup_mem (s : State) (g : Nat) (f : Group → Group) : (s.modGroup g f).mem = s.mem := rfl
@[simp] theorem State.modGroup_hostMem (s : State) (g : Nat) (f : Group → Group) : (s.modGroup g f).hostMem = s.hostMem := rfl
@[simp] theorem State.modGroup_lines (s : State) (g : Nat) (f : Group → Group) : (s.modGroup g f).lines = s.lines := rfl
@[simp] theorem State.modGroup_oldWords (s : State) (g : Nat) (f : Group → Group) : (s.modGroup g f).oldWords = s.oldWords := rfl
@[simp] theorem State.modGroup_unplaced (s : State) (g : Nat) (f : Group → Group) : (s.modGroup g f).unplaced = s.unplaced := rfl
@[simp] theorem State.modGroup_unplacedLines (s : State) (g : Nat) (f : Group → Group) : (s.modGroup g f).unplacedLines = s.unplacedLines := rfl
@[simp] theorem State.modGroup_cores (s : State) (g : Nat) (f : Group → Group) : (s.modGroup g f).cores = s.cores := rfl
@[simp] theorem State.modGroup_clusters (s : State) (g : Nat) (f : Group → Group) : (s.modGroup g f).clusters = s.clusters := rfl
@[simp] theorem State.modGroup_towers (s : State) (g : Nat) (f : Group → Group) : (s.modGroup g f).towers = s.towers := rfl
@[simp] theorem State.modGroup_waves (s : State) (g : Nat) (f : Group → Group) : (s.modGroup g f).waves = s.waves := rfl
@[simp] theorem State.modGroup_gangs (s : State) (g : Nat) (f : Group → Group) : (s.modGroup g f).gangs = s.gangs := rfl
@[simp] theorem State.modGroup_nodes (s : State) (g : Nat) (f : Group → Group) : (s.modGroup g f).nodes = s.nodes := rfl
@[simp] theorem State.modGroup_comms (s : State) (g : Nat) (f : Group → Group) : (s.modGroup g f).comms = s.comms := rfl
@[simp] theorem State.modGroup_dev (s : State) (g : Nat) (f : Group → Group) : (s.modGroup g f).dev = s.dev := rfl
@[simp] theorem State.modGroup_hostRead (s : State) (g : Nat) (f : Group → Group) : (s.modGroup g f).hostRead = s.hostRead := rfl
@[simp] theorem State.modGroup_stamp (s : State) (g : Nat) (f : Group → Group) : (s.modGroup g f).stamp = s.stamp := rfl
@[simp] theorem State.modGroup_free (s : State) (g : Nat) (f : Group → Group) : (s.modGroup g f).free = s.free := rfl
@[simp] theorem State.modGroup_cur (s : State) (g : Nat) (f : Group → Group) : (s.modGroup g f).cur = s.cur := rfl
@[simp] theorem State.modGroup_agenda (s : State) (g : Nat) (f : Group → Group) : (s.modGroup g f).agenda = s.agenda := rfl

@[simp] theorem State.modGang_cycle (s : State) (g : Nat) (f : Gang → Gang) : (s.modGang g f).cycle = s.cycle := rfl
@[simp] theorem State.modGang_tick (s : State) (g : Nat) (f : Gang → Gang) : (s.modGang g f).tick = s.tick := rfl
@[simp] theorem State.modGang_frozen (s : State) (g : Nat) (f : Gang → Gang) : (s.modGang g f).frozen = s.frozen := rfl
@[simp] theorem State.modGang_pinLow (s : State) (g : Nat) (f : Gang → Gang) : (s.modGang g f).pinLow = s.pinLow := rfl
@[simp] theorem State.modGang_endWritten (s : State) (g : Nat) (f : Gang → Gang) : (s.modGang g f).endWritten = s.endWritten := rfl
@[simp] theorem State.modGang_tickSet (s : State) (g : Nat) (f : Gang → Gang) : (s.modGang g f).tickSet = s.tickSet := rfl
@[simp] theorem State.modGang_heldHost (s : State) (g : Nat) (f : Gang → Gang) : (s.modGang g f).heldHost = s.heldHost := rfl
@[simp] theorem State.modGang_recovery (s : State) (g : Nat) (f : Gang → Gang) : (s.modGang g f).recovery = s.recovery := rfl
@[simp] theorem State.modGang_firmware (s : State) (g : Nat) (f : Gang → Gang) : (s.modGang g f).firmware = s.firmware := rfl
@[simp] theorem State.modGang_mem (s : State) (g : Nat) (f : Gang → Gang) : (s.modGang g f).mem = s.mem := rfl
@[simp] theorem State.modGang_hostMem (s : State) (g : Nat) (f : Gang → Gang) : (s.modGang g f).hostMem = s.hostMem := rfl
@[simp] theorem State.modGang_lines (s : State) (g : Nat) (f : Gang → Gang) : (s.modGang g f).lines = s.lines := rfl
@[simp] theorem State.modGang_oldWords (s : State) (g : Nat) (f : Gang → Gang) : (s.modGang g f).oldWords = s.oldWords := rfl
@[simp] theorem State.modGang_unplaced (s : State) (g : Nat) (f : Gang → Gang) : (s.modGang g f).unplaced = s.unplaced := rfl
@[simp] theorem State.modGang_unplacedLines (s : State) (g : Nat) (f : Gang → Gang) : (s.modGang g f).unplacedLines = s.unplacedLines := rfl
@[simp] theorem State.modGang_cores (s : State) (g : Nat) (f : Gang → Gang) : (s.modGang g f).cores = s.cores := rfl
@[simp] theorem State.modGang_clusters (s : State) (g : Nat) (f : Gang → Gang) : (s.modGang g f).clusters = s.clusters := rfl
@[simp] theorem State.modGang_towers (s : State) (g : Nat) (f : Gang → Gang) : (s.modGang g f).towers = s.towers := rfl
@[simp] theorem State.modGang_waves (s : State) (g : Nat) (f : Gang → Gang) : (s.modGang g f).waves = s.waves := rfl
@[simp] theorem State.modGang_groups (s : State) (g : Nat) (f : Gang → Gang) : (s.modGang g f).groups = s.groups := rfl
@[simp] theorem State.modGang_nodes (s : State) (g : Nat) (f : Gang → Gang) : (s.modGang g f).nodes = s.nodes := rfl
@[simp] theorem State.modGang_comms (s : State) (g : Nat) (f : Gang → Gang) : (s.modGang g f).comms = s.comms := rfl
@[simp] theorem State.modGang_dev (s : State) (g : Nat) (f : Gang → Gang) : (s.modGang g f).dev = s.dev := rfl
@[simp] theorem State.modGang_hostRead (s : State) (g : Nat) (f : Gang → Gang) : (s.modGang g f).hostRead = s.hostRead := rfl
@[simp] theorem State.modGang_stamp (s : State) (g : Nat) (f : Gang → Gang) : (s.modGang g f).stamp = s.stamp := rfl
@[simp] theorem State.modGang_free (s : State) (g : Nat) (f : Gang → Gang) : (s.modGang g f).free = s.free := rfl
@[simp] theorem State.modGang_cur (s : State) (g : Nat) (f : Gang → Gang) : (s.modGang g f).cur = s.cur := rfl
@[simp] theorem State.modGang_agenda (s : State) (g : Nat) (f : Gang → Gang) : (s.modGang g f).agenda = s.agenda := rfl

@[simp] theorem State.modNode_cycle (s : State) (n : Nat) (f : Node → Node) : (s.modNode n f).cycle = s.cycle := rfl
@[simp] theorem State.modNode_tick (s : State) (n : Nat) (f : Node → Node) : (s.modNode n f).tick = s.tick := rfl
@[simp] theorem State.modNode_frozen (s : State) (n : Nat) (f : Node → Node) : (s.modNode n f).frozen = s.frozen := rfl
@[simp] theorem State.modNode_pinLow (s : State) (n : Nat) (f : Node → Node) : (s.modNode n f).pinLow = s.pinLow := rfl
@[simp] theorem State.modNode_endWritten (s : State) (n : Nat) (f : Node → Node) : (s.modNode n f).endWritten = s.endWritten := rfl
@[simp] theorem State.modNode_tickSet (s : State) (n : Nat) (f : Node → Node) : (s.modNode n f).tickSet = s.tickSet := rfl
@[simp] theorem State.modNode_heldHost (s : State) (n : Nat) (f : Node → Node) : (s.modNode n f).heldHost = s.heldHost := rfl
@[simp] theorem State.modNode_recovery (s : State) (n : Nat) (f : Node → Node) : (s.modNode n f).recovery = s.recovery := rfl
@[simp] theorem State.modNode_firmware (s : State) (n : Nat) (f : Node → Node) : (s.modNode n f).firmware = s.firmware := rfl
@[simp] theorem State.modNode_mem (s : State) (n : Nat) (f : Node → Node) : (s.modNode n f).mem = s.mem := rfl
@[simp] theorem State.modNode_hostMem (s : State) (n : Nat) (f : Node → Node) : (s.modNode n f).hostMem = s.hostMem := rfl
@[simp] theorem State.modNode_lines (s : State) (n : Nat) (f : Node → Node) : (s.modNode n f).lines = s.lines := rfl
@[simp] theorem State.modNode_oldWords (s : State) (n : Nat) (f : Node → Node) : (s.modNode n f).oldWords = s.oldWords := rfl
@[simp] theorem State.modNode_unplaced (s : State) (n : Nat) (f : Node → Node) : (s.modNode n f).unplaced = s.unplaced := rfl
@[simp] theorem State.modNode_unplacedLines (s : State) (n : Nat) (f : Node → Node) : (s.modNode n f).unplacedLines = s.unplacedLines := rfl
@[simp] theorem State.modNode_cores (s : State) (n : Nat) (f : Node → Node) : (s.modNode n f).cores = s.cores := rfl
@[simp] theorem State.modNode_clusters (s : State) (n : Nat) (f : Node → Node) : (s.modNode n f).clusters = s.clusters := rfl
@[simp] theorem State.modNode_towers (s : State) (n : Nat) (f : Node → Node) : (s.modNode n f).towers = s.towers := rfl
@[simp] theorem State.modNode_waves (s : State) (n : Nat) (f : Node → Node) : (s.modNode n f).waves = s.waves := rfl
@[simp] theorem State.modNode_groups (s : State) (n : Nat) (f : Node → Node) : (s.modNode n f).groups = s.groups := rfl
@[simp] theorem State.modNode_gangs (s : State) (n : Nat) (f : Node → Node) : (s.modNode n f).gangs = s.gangs := rfl
@[simp] theorem State.modNode_comms (s : State) (n : Nat) (f : Node → Node) : (s.modNode n f).comms = s.comms := rfl
@[simp] theorem State.modNode_dev (s : State) (n : Nat) (f : Node → Node) : (s.modNode n f).dev = s.dev := rfl
@[simp] theorem State.modNode_hostRead (s : State) (n : Nat) (f : Node → Node) : (s.modNode n f).hostRead = s.hostRead := rfl
@[simp] theorem State.modNode_stamp (s : State) (n : Nat) (f : Node → Node) : (s.modNode n f).stamp = s.stamp := rfl
@[simp] theorem State.modNode_free (s : State) (n : Nat) (f : Node → Node) : (s.modNode n f).free = s.free := rfl
@[simp] theorem State.modNode_cur (s : State) (n : Nat) (f : Node → Node) : (s.modNode n f).cur = s.cur := rfl
@[simp] theorem State.modNode_agenda (s : State) (n : Nat) (f : Node → Node) : (s.modNode n f).agenda = s.agenda := rfl

@[simp] theorem State.modComm_cycle (s : State) (c : Nat) (f : Comm → Comm) : (s.modComm c f).cycle = s.cycle := rfl
@[simp] theorem State.modComm_tick (s : State) (c : Nat) (f : Comm → Comm) : (s.modComm c f).tick = s.tick := rfl
@[simp] theorem State.modComm_frozen (s : State) (c : Nat) (f : Comm → Comm) : (s.modComm c f).frozen = s.frozen := rfl
@[simp] theorem State.modComm_pinLow (s : State) (c : Nat) (f : Comm → Comm) : (s.modComm c f).pinLow = s.pinLow := rfl
@[simp] theorem State.modComm_endWritten (s : State) (c : Nat) (f : Comm → Comm) : (s.modComm c f).endWritten = s.endWritten := rfl
@[simp] theorem State.modComm_tickSet (s : State) (c : Nat) (f : Comm → Comm) : (s.modComm c f).tickSet = s.tickSet := rfl
@[simp] theorem State.modComm_heldHost (s : State) (c : Nat) (f : Comm → Comm) : (s.modComm c f).heldHost = s.heldHost := rfl
@[simp] theorem State.modComm_recovery (s : State) (c : Nat) (f : Comm → Comm) : (s.modComm c f).recovery = s.recovery := rfl
@[simp] theorem State.modComm_firmware (s : State) (c : Nat) (f : Comm → Comm) : (s.modComm c f).firmware = s.firmware := rfl
@[simp] theorem State.modComm_mem (s : State) (c : Nat) (f : Comm → Comm) : (s.modComm c f).mem = s.mem := rfl
@[simp] theorem State.modComm_hostMem (s : State) (c : Nat) (f : Comm → Comm) : (s.modComm c f).hostMem = s.hostMem := rfl
@[simp] theorem State.modComm_lines (s : State) (c : Nat) (f : Comm → Comm) : (s.modComm c f).lines = s.lines := rfl
@[simp] theorem State.modComm_oldWords (s : State) (c : Nat) (f : Comm → Comm) : (s.modComm c f).oldWords = s.oldWords := rfl
@[simp] theorem State.modComm_unplaced (s : State) (c : Nat) (f : Comm → Comm) : (s.modComm c f).unplaced = s.unplaced := rfl
@[simp] theorem State.modComm_unplacedLines (s : State) (c : Nat) (f : Comm → Comm) : (s.modComm c f).unplacedLines = s.unplacedLines := rfl
@[simp] theorem State.modComm_cores (s : State) (c : Nat) (f : Comm → Comm) : (s.modComm c f).cores = s.cores := rfl
@[simp] theorem State.modComm_clusters (s : State) (c : Nat) (f : Comm → Comm) : (s.modComm c f).clusters = s.clusters := rfl
@[simp] theorem State.modComm_towers (s : State) (c : Nat) (f : Comm → Comm) : (s.modComm c f).towers = s.towers := rfl
@[simp] theorem State.modComm_waves (s : State) (c : Nat) (f : Comm → Comm) : (s.modComm c f).waves = s.waves := rfl
@[simp] theorem State.modComm_groups (s : State) (c : Nat) (f : Comm → Comm) : (s.modComm c f).groups = s.groups := rfl
@[simp] theorem State.modComm_gangs (s : State) (c : Nat) (f : Comm → Comm) : (s.modComm c f).gangs = s.gangs := rfl
@[simp] theorem State.modComm_nodes (s : State) (c : Nat) (f : Comm → Comm) : (s.modComm c f).nodes = s.nodes := rfl
@[simp] theorem State.modComm_dev (s : State) (c : Nat) (f : Comm → Comm) : (s.modComm c f).dev = s.dev := rfl
@[simp] theorem State.modComm_hostRead (s : State) (c : Nat) (f : Comm → Comm) : (s.modComm c f).hostRead = s.hostRead := rfl
@[simp] theorem State.modComm_stamp (s : State) (c : Nat) (f : Comm → Comm) : (s.modComm c f).stamp = s.stamp := rfl
@[simp] theorem State.modComm_free (s : State) (c : Nat) (f : Comm → Comm) : (s.modComm c f).free = s.free := rfl
@[simp] theorem State.modComm_cur (s : State) (c : Nat) (f : Comm → Comm) : (s.modComm c f).cur = s.cur := rfl
@[simp] theorem State.modComm_agenda (s : State) (c : Nat) (f : Comm → Comm) : (s.modComm c f).agenda = s.agenda := rfl

@[simp] theorem State.modLine_cycle (s : State) (n : Nat) (f : LineInfo → LineInfo) : (s.modLine n f).cycle = s.cycle := rfl
@[simp] theorem State.modLine_tick (s : State) (n : Nat) (f : LineInfo → LineInfo) : (s.modLine n f).tick = s.tick := rfl
@[simp] theorem State.modLine_frozen (s : State) (n : Nat) (f : LineInfo → LineInfo) : (s.modLine n f).frozen = s.frozen := rfl
@[simp] theorem State.modLine_pinLow (s : State) (n : Nat) (f : LineInfo → LineInfo) : (s.modLine n f).pinLow = s.pinLow := rfl
@[simp] theorem State.modLine_endWritten (s : State) (n : Nat) (f : LineInfo → LineInfo) : (s.modLine n f).endWritten = s.endWritten := rfl
@[simp] theorem State.modLine_tickSet (s : State) (n : Nat) (f : LineInfo → LineInfo) : (s.modLine n f).tickSet = s.tickSet := rfl
@[simp] theorem State.modLine_heldHost (s : State) (n : Nat) (f : LineInfo → LineInfo) : (s.modLine n f).heldHost = s.heldHost := rfl
@[simp] theorem State.modLine_recovery (s : State) (n : Nat) (f : LineInfo → LineInfo) : (s.modLine n f).recovery = s.recovery := rfl
@[simp] theorem State.modLine_firmware (s : State) (n : Nat) (f : LineInfo → LineInfo) : (s.modLine n f).firmware = s.firmware := rfl
@[simp] theorem State.modLine_mem (s : State) (n : Nat) (f : LineInfo → LineInfo) : (s.modLine n f).mem = s.mem := rfl
@[simp] theorem State.modLine_hostMem (s : State) (n : Nat) (f : LineInfo → LineInfo) : (s.modLine n f).hostMem = s.hostMem := rfl
@[simp] theorem State.modLine_oldWords (s : State) (n : Nat) (f : LineInfo → LineInfo) : (s.modLine n f).oldWords = s.oldWords := rfl
@[simp] theorem State.modLine_unplaced (s : State) (n : Nat) (f : LineInfo → LineInfo) : (s.modLine n f).unplaced = s.unplaced := rfl
@[simp] theorem State.modLine_unplacedLines (s : State) (n : Nat) (f : LineInfo → LineInfo) : (s.modLine n f).unplacedLines = s.unplacedLines := rfl
@[simp] theorem State.modLine_cores (s : State) (n : Nat) (f : LineInfo → LineInfo) : (s.modLine n f).cores = s.cores := rfl
@[simp] theorem State.modLine_clusters (s : State) (n : Nat) (f : LineInfo → LineInfo) : (s.modLine n f).clusters = s.clusters := rfl
@[simp] theorem State.modLine_towers (s : State) (n : Nat) (f : LineInfo → LineInfo) : (s.modLine n f).towers = s.towers := rfl
@[simp] theorem State.modLine_waves (s : State) (n : Nat) (f : LineInfo → LineInfo) : (s.modLine n f).waves = s.waves := rfl
@[simp] theorem State.modLine_groups (s : State) (n : Nat) (f : LineInfo → LineInfo) : (s.modLine n f).groups = s.groups := rfl
@[simp] theorem State.modLine_gangs (s : State) (n : Nat) (f : LineInfo → LineInfo) : (s.modLine n f).gangs = s.gangs := rfl
@[simp] theorem State.modLine_nodes (s : State) (n : Nat) (f : LineInfo → LineInfo) : (s.modLine n f).nodes = s.nodes := rfl
@[simp] theorem State.modLine_comms (s : State) (n : Nat) (f : LineInfo → LineInfo) : (s.modLine n f).comms = s.comms := rfl
@[simp] theorem State.modLine_dev (s : State) (n : Nat) (f : LineInfo → LineInfo) : (s.modLine n f).dev = s.dev := rfl
@[simp] theorem State.modLine_hostRead (s : State) (n : Nat) (f : LineInfo → LineInfo) : (s.modLine n f).hostRead = s.hostRead := rfl
@[simp] theorem State.modLine_stamp (s : State) (n : Nat) (f : LineInfo → LineInfo) : (s.modLine n f).stamp = s.stamp := rfl
@[simp] theorem State.modLine_free (s : State) (n : Nat) (f : LineInfo → LineInfo) : (s.modLine n f).free = s.free := rfl
@[simp] theorem State.modLine_cur (s : State) (n : Nat) (f : LineInfo → LineInfo) : (s.modLine n f).cur = s.cur := rfl
@[simp] theorem State.modLine_agenda (s : State) (n : Nat) (f : LineInfo → LineInfo) : (s.modLine n f).agenda = s.agenda := rfl

@[simp] theorem State.modDev_cycle (s : State) (f : DevRegs → DevRegs) : (s.modDev f).cycle = s.cycle := rfl
@[simp] theorem State.modDev_tick (s : State) (f : DevRegs → DevRegs) : (s.modDev f).tick = s.tick := rfl
@[simp] theorem State.modDev_frozen (s : State) (f : DevRegs → DevRegs) : (s.modDev f).frozen = s.frozen := rfl
@[simp] theorem State.modDev_pinLow (s : State) (f : DevRegs → DevRegs) : (s.modDev f).pinLow = s.pinLow := rfl
@[simp] theorem State.modDev_endWritten (s : State) (f : DevRegs → DevRegs) : (s.modDev f).endWritten = s.endWritten := rfl
@[simp] theorem State.modDev_tickSet (s : State) (f : DevRegs → DevRegs) : (s.modDev f).tickSet = s.tickSet := rfl
@[simp] theorem State.modDev_heldHost (s : State) (f : DevRegs → DevRegs) : (s.modDev f).heldHost = s.heldHost := rfl
@[simp] theorem State.modDev_recovery (s : State) (f : DevRegs → DevRegs) : (s.modDev f).recovery = s.recovery := rfl
@[simp] theorem State.modDev_firmware (s : State) (f : DevRegs → DevRegs) : (s.modDev f).firmware = s.firmware := rfl
@[simp] theorem State.modDev_mem (s : State) (f : DevRegs → DevRegs) : (s.modDev f).mem = s.mem := rfl
@[simp] theorem State.modDev_hostMem (s : State) (f : DevRegs → DevRegs) : (s.modDev f).hostMem = s.hostMem := rfl
@[simp] theorem State.modDev_lines (s : State) (f : DevRegs → DevRegs) : (s.modDev f).lines = s.lines := rfl
@[simp] theorem State.modDev_oldWords (s : State) (f : DevRegs → DevRegs) : (s.modDev f).oldWords = s.oldWords := rfl
@[simp] theorem State.modDev_unplaced (s : State) (f : DevRegs → DevRegs) : (s.modDev f).unplaced = s.unplaced := rfl
@[simp] theorem State.modDev_unplacedLines (s : State) (f : DevRegs → DevRegs) : (s.modDev f).unplacedLines = s.unplacedLines := rfl
@[simp] theorem State.modDev_cores (s : State) (f : DevRegs → DevRegs) : (s.modDev f).cores = s.cores := rfl
@[simp] theorem State.modDev_clusters (s : State) (f : DevRegs → DevRegs) : (s.modDev f).clusters = s.clusters := rfl
@[simp] theorem State.modDev_towers (s : State) (f : DevRegs → DevRegs) : (s.modDev f).towers = s.towers := rfl
@[simp] theorem State.modDev_waves (s : State) (f : DevRegs → DevRegs) : (s.modDev f).waves = s.waves := rfl
@[simp] theorem State.modDev_groups (s : State) (f : DevRegs → DevRegs) : (s.modDev f).groups = s.groups := rfl
@[simp] theorem State.modDev_gangs (s : State) (f : DevRegs → DevRegs) : (s.modDev f).gangs = s.gangs := rfl
@[simp] theorem State.modDev_nodes (s : State) (f : DevRegs → DevRegs) : (s.modDev f).nodes = s.nodes := rfl
@[simp] theorem State.modDev_comms (s : State) (f : DevRegs → DevRegs) : (s.modDev f).comms = s.comms := rfl
@[simp] theorem State.modDev_hostRead (s : State) (f : DevRegs → DevRegs) : (s.modDev f).hostRead = s.hostRead := rfl
@[simp] theorem State.modDev_stamp (s : State) (f : DevRegs → DevRegs) : (s.modDev f).stamp = s.stamp := rfl
@[simp] theorem State.modDev_free (s : State) (f : DevRegs → DevRegs) : (s.modDev f).free = s.free := rfl
@[simp] theorem State.modDev_cur (s : State) (f : DevRegs → DevRegs) : (s.modDev f).cur = s.cur := rfl
@[simp] theorem State.modDev_agenda (s : State) (f : DevRegs → DevRegs) : (s.modDev f).agenda = s.agenda := rfl

@[simp] theorem State.bump_cycle (s : State) : (s.bump).cycle = s.cycle := rfl
@[simp] theorem State.bump_tick (s : State) : (s.bump).tick = s.tick := rfl
@[simp] theorem State.bump_frozen (s : State) : (s.bump).frozen = s.frozen := rfl
@[simp] theorem State.bump_pinLow (s : State) : (s.bump).pinLow = s.pinLow := rfl
@[simp] theorem State.bump_endWritten (s : State) : (s.bump).endWritten = s.endWritten := rfl
@[simp] theorem State.bump_tickSet (s : State) : (s.bump).tickSet = s.tickSet := rfl
@[simp] theorem State.bump_heldHost (s : State) : (s.bump).heldHost = s.heldHost := rfl
@[simp] theorem State.bump_recovery (s : State) : (s.bump).recovery = s.recovery := rfl
@[simp] theorem State.bump_firmware (s : State) : (s.bump).firmware = s.firmware := rfl
@[simp] theorem State.bump_mem (s : State) : (s.bump).mem = s.mem := rfl
@[simp] theorem State.bump_hostMem (s : State) : (s.bump).hostMem = s.hostMem := rfl
@[simp] theorem State.bump_lines (s : State) : (s.bump).lines = s.lines := rfl
@[simp] theorem State.bump_oldWords (s : State) : (s.bump).oldWords = s.oldWords := rfl
@[simp] theorem State.bump_unplaced (s : State) : (s.bump).unplaced = s.unplaced := rfl
@[simp] theorem State.bump_unplacedLines (s : State) : (s.bump).unplacedLines = s.unplacedLines := rfl
@[simp] theorem State.bump_cores (s : State) : (s.bump).cores = s.cores := rfl
@[simp] theorem State.bump_clusters (s : State) : (s.bump).clusters = s.clusters := rfl
@[simp] theorem State.bump_towers (s : State) : (s.bump).towers = s.towers := rfl
@[simp] theorem State.bump_waves (s : State) : (s.bump).waves = s.waves := rfl
@[simp] theorem State.bump_groups (s : State) : (s.bump).groups = s.groups := rfl
@[simp] theorem State.bump_gangs (s : State) : (s.bump).gangs = s.gangs := rfl
@[simp] theorem State.bump_nodes (s : State) : (s.bump).nodes = s.nodes := rfl
@[simp] theorem State.bump_comms (s : State) : (s.bump).comms = s.comms := rfl
@[simp] theorem State.bump_dev (s : State) : (s.bump).dev = s.dev := rfl
@[simp] theorem State.bump_hostRead (s : State) : (s.bump).hostRead = s.hostRead := rfl
@[simp] theorem State.bump_free (s : State) : (s.bump).free = s.free := rfl
@[simp] theorem State.bump_cur (s : State) : (s.bump).cur = s.cur := rfl
@[simp] theorem State.bump_agenda (s : State) : (s.bump).agenda = s.agenda := rfl

/-! ### Units after updates -/

@[simp] theorem State.core_setCore (s : State) (c : Nat) (k : Core) : (s.setCore c k).core c = k := by
  simp [State.core, State.setCore]

theorem State.core_setCore_other (s : State) {c j : Nat} (k : Core) (h : j ≠ c) : (s.setCore c k).core j = s.core j := by
  simp [State.core, State.setCore, NMap.getD_set_other _ _ _ h]

@[simp] theorem State.core_modCore (s : State) (c : Nat) (f : Core → Core) : (s.modCore c f).core c = f (s.core c) := by
  simp [State.modCore]

theorem State.core_modCore_other (s : State) {c j : Nat} (f : Core → Core) (h : j ≠ c) :
    (s.modCore c f).core j = s.core j := State.core_setCore_other s _ h

@[simp] theorem State.cluster_modCluster (s : State) (c : Nat) (f : Cluster → Cluster) :
    (s.modCluster c f).cluster c = f (s.cluster c) := by simp [State.cluster, State.modCluster]

@[simp] theorem State.tower_modTower (s : State) (c : Nat) (f : Tower → Tower) :
    (s.modTower c f).tower c = f (s.tower c) := by simp [State.tower, State.modTower]

@[simp] theorem State.wave_setWave (s : State) (w : Nat) (x : Wave) : (s.setWave w x).wave? w = some x := by
  simp [State.wave?, State.setWave]

theorem State.wave_setWave_other (s : State) {w j : Nat} (x : Wave) (h : j ≠ w) :
    (s.setWave w x).wave? j = s.wave? j := by simp [State.wave?, State.setWave, NMap.get?_set_other _ _ h]

@[simp] theorem State.wave_modWave (s : State) (w : Nat) (f : Wave → Wave) :
    (s.modWave w f).wave? w = (s.wave? w).map f := by simp [State.wave?, State.modWave]

theorem State.wave_modWave_other (s : State) {w j : Nat} (f : Wave → Wave) (h : j ≠ w) :
    (s.modWave w f).wave? j = s.wave? j := by simp [State.wave?, State.modWave, NMap.get?_modify_other _ _ h]

@[simp] theorem State.group_modGroup (s : State) (g : Nat) (f : Group → Group) :
    (s.modGroup g f).group? g = (s.group? g).map f := by simp [State.group?, State.modGroup]

theorem State.group_modGroup_other (s : State) {g j : Nat} (f : Group → Group) (h : j ≠ g) :
    (s.modGroup g f).group? j = s.group? j := by simp [State.group?, State.modGroup, NMap.get?_modify_other _ _ h]

@[simp] theorem State.gang_modGang (s : State) (g : Nat) (f : Gang → Gang) :
    (s.modGang g f).gang? g = (s.gang? g).map f := by simp [State.gang?, State.modGang]

@[simp] theorem State.node_modNode (s : State) (n : Nat) (f : Node → Node) :
    (s.modNode n f).node? n = (s.node? n).map f := by simp [State.node?, State.modNode]

@[simp] theorem State.comm_modComm (s : State) (c : Nat) (f : Comm → Comm) :
    (s.modComm c f).comm c = f (s.comm c) := by simp [State.comm, State.modComm]

@[simp] theorem State.line_modLine (s : State) (n : Nat) (f : LineInfo → LineInfo) :
    (s.modLine n f).line n = f (s.line n) := by simp [State.line, State.modLine]

@[simp] theorem State.dev_modDev (s : State) (f : DevRegs → DevRegs) : (s.modDev f).dev = f s.dev := rfl

/-- Two changes of one wave are one. -/
theorem State.modWave_modWave (s : State) (w : Nat) (f g : Wave → Wave) :
    (s.modWave w f).modWave w g = s.modWave w fun x => g (f x) := by
  simp only [State.modWave, NMap.modify, List.map_map]
  congr 1
  refine List.map_congr_left fun c _ => ?_
  by_cases h : c.1 = w <;> simp [h]

/-! ### What depends on other units only -/

@[simp] theorem State.core_modWave (s : State) (w : Nat) (f : Wave → Wave) (c : Nat) : (s.modWave w f).core c = s.core c := rfl
@[simp] theorem State.core_setWave (s : State) (w : Nat) (x : Wave) (c : Nat) : (s.setWave w x).core c = s.core c := rfl
@[simp] theorem State.core_modGroup (s : State) (g : Nat) (f : Group → Group) (c : Nat) :
    (s.modGroup g f).core c = s.core c := rfl
@[simp] theorem State.wave_modCore (s : State) (c : Nat) (f : Core → Core) (w : Nat) :
    (s.modCore c f).wave? w = s.wave? w := rfl
@[simp] theorem State.wave_modGroup (s : State) (g : Nat) (f : Group → Group) (w : Nat) :
    (s.modGroup g f).wave? w = s.wave? w := rfl
@[simp] theorem State.group_modWave (s : State) (w : Nat) (f : Wave → Wave) (g : Nat) :
    (s.modWave w f).group? g = s.group? g := rfl
@[simp] theorem State.group_modCore (s : State) (c : Nat) (f : Core → Core) (g : Nat) :
    (s.modCore c f).group? g = s.group? g := rfl
@[simp] theorem State.getGroup_modWave (s : State) (w : Nat) (f : Wave → Wave) (g : Nat) :
    (s.modWave w f).group g = s.group g := rfl
@[simp] theorem State.getGroup_modCore (s : State) (c : Nat) (f : Core → Core) (g : Nat) :
    (s.modCore c f).group g = s.group g := rfl

/-! ### Registers of a wave -/

@[simp] theorem Wave.vAt_setV (w : Wave) (r l : Nat) (e : VElem) : (w.setV r l e).vAt r l = e := by
  simp [Wave.vAt, Wave.setV]

theorem Wave.vAt_setV_other (w : Wave) {r l r' l' : Nat} (e : VElem) (h : 32 * r' + l' ≠ 32 * r + l) :
    (w.setV r l e).vAt r' l' = w.vAt r' l' := by simp [Wave.vAt, Wave.setV, NMap.getD_set_other _ _ _ h]

@[simp] theorem Wave.sAt_setS (w : Wave) (n : Nat) (r : Scalar) : (w.setS n r).sAt n = r := by
  simp [Wave.sAt, Wave.setS]

theorem Wave.sAt_setS_other (w : Wave) {n j : Nat} (r : Scalar) (h : j ≠ n) : (w.setS n r).sAt j = w.sAt j := by
  simp [Wave.sAt, Wave.setS, NMap.getD_set_other _ _ _ h]

@[simp] theorem Wave.vAt_setS (w : Wave) (n : Nat) (x : Scalar) (r l : Nat) : (w.setS n x).vAt r l = w.vAt r l := rfl
@[simp] theorem Wave.sAt_setV (w : Wave) (r l : Nat) (e : VElem) (n : Nat) : (w.setV r l e).sAt n = w.sAt n := rfl
@[simp] theorem Wave.pAt_setS (w : Wave) (n : Nat) (x : Scalar) (p : Nat) : (w.setS n x).pAt p = w.pAt p := rfl
@[simp] theorem Wave.pAt_setV (w : Wave) (r l : Nat) (e : VElem) (p : Nat) : (w.setV r l e).pAt p = w.pAt p := rfl
@[simp] theorem Wave.vAt_setPBits (w : Wave) (p : Nat) (m b : LaneMask) (r l : Nat) :
    (w.setPBits p m b).vAt r l = w.vAt r l := rfl
@[simp] theorem Wave.sAt_setPBits (w : Wave) (p : Nat) (m b : LaneMask) (n : Nat) :
    (w.setPBits p m b).sAt n = w.sAt n := rfl
@[simp] theorem Wave.vAt_advance (w : Wave) (r l : Nat) : w.advance.vAt r l = w.vAt r l := rfl
@[simp] theorem Wave.sAt_advance (w : Wave) (n : Nat) : w.advance.sAt n = w.sAt n := rfl
@[simp] theorem Wave.pAt_advance (w : Wave) (p : Nat) : w.advance.pAt p = w.pAt p := rfl

/-- p7 reads as 1 in every lane, whatever has been written (R61). -/
@[simp] theorem Wave.pAt_seven (w : Wave) : w.pAt 7 = allLanes := rfl

theorem Wave.pAt_setPBits (w : Wave) {p : Nat} (m b : LaneMask) (h : p ≠ 7) :
    (w.setPBits p m b).pAt p = (w.pAt p &&& ~~~m) ||| (b &&& m) := by
  simp [Wave.setPBits, Wave.setP, Wave.pAt, h]

theorem Wave.pAt_setPBits_other (w : Wave) {p q : Nat} (m b : LaneMask) (h : q ≠ p) :
    (w.setPBits p m b).pAt q = w.pAt q := by
  simp [Wave.setPBits, Wave.setP, Wave.pAt, NMap.getD_set_other _ _ _ h]

end Sys2Proof.Machine
end

