-- ==== Sys2Proof/Laws/Mem.lean ====
section
/-! SUPPORT. What reading tables and code leaves alone: translation and code fetch touch TLBs, instruction caches, poison
records and the host's events, and nothing a program holds. -/

namespace Sys2Proof.Machine

/-- Every part of the state that translation and code fetch never touch is as before. -/
def Quiet (s t : State) : Prop :=
  t.waves = s.waves ∧ t.groups = s.groups ∧ t.gangs = s.gangs ∧ t.nodes = s.nodes ∧ t.comms = s.comms ∧ t.mem = s.mem ∧
    t.cur = s.cur ∧ t.agenda = s.agenda ∧
    (∀ k, ∃ tlb, t.cluster k = { s.cluster k with tlb := tlb }) ∧
    ∀ k, ∃ tlb ic, t.core k = { s.core k with tlb := tlb, icache := ic }

theorem Quiet.refl (s : State) : Quiet s s := ⟨rfl, rfl, rfl, rfl, rfl, rfl, rfl, rfl, fun _ => ⟨_, rfl⟩, fun _ => ⟨_, _, rfl⟩⟩

theorem Quiet.trans {s t u : State} (h : Quiet s t) (g : Quiet t u) : Quiet s u := by
  obtain ⟨h1, h2, h3, h4, h5, h6, h7, h8, hk, h9⟩ := h
  obtain ⟨g1, g2, g3, g4, g5, g6, g7, g8, gk, g9⟩ := g
  refine ⟨g1.trans h1, g2.trans h2, g3.trans h3, g4.trans h4, g5.trans h5, g6.trans h6, g7.trans h7, g8.trans h8,
    fun k => ?_, fun k => ?_⟩
  · obtain ⟨a, h⟩ := hk k
    obtain ⟨a', g⟩ := gk k
    exact ⟨a', by rw [g, h]⟩
  · obtain ⟨a, b, h⟩ := h9 k
    obtain ⟨a', b', g⟩ := g9 k
    exact ⟨a', b', by rw [g, h]⟩

theorem Quiet.modCore (s : State) (c : Nat) (f : Core → Core) (h : ∀ k, ∃ tlb ic, f k = { k with tlb := tlb, icache := ic }) :
    Quiet s (s.modCore c f) := by
  refine ⟨rfl, rfl, rfl, rfl, rfl, rfl, rfl, rfl, fun _ => ⟨_, rfl⟩, fun k => ?_⟩
  by_cases e : k = c
  · subst e; rw [State.core_modCore]; exact h _
  · rw [State.core_modCore_other _ _ e]; exact ⟨_, _, rfl⟩

theorem Quiet.modCluster (s : State) (c : Nat) (f : Cluster → Cluster) (h : ∀ k, ∃ tlb, f k = { k with tlb := tlb }) :
    Quiet s (s.modCluster c f) := by
  refine ⟨rfl, rfl, rfl, rfl, rfl, rfl, rfl, rfl, fun k => ?_, fun _ => ⟨_, _, rfl⟩⟩
  by_cases e : k = c
  · subst e; rw [State.cluster_modCluster]; exact h _
  · exact ⟨_, by
      show NMap.getD (NMap.set s.clusters c (f (s.cluster c))) k {} = _
      rw [NMap.getD_set_other _ _ _ e]; rfl⟩

theorem Quiet.pushEvent (s : State) (cause ocause : BitVec 8) (core slot flg : Nat) (addr info : Word64) (asids : List Nat) :
    Quiet s (pushEvent s cause ocause core slot flg addr info asids) := by
  unfold Machine.pushEvent
  simp only
  split <;> exact ⟨rfl, rfl, rfl, rfl, rfl, rfl, rfl, rfl, fun _ => ⟨_, rfl⟩, fun _ => ⟨_, _, rfl⟩⟩

theorem Quiet.joinPoison (s : State) (ln asid : Nat) : Quiet s (joinPoison s ln asid) := by
  unfold Machine.joinPoison
  simp only
  split
  · exact .refl s
  · exact .trans (t := s.modLine ln _) ⟨rfl, rfl, rfl, rfl, rfl, rfl, rfl, rfl, fun _ => ⟨_, rfl⟩, fun _ => ⟨_, _, rfl⟩⟩ (Quiet.pushEvent _ _ _ _ _ _ _ _ _)

theorem Quiet.poisonWalk (s : State) (ln asid : Nat) : Quiet s (poisonWalk s ln asid) := by
  unfold Machine.poisonWalk
  exact .trans (t := (s.modLine ln _).modDev _) ⟨rfl, rfl, rfl, rfl, rfl, rfl, rfl, rfl, fun _ => ⟨_, rfl⟩, fun _ => ⟨_, _, rfl⟩⟩ (Quiet.joinPoison _ _ _)

theorem Quiet.readEntry (s : State) (pa asid : Nat) (need : Need) : Quiet s (readEntry s pa asid need).1 := by
  unfold Machine.readEntry
  simp only
  split
  · exact .refl s
  · split
    · simp only
      split
      · exact .joinPoison _ _ _
      · exact .poisonWalk _ _ _
    · exact .refl s

theorem Quiet.walkFrom (asid va : Nat) (need : Need) : ∀ (ls : List (Nat × Nat × Nat)) (s : State) (table : Nat),
    Quiet s (walkFrom s asid va need table ls).1 := by
  intro ls
  induction ls with
  | nil => intro s _; exact .refl s
  | cons l ls ih =>
    intro s table
    obtain ⟨lvl, sh, cnt⟩ := l
    unfold Machine.walkFrom
    have h := Quiet.readEntry s (table + 8 * (va / 2 ^ sh % cnt)) asid need
    generalize Machine.readEntry s (table + 8 * (va / 2 ^ sh % cnt)) asid need = r at h
    obtain ⟨s', e⟩ := r
    cases e with
    | error b => exact h
    | ok e =>
      simp only
      split
      · exact h
      · split
        · exact h
        · split
          · exact h
          · exact h.trans (ih _ _)

theorem Quiet.walk (s : State) (asid va : Nat) (need : Need) : Quiet s (walk s asid va need).1 := by
  unfold Machine.walk
  have h := Quiet.readEntry s (s.dev.astBase.toNat + 8 * asid) asid need
  generalize Machine.readEntry s (s.dev.astBase.toNat + 8 * asid) asid need = r at h
  obtain ⟨s', e⟩ := r
  cases e with
  | error b => exact h
  | ok e =>
    simp only
    split
    · exact h
    · exact h.trans (.walkFrom _ _ _ _ _ _)

theorem Quiet.lookup (s : State) (c asid va : Nat) (need : Need) : Quiet s (lookup s c asid va need).1 := by
  unfold Machine.lookup
  split
  · exact .refl s
  · split
    · exact .modCore _ _ _ fun _ => ⟨_, _, rfl⟩
    · have h := Quiet.walk s asid va need
      generalize Machine.walk s asid va need = r at h
      obtain ⟨s', e⟩ := r
      cases e with
      | error b => exact h
      | ok e =>
        exact .trans (t := s'.modCore c _) (h.trans (.modCore _ _ _ fun _ => ⟨_, _, rfl⟩)) (.modCluster _ _ _ fun _ => ⟨_, rfl⟩)

/-- Translating an address (R437 to R442). -/
theorem Quiet.translate (s : State) (c asid va : Nat) (need : Need) : Quiet s (translate s c asid va need).1 := by
  unfold Machine.translate
  have h := Quiet.lookup s c asid va need
  generalize Machine.lookup s c asid va need = r at h
  obtain ⟨s', e⟩ := r
  cases e with
  | error b => exact h
  | ok e =>
    simp only
    split <;> exact h

/-- Fetching a code word (R55, R238). -/
theorem Quiet.fetchWord (s : State) (c asid va : Nat) : Quiet s (fetchWord s c asid va).1 := by
  unfold Machine.fetchWord
  have h := Quiet.translate s c asid va .exec
  generalize Machine.translate s c asid va .exec = r at h
  obtain ⟨s', e⟩ := r
  have keep : ∀ (u : State) (w : Word64), Quiet u (keepCode u c asid va w) := fun u w => .modCore _ _ _ fun _ => ⟨_, _, rfl⟩
  cases e with
  | error b => exact h
  | ok p =>
    simp only
    split
    · exact h
    · split
      · exact h
      · split
        · exact h
        · split
          · exact h.trans (keep s' _)
          · have hc : Quiet s' { s' with free := s'.free + 1 } :=
              ⟨rfl, rfl, rfl, rfl, rfl, rfl, rfl, rfl, fun _ => ⟨_, rfl⟩, fun _ => ⟨_, _, rfl⟩⟩
            exact h.trans (hc.trans (keep _ _))

/-- The instruction in hand is still in hand. -/
theorem Quiet.ctx {s t : State} (h : Quiet s t) : t.ctx? = s.ctx? := by
  obtain ⟨h1, -, -, -, -, -, h7, -, -, h9⟩ := h
  unfold State.ctx? State.wave?
  rw [h1, h7]
  obtain ⟨a, b, e⟩ := h9 s.cur.1
  rw [e]

theorem Quiet.wave {s t : State} (h : Quiet s t) (k : Nat) : t.wave? k = s.wave? k := by
  unfold State.wave?; rw [h.1]

theorem Quiet.group {s t : State} (h : Quiet s t) (k : Nat) : t.group? k = s.group? k := by
  unfold State.group?; rw [h.2.1]

end Sys2Proof.Machine
end

