-- ==== Sys2Proof/Laws/Ctx.lean ====
section
/-! SUPPORT. What it means that a wave is issuing an instruction, and lists of lanes. -/

namespace Sys2Proof.Machine

theorem withCtx_some {s : State} {c : Ctx} (h : s.ctx? = some c) (f : Ctx → Host.Outcome State Fault Refusal) :
    withCtx s f = f c := by simp [withCtx, h]

/-- What a context says of its state. -/
theorem State.ctx_facts {s : State} {c : Ctx} (h : s.ctx? = some c) :
    s.cur = (c.core, c.slot) ∧ NMap.get? (s.core c.core).slots c.slot = some c.wid ∧ s.wave? c.wid = some c.w ∧
      c.w.issue = some c.iss ∧ c.iss.words[c.iss.idx]? = some c.iw ∧ c.mask = c.iw.mask.getD c.iss.mask := by
  unfold State.ctx? at h
  split at h
  · cases h
  · split at h
    · cases h
    · split at h
      · cases h
      · split at h
        · cases h
        · simp only [Option.some.injEq] at h
          subst h
          exact ⟨rfl, ‹_›, ‹_›, ‹_›, ‹_›, rfl⟩

theorem State.ctx_wave {s : State} {c : Ctx} (h : s.ctx? = some c) : s.wave? c.wid = some c.w := (State.ctx_facts h).2.2.1

theorem State.ctx_issue {s : State} {c : Ctx} (h : s.ctx? = some c) : c.w.issue = some c.iss := (State.ctx_facts h).2.2.2.1

/-! ### Lanes -/

theorem lanesOf_lt (m : LaneMask) : ∀ l ∈ lanesOf m, l < 32 := by
  intro l h
  exact List.mem_range.1 (List.mem_of_mem_filter h)

theorem mem_lanesOf (m : LaneMask) (l : Nat) : l ∈ lanesOf m ↔ m.getLsbD l = true := by
  constructor
  · intro h; exact (List.mem_filter.1 h).2
  · intro h
    exact List.mem_filter.2 ⟨List.mem_range.2 (BitVec.lt_of_getLsbD h), h⟩

theorem lanesOf_nodup (m : LaneMask) : (lanesOf m).Nodup := List.nodup_range.filter _

theorem lanesOf_eq_nil (m : LaneMask) : lanesOf m = [] ↔ m = 0 := by
  constructor
  · intro h
    apply BitVec.eq_of_getLsbD_eq
    intro i _
    have := (mem_lanesOf m i).not.1 (by rw [h]; simp)
    simpa using this
  · rintro rfl
    simp [lanesOf]

theorem lowestLane_mem (m : LaneMask) (h : m ≠ 0) : lowestLane m ∈ lanesOf m := by
  unfold lowestLane
  cases hl : lanesOf m with
  | nil => exact absurd ((lanesOf_eq_nil m).1 hl) h
  | cons a l => simp

/-- The lane mask of the tests is true exactly in the lanes that pass. -/
theorem maskOf_getLsbD (f : Nat → Bool) (l : Nat) : (maskOf f).getLsbD l = (decide (l < 32) && f l) := by
  have key : ∀ n, n ≤ 32 → ∀ i,
      ((List.range n).foldl (fun a l => if f l then a + 2 ^ l else a) 0).testBit i = (decide (i < n) && f i) ∧
      (List.range n).foldl (fun a l => if f l then a + 2 ^ l else a) 0 < 2 ^ n := by
    intro n
    induction n with
    | zero => intro _ i; simp
    | succ n ih =>
      intro hn i
      have ih1 := fun i => (ih (by omega) i).1
      have ih2 := (ih (by omega) 0).2
      rw [List.range_succ, List.foldl_append]
      simp only [List.foldl_cons, List.foldl_nil]
      generalize hA : (List.range n).foldl (fun a l => if f l then a + 2 ^ l else a) 0 = A at *
      split
      · rename_i hf
        have hlt : A + 2 ^ n < 2 ^ (n + 1) := by rw [Nat.pow_succ]; omega
        refine ⟨?_, hlt⟩
        rw [Nat.add_comm]
        rcases Nat.lt_trichotomy i n with h | h | h
        · rw [Nat.testBit_two_pow_add_gt h, ih1]
          simp [h, Nat.lt_succ_of_lt h]
        · subst h
          rw [Nat.testBit_two_pow_add_eq, ih1]
          simp [hf]
        · have hi : ¬ i < n + 1 := by omega
          rw [Nat.testBit_lt_two_pow]
          · simp [hi]
          · calc 2 ^ n + A = A + 2 ^ n := Nat.add_comm _ _
              _ < 2 ^ (n + 1) := hlt
              _ ≤ 2 ^ i := Nat.pow_le_pow_right (by omega) h
      · rename_i hf
        refine ⟨?_, lt_of_lt_of_le ih2 (Nat.pow_le_pow_right (by omega) (by omega))⟩
        rw [ih1]
        rcases Nat.lt_trichotomy i n with h | h | h
        · simp [h, Nat.lt_succ_of_lt h]
        · subst h; simp [hf]
        · have h1 : ¬ i < n := by omega
          have h2 : ¬ i < n + 1 := by omega
          simp [h1, h2]
  unfold maskOf
  rw [BitVec.getLsbD_ofNat, (key 32 (le_refl _) l).1]
  cases decide (l < 32) <;> simp

theorem laneBit_getLsbD (l j : Nat) : (laneBit l).getLsbD j = (decide (j < 32) && decide (l = j)) := by
  unfold laneBit
  rw [BitVec.getLsbD_ofNat, Nat.testBit_two_pow]

/-- A pass covers the lanes of Eff, or the lowest of them. -/
theorem passLanes_lt (m : LaneMask) (sc : Bool) : ∀ l ∈ passLanes m sc, l < 32 := by
  intro l h
  unfold passLanes at h
  split at h
  · split at h
    · simp at h
    · rename_i hm
      rw [List.mem_singleton] at h
      subst h
      exact lanesOf_lt m _ (lowestLane_mem m hm)
  · exact lanesOf_lt m l h

theorem passLanes_nodup (m : LaneMask) (sc : Bool) : (passLanes m sc).Nodup := by
  unfold passLanes
  split
  · split <;> simp
  · exact lanesOf_nodup m

end Sys2Proof.Machine
end

