-- ==== Sys2Proof/Laws/Turns.lean ====
section
/-! SUPPORT. What it takes to show that only the issuing wave has changed. -/

namespace Sys2Proof.Machine

theorem turns_modWave {s : State} {c : Ctx} (hc : s.ctx? = some c) (f : Wave → Wave) : turns s (s.modWave c.wid f) c (f c.w) :=
  ⟨rfl, by rw [State.wave_modWave, State.ctx_wave hc]; rfl, fun k hk => State.wave_modWave_other s f hk⟩

theorem turns_trans {s t u : State} {c : Ctx} {w : Wave} (h : turns s t c w) (f : Wave → Wave)
    (hu : u = t.modWave c.wid f) : turns s u c (f w) := by
  obtain ⟨h1, h2, h3⟩ := h
  subst hu
  refine ⟨?_, by rw [State.wave_modWave, h2]; rfl, fun k hk => by rw [State.wave_modWave_other _ _ hk, h3 k hk]⟩
  rw [h1]
  rfl

theorem turns_advance {s : State} {c : Ctx} (hc : s.ctx? = some c) : turns s (s.advance c.wid) c c.w.advance :=
  turns_modWave hc Wave.advance

/-- A change of the issuing wave, and then its progress. -/
theorem turns_then_advance {s : State} {c : Ctx} (hc : s.ctx? = some c) (f : Wave → Wave) :
    turns s ((s.modWave c.wid f).advance c.wid) c (f c.w).advance :=
  turns_trans (turns_modWave hc f) Wave.advance rfl

/-- A change of the issuing wave, then one of its group. -/
theorem turnsBoth_mod {s : State} {c : Ctx} (hc : s.ctx? = some c) (f : Wave → Wave) (g : Group → Group) :
    turnsBoth s ((s.modWave c.wid f).modGroup c.w.group g) c (f c.w) g :=
  ⟨rfl, by rw [State.wave_modGroup, State.wave_modWave, State.ctx_wave hc]; rfl,
    fun k hk => by rw [State.wave_modGroup, State.wave_modWave_other _ _ hk],
    by rw [State.group_modGroup, State.group_modWave], fun k hk => by rw [State.group_modGroup_other _ _ hk, State.group_modWave]⟩

theorem turnsBoth_trans {s t u : State} {c : Ctx} {w : Wave} {g : Group → Group} (h : turnsBoth s t c w g) (f : Wave → Wave)
    (hu : u = t.modWave c.wid f) : turnsBoth s u c (f w) g := by
  obtain ⟨h1, h2, h3, h4, h5⟩ := h
  subst hu
  refine ⟨?_, by rw [State.wave_modWave, h2]; rfl, fun k hk => by rw [State.wave_modWave_other _ _ hk, h3 k hk],
    by rw [State.group_modWave, h4], fun k hk => by rw [State.group_modWave, h5 k hk]⟩
  rw [h1]
  rfl

/-- What only turns the wave leaves its group as it is. -/
theorem turns.both {s t : State} {c : Ctx} {w : Wave} (h : turns s t c w) : turnsBoth s t c w id := by
  obtain ⟨h1, h2, h3⟩ := h
  refine ⟨?_, h2, h3, ?_, fun k _ => ?_⟩
  · rw [h1]
  · rw [h1, Option.map_id]; rfl
  · rw [h1]; rfl

theorem waveD_of {s t : State} {c : Ctx} {w : Wave} {g : Group → Group} (h : turnsBoth s t c w g) : t.waveD c.wid = w := by
  unfold State.waveD; rw [h.2.1]; rfl

end Sys2Proof.Machine
end

