-- ==== Sys2Proof/Laws/Access.lean ====
section
/-! SUPPORT. What issuing an access does: everything up to the access itself, said once. -/

namespace Sys2Proof.Machine

theorem NMap.get?_listed {α : Type} (f : Nat → α) : ∀ (ls : List Nat) (l : Nat), l ∈ ls →
    NMap.get? (ls.map fun j => (j, f j)) l = some (f l) := by
  intro ls
  induction ls with
  | nil => intro l h; cases h
  | cons j ls ih =>
    intro l h
    rw [List.map_cons, NMap.get?_cons]
    split
    · rename_i e; rw [e]
    · rename_i e
      exact ih l ((List.mem_cons.1 h).resolve_left e)

/-- The wave with other predicates and transactions. -/
def Wave.withPT (w : Wave) (ps : NMap LaneMask) (tx : NMap Tx) : Wave := { w with p := ps, tx := tx }

theorem Wave.withPT_abort (w : Wave) (ps : NMap LaneMask) (tx : NMap Tx) (k u : Nat) (m : LaneMask) :
    ∃ tx', (∀ l, NMap.get? tx l = none → NMap.get? tx' l = none) ∧ (w.withPT ps tx).abortTx k u m = w.withPT ps tx' :=
  ⟨_, fun l h => by
    show NMap.get? (NMap.mapVal tx _) l = none
    rw [NMap.get?_mapVal, h]; rfl, rfl⟩

theorem Wave.withPT_setPBits (w : Wave) (ps : NMap LaneMask) (tx : NMap Tx) (p : Nat) (m b : LaneMask) :
    ∃ ps', (w.withPT ps tx).setPBits p m b = w.withPT ps' tx := ⟨_, rfl⟩

/-- The pop that precedes an access: only predicates, transactions and the core's queues can differ. -/
structure Popped (s u : State) (c : Ctx) where
  mem : u.mem = s.mem
  groups : u.groups = s.groups
  others : ∀ k, k ≠ c.wid → u.wave? k = s.wave? k
  mine : ∃ ps tx, (∀ l, NMap.get? c.w.tx l = none → NMap.get? tx l = none) ∧ u.wave? c.wid = some (c.w.withPT ps tx)

theorem Popped.refl {s : State} {c : Ctx} (hc : s.ctx? = some c) : Popped s s c :=
  ⟨rfl, rfl, fun _ _ => rfl, c.w.p, c.w.tx, fun _ h => h, State.ctx_wave hc⟩

theorem Popped.abort {s u : State} {c : Ctx} (h : Popped s u c) (m : LaneMask) : Popped s (abortOpen c u m) c := by
  obtain ⟨h1, h2, h3, ps, tx, h0, h4⟩ := h
  obtain ⟨tx', h6, h5⟩ := c.w.withPT_abort ps tx 4 0 m
  refine ⟨h1, h2, fun k hk => ?_, ps, tx', fun l hl => h6 l (h0 l hl), ?_⟩
  · unfold abortOpen; rw [State.wave_modWave_other _ _ hk, h3 k hk]
  · unfold abortOpen; rw [State.wave_modWave, h4, Option.map_some, h5]

theorem Popped.commit {s u : State} {c : Ctx} (h : Popped s u c) (g : Guard) (p : Pop) (sc : Bool) :
    Popped s (commitPop c u g p sc) c := by
  unfold commitPop
  split
  · exact h
  · simp only
    obtain ⟨h1, h2, h3, ps, tx, h0, h4⟩ := h
    split
    · exact ⟨h1, h2, h3, ps, tx, h0, h4⟩
    · obtain ⟨ps', h5⟩ := c.w.withPT_setPBits ps tx g.pred.val (if sc then c.mask else p.missed) (if g.neg then allLanes else 0)
      refine ⟨h1, h2, fun k hk => ?_, ps', tx, h0, ?_⟩
      · rw [State.wave_modWave_other _ _ hk]; exact h3 k hk
      · rw [State.wave_modWave, State.wave_modCore, h4, Option.map_some, h5]

theorem Popped.quiet {s u v : State} {c : Ctx} (h : Popped s u c) (q : Quiet u v) : Popped s v c := by
  obtain ⟨h1, h2, h3, ps, tx, h0, h4⟩ := h
  exact ⟨q.2.2.2.2.2.1.trans h1, q.2.1.trans h2, fun k hk => (q.wave k).trans (h3 k hk), ps, tx, h0, (q.wave _).trans h4⟩

theorem Popped.tx {s u : State} {c : Ctx} (h : Popped s u c) {l : Nat} (hl : NMap.get? c.w.tx l = none) : u.txOf c.wid l = none := by
  obtain ⟨_, _, _, ps, tx, h0, h4⟩ := h
  unfold State.txOf
  rw [h4]
  exact h0 l hl

/-- An access whose checks pass goes on to `f` with the lanes of the pass. -/
theorem Access.issue_passes (a : Access) {s : State} {c : Ctx} (hc : s.ctx? = some c)
    (f : Ctx → State → MemOp → Host.Outcome State Fault Refusal) (h0 : c.eff a.g ≠ 0) (h1 : c.w.noRoom a.i = false)
    (h2 : a.check c s (passLanes (c.eff a.g) (a.onScalar c)) = none) :
    ∃ p, popPlan c s a.srcs (passLanes (c.eff a.g) (a.onScalar c)) = .ok p ∧ Popped s (a.popped c s p) c ∧
      a.issue s f = f c (a.popped c s p) (a.op c s p (passLanes (c.eff a.g) (a.onScalar c))) := by
  have hq : a.queueTrap c s (passLanes (c.eff a.g) (a.onScalar c)) = none := by
    unfold Access.check at h2
    simp only [Option.orElse_eq_none] at h2
    exact h2.2.2.2.2.1
  unfold Access.queueTrap at hq
  cases hp : popPlan c s a.srcs (passLanes (c.eff a.g) (a.onScalar c)) with
  | error t => rw [hp] at hq; cases hq
  | ok p =>
    refine ⟨p, rfl, ?_, ?_⟩
    · unfold Access.popped
      split
      · exact ((Popped.refl hc).abort _).commit _ _ _
      · exact .refl hc
    · unfold Access.issue
      rw [withCtx_some hc]
      simp only
      rw [if_neg h0, if_neg (by simp [h1])]
      simp only [h2, hp]

theorem Access.issue_empty (a : Access) {s : State} {c : Ctx} (hc : s.ctx? = some c)
    (f : Ctx → State → MemOp → Host.Outcome State Fault Refusal) (h0 : c.eff a.g = 0) :
    a.issue s f = .next (s.advance c.wid) := by
  unfold Access.issue
  rw [withCtx_some hc]
  simp only
  rw [if_pos h0]

theorem Access.issue_full (a : Access) {s : State} {c : Ctx} (hc : s.ctx? = some c)
    (f : Ctx → State → MemOp → Host.Outcome State Fault Refusal) (h0 : c.eff a.g ≠ 0) (h1 : c.w.noRoom a.i = true) :
    a.issue s f = .next (awaitRoom c s) := by
  unfold Access.issue
  rw [withCtx_some hc]
  simp only
  rw [if_neg h0, if_pos h1]

theorem Access.issue_traps (a : Access) {s : State} {c : Ctx} (hc : s.ctx? = some c)
    (f : Ctx → State → MemOp → Host.Outcome State Fault Refusal) (h0 : c.eff a.g ≠ 0) (h1 : c.w.noRoom a.i = false)
    (x : TrapInfo) (h2 : a.check c s (passLanes (c.eff a.g) (a.onScalar c)) = some x) :
    a.issue s f = .next (trapNow c s (if a.onScalar c then { x with lanes := c.eff a.g } else x)) := by
  unfold Access.issue
  rw [withCtx_some hc]
  simp only
  rw [if_neg h0, if_neg (by simp [h1])]
  simp only [h2]
  rfl

end Sys2Proof.Machine
end

