-- ==== Sys2Proof/Laws/Alu.lean ====
section
/-! SUPPORT. Everything an arithmetic instruction can do (`AluOp.run`): what it answers, what its destination then holds,
and what it leaves alone. -/

namespace Sys2Proof.Machine

/-! ### Writing a destination -/

/-- What a destination of a width holds once a result has been written to it (R126, R128). -/
def stored (d : Operand) (w64 : Bool) (ext : Ext) (v : OpVal) : OpVal :=
  match d with
  | .v _ => if w64 then ⟨pair64 (lo32 v.val) (hi32 v.val), v.lo, v.hi⟩ else ⟨BitVec.ofNat 64 (lo32 v.val).toNat, v.lo, 0⟩
  | .s _ =>
    if w64 then v
    else
      let x : Word64 := match ext with
        | .sign => BitVec.signExtend 64 (lo32 v.val)
        | .zero => BitVec.ofNat 64 (lo32 v.val).toNat
      ⟨x, v.lo, resCode (hi32 x)⟩
  | _ => {}

/-- What a wave's register holds for lane l. -/
def Wave.held (w : Wave) (d : Operand) (w64 : Bool) (l : Nat) : OpVal :=
  match d with
  | .v n => w.vVal n.val l w64
  | .s n => (w.sAt n.val).opVal
  | _ => {}

theorem Wave.writeDst_eq (w : Wave) (d : Operand) (w64 : Bool) (ext : Ext) (l : Nat) (v : OpVal) :
    w.writeDst d w64 ext l v =
      { w with v := (w.writeDst d w64 ext l v).v, s := (w.writeDst d w64 ext l v).s } := by
  cases d <;> cases w64 <;> rfl

theorem Wave.writeOuts_eq (d : Operand) (w64 : Bool) (ext : Ext) : ∀ (outs : List LaneOut) (w : Wave),
    w.writeOuts d w64 ext outs =
      { w with v := (w.writeOuts d w64 ext outs).v, s := (w.writeOuts d w64 ext outs).s } := by
  intro outs
  induction outs with
  | nil => intro w; rfl
  | cons o os ih =>
    intro w
    have h := ih (w.writeDst d w64 ext o.l o.v)
    have h1 : w.writeOuts d w64 ext (o :: os) = (w.writeDst d w64 ext o.l o.v).writeOuts d w64 ext os := rfl
    rw [h1, h, Wave.writeDst_eq]

/-- A write to one lane is seen there. -/
theorem Wave.held_writeDst (w : Wave) (d : Operand) (w64 : Bool) (ext : Ext) (l : Nat) (v : OpVal) :
    (w.writeDst d w64 ext l v).held d w64 l = stored d w64 ext v := by
  cases d with
  | v n =>
    cases w64 with
    | false => simp [Wave.writeDst, Wave.held, Wave.vVal, stored]
    | true =>
      have h : 32 * n.val + l ≠ 32 * (n.val + 1) + l := by omega
      simp [Wave.writeDst, Wave.held, Wave.vVal, stored, Wave.vAt_setV_other _ _ h]
  | s n => cases w64 <;> cases ext <;> simp [Wave.writeDst, Wave.held, stored, Scalar.opVal]
  | _ => simp [Wave.held, stored]

/-- A write of a vector element in another lane is not. -/
theorem Wave.vAt_writeDst_other (w : Wave) (d : Operand) (w64 : Bool) (ext : Ext) (l : Nat) (v : OpVal) {r j : Nat}
    (hl : l < 32) (hj : j < 32) (h : ¬(inDest d w64 r = true ∧ j = l)) :
    (w.writeDst d w64 ext l v).vAt r j = w.vAt r j := by
  cases d with
  | v n =>
    have h1 : 32 * r + j ≠ 32 * n.val + l := by
      intro e
      exact h ⟨by simp [inDest]; omega, by omega⟩
    cases w64 with
    | false => simp [Wave.writeDst, Wave.vAt_setV_other _ _ h1]
    | true =>
      have h2 : 32 * r + j ≠ 32 * (n.val + 1) + l := by
        intro e
        exact h ⟨by simp [inDest]; omega, by omega⟩
      simp [Wave.writeDst, Wave.vAt_setV_other _ _ h1, Wave.vAt_setV_other _ _ h2]
  | s n => cases w64 <;> simp [Wave.writeDst]
  | _ => rfl

theorem Wave.sAt_writeDst_other (w : Wave) (d : Operand) (w64 : Bool) (ext : Ext) (l : Nat) (v : OpVal) {n : Nat}
    (h : ∀ k, d = .s k → n ≠ k.val) : (w.writeDst d w64 ext l v).sAt n = w.sAt n := by
  cases d with
  | v k => cases w64 <;> simp [Wave.writeDst]
  | s k => cases w64 <;> simp [Wave.writeDst, Wave.sAt_setS_other _ _ (h k rfl)]
  | _ => rfl

theorem Wave.vAt_writeOuts_other (d : Operand) (w64 : Bool) (ext : Ext) {r j : Nat} (hj : j < 32) :
    ∀ (outs : List LaneOut) (w : Wave), (∀ o ∈ outs, o.l < 32) → ¬(inDest d w64 r = true ∧ j ∈ outs.map (·.l)) →
      (w.writeOuts d w64 ext outs).vAt r j = w.vAt r j := by
  intro outs
  induction outs with
  | nil => intros; rfl
  | cons o os ih =>
    intro w hl h
    have h1 : w.writeOuts d w64 ext (o :: os) = (w.writeDst d w64 ext o.l o.v).writeOuts d w64 ext os := rfl
    rw [h1, ih _ (fun x hx => hl x (List.mem_cons_of_mem _ hx)) (fun hx => h ⟨hx.1, by simp; exact .inr (by simpa using hx.2)⟩)]
    exact Wave.vAt_writeDst_other _ _ _ _ _ _ (hl o List.mem_cons_self) hj fun hx => h ⟨hx.1, by simp [hx.2]⟩

theorem Wave.sAt_writeOuts_other (d : Operand) (w64 : Bool) (ext : Ext) {n : Nat} (h : ∀ k, d = .s k → n ≠ k.val) :
    ∀ (outs : List LaneOut) (w : Wave), (w.writeOuts d w64 ext outs).sAt n = w.sAt n := by
  intro outs
  induction outs with
  | nil => intros; rfl
  | cons o os ih =>
    intro w
    have h1 : w.writeOuts d w64 ext (o :: os) = (w.writeDst d w64 ext o.l o.v).writeOuts d w64 ext os := rfl
    rw [h1, ih, Wave.sAt_writeDst_other _ _ _ _ _ _ h]

/-- What writing in other lanes leaves of a register, where no scalar is written twice. -/
theorem Wave.held_writeOuts_skip (d : Operand) (w64 : Bool) (ext : Ext) (l : Nat) (hl : l < 32) :
    ∀ (outs : List LaneOut) (w : Wave), (∀ o ∈ outs, o.l < 32) → (∀ o ∈ outs, o.l ≠ l) → (d.isS = true → outs = []) →
      (w.writeOuts d w64 ext outs).held d w64 l = w.held d w64 l := by
  intro outs w hlt hne hs
  cases d with
  | v n =>
    have hn : ∀ r, ¬(inDest (.v n) w64 r = true ∧ l ∈ outs.map (·.l)) := by
      rintro r ⟨_, hm⟩
      obtain ⟨o, ho, rfl⟩ := List.mem_map.1 hm
      exact hne o ho rfl
    simp only [Wave.held, Wave.vVal]
    rw [Wave.vAt_writeOuts_other _ _ _ hl _ _ hlt (hn _), Wave.vAt_writeOuts_other _ _ _ hl _ _ hlt (hn _)]
  | s n => rw [hs rfl]; rfl
  | _ => rfl

/-- Each lane of a pass reads back what was written for it. -/
theorem Wave.held_writeOuts (d : Operand) (w64 : Bool) (ext : Ext) :
    ∀ (outs : List LaneOut) (w : Wave), (∀ o ∈ outs, o.l < 32) → (outs.map (·.l)).Nodup →
      (d.isS = true → outs.length ≤ 1) →
      ∀ o ∈ outs, (w.writeOuts d w64 ext outs).held d w64 o.l = stored d w64 ext o.v := by
  intro outs
  induction outs with
  | nil => intro w _ _ _ o ho; simp at ho
  | cons a os ih =>
    intro w hlt hnd hs o ho
    have h1 : w.writeOuts d w64 ext (a :: os) = (w.writeDst d w64 ext a.l a.v).writeOuts d w64 ext os := rfl
    have hnd' := List.nodup_cons.1 (by simpa using hnd : (a.l :: os.map (·.l)).Nodup)
    rw [h1]
    rcases List.mem_cons.1 ho with rfl | ho
    · rw [Wave.held_writeOuts_skip _ _ _ _ (hlt _ List.mem_cons_self) _ _
        (fun x hx => hlt x (List.mem_cons_of_mem _ hx)), Wave.held_writeDst]
      · intro x hx e
        exact hnd'.1 (List.mem_map.2 ⟨x, hx, e⟩)
      · intro hd
        have := hs hd
        simpa using this
    · refine ih _ (fun x hx => hlt x (List.mem_cons_of_mem _ hx)) hnd'.2 (fun hd => ?_) o ho
      have := hs hd
      simp at this
      simp [this]

/-! ### What one arithmetic instruction comes to -/

theorem AluOp.outs_lanes (a : AluOp) (c : Ctx) (s : State) (p : Pop) (ls : List Nat) :
    (a.outs c s p ls).map (·.l) = ls := by
  simp [AluOp.outs, List.map_map, Function.comp_def]

theorem AluOp.mem_outs (a : AluOp) (c : Ctx) (s : State) (p : Pop) (ls : List Nat) {o : LaneOut}
    (h : o ∈ a.outs c s p ls) : o.l ∈ ls := by
  rw [← AluOp.outs_lanes a c s p ls]
  exact List.mem_map.2 ⟨o, h, rfl⟩

/-- The state an arithmetic instruction answers when it does not trap. -/
def AluOp.result (a : AluOp) (c : Ctx) (s : State) (p : Pop) : State :=
  let ls := passLanes (c.eff a.g) a.scalar
  let s' := if a.srcs.any fun x => x.queue.isSome then abortOpen c s (c.eff a.g) else s
  (a.commit c s' p (a.outs c s p ls)).advance c.wid

theorem AluOp.run_next (a : AluOp) {s : State} {c : Ctx} {p : Pop} (hc : s.ctx? = some c)
    (hp : popPlan c s a.srcs (passLanes (c.eff a.g) a.scalar) = .ok p)
    (hb : ∀ l ∈ passLanes (c.eff a.g) a.scalar, a.bad (a.vals c s p l) = false) (hv : a.verifyTrap c s (c.eff a.g) = none)
    (hx : xenTrap c s ((a.outs c s p (passLanes (c.eff a.g) a.scalar)).map fun o => (o.l, o.fl)) = none) :
    a.run s = .next (a.result c s p) := by
  unfold AluOp.run
  rw [withCtx_some hc]
  simp only [hp]
  have hb' : (passLanes (c.eff a.g) a.scalar).filter (fun l => a.bad (a.vals c s p l)) = [] := by
    rw [List.filter_eq_nil_iff]
    intro l hl
    simp [hb l hl]
  simp only [hb', ne_eq, not_true_eq_false, if_false, hv, hx]
  rfl

/-- VERIFY finds no difference where no error strikes one of the lanes it issues twice. -/
theorem AluOp.verifyTrap_none (a : AluOp) (c : Ctx) (s : State)
    (h : a.float = true → ∀ l, l < 32 → (c.eff a.g).getLsbD l = true → modeVerify (c.mode s l) = true → c.w.upset.getLsbD l = false) :
    a.verifyTrap c s (c.eff a.g) = none := by
  have hz : c.w.upset &&& (maskOf fun l => a.float && (c.eff a.g).getLsbD l && modeVerify (c.mode s l)) = 0#32 := by
    apply BitVec.eq_of_getLsbD_eq
    intro l hl
    rw [BitVec.getLsbD_and, maskOf_getLsbD]
    cases hf : a.float <;> cases he : (c.eff a.g).getLsbD l <;> cases hm : modeVerify (c.mode s l) <;>
      simp_all
  unfold AluOp.verifyTrap
  simp only
  exact if_pos hz

theorem AluOp.verifyTrap_plain (a : AluOp) (c : Ctx) (s : State) (h : a.float = false) :
    a.verifyTrap c s (c.eff a.g) = none := a.verifyTrap_none c s fun hf => absurd hf (by simp [h])

theorem Wave.countRsto_eq (w : Wave) (b : Bool) (l n : Nat) :
    w.countRsto b l n = { w with lseq := (w.countRsto b l n).lseq, helpers := (w.countRsto b l n).helpers } := by
  cases b <;> rfl

theorem AluOp.countAll_eq (a : AluOp) (c : Ctx) (s : State) : ∀ (outs : List LaneOut) (w : Wave),
    a.countAll c s w outs =
      { w with lseq := (a.countAll c s w outs).lseq, helpers := (a.countAll c s w outs).helpers } := by
  intro outs
  induction outs with
  | nil => intro w; rfl
  | cons o os ih =>
    intro w
    have h1 : a.countAll c s w (o :: os) =
        a.countAll c s (if a.count (c.mode s o.l) = 0 then w else w.countRsto c.helper o.l (a.count (c.mode s o.l))) os := rfl
    rw [h1, ih]
    split
    · rfl
    · rw [Wave.countRsto_eq]

/-- Raising flags touches the helper lanes of the wave, or MODE of its group, alone. -/
theorem raiseFlags_cases (c : Ctx) (s : State) (fs : List (Nat × Sticky)) :
    raiseFlags c s fs = s ∨ (∃ f : NMap HelperLane → NMap HelperLane,
      raiseFlags c s fs = s.modWave c.wid fun w => { w with helpers := f w.helpers }) ∨
    ∃ k : Sticky, raiseFlags c s fs = s.modGroup c.w.group fun g => { g with mode := modeOr g.mode k } := by
  unfold raiseFlags
  simp only
  split
  · exact .inl rfl
  · split
    · exact .inr (.inl ⟨fun hs => fs.foldl (fun hs x =>
        NMap.modify hs x.1 fun h => { h with sticky := h.sticky ||| x.2 }) hs, rfl⟩)
    · exact .inr (.inr ⟨_, rfl⟩)

theorem popPlan_no_queue (c : Ctx) (s : State) (srcs : List Src) (ls : List Nat)
    (h : srcs.findSome? Src.queue = none) : popPlan c s srcs ls = .ok {} := by
  simp [popPlan, h]

theorem passLanes_length_le_one (m : LaneMask) : (passLanes m true).length ≤ 1 := by
  unfold passLanes
  rw [if_pos rfl]
  split <;> simp

/-- Everything an arithmetic instruction with a register destination can do when it does not trap: each lane of the pass
holds its result. -/
theorem AluOp.result_held (a : AluOp) {s : State} {c : Ctx} {p : Pop} {d : Operand} {w64 : Bool} {ext : Ext}
    (hc : s.ctx? = some c) (hd : a.dst = .reg d w64 ext) (hs : d.isS = true → a.scalar = true) :
    ∀ l ∈ passLanes (c.eff a.g) a.scalar,
      (a.result c s p).held c.wid d w64 l = stored d w64 ext (a.f c s l (a.vals c s p l)).1 := by
  intro l hl
  unfold AluOp.result
  simp only
  generalize hS : (if a.srcs.any (fun x => x.queue.isSome) then abortOpen c s (c.eff a.g) else s) = s'
  have hw : ∃ w1, s'.wave? c.wid = some w1 := by
    rw [← hS]
    split
    · exact ⟨_, by simp [abortOpen, State.ctx_wave hc]; rfl⟩
    · exact ⟨_, State.ctx_wave hc⟩
  obtain ⟨w1, hw1⟩ := hw
  generalize hO : a.outs c s p (passLanes (c.eff a.g) a.scalar) = outs
  have hOl : outs.map (·.l) = passLanes (c.eff a.g) a.scalar := by rw [← hO, AluOp.outs_lanes]
  have hlt : ∀ o ∈ outs, o.l < 32 := by
    intro o ho
    refine passLanes_lt _ _ _ (?_ : o.l ∈ passLanes (c.eff a.g) a.scalar)
    rw [← hOl]; exact List.mem_map.2 ⟨o, ho, rfl⟩
  have hmem : (⟨l, (a.f c s l (a.vals c s p l)).1, (a.f c s l (a.vals c s p l)).2⟩ : LaneOut) ∈ outs := by
    rw [← hO]; exact List.mem_map.2 ⟨l, hl, rfl⟩
  have hheld : (w1.writeOuts d w64 ext outs).held d w64 l = stored d w64 ext (a.f c s l (a.vals c s p l)).1 := by
    refine Wave.held_writeOuts d w64 ext outs w1 hlt ?_ ?_ _ hmem
    · rw [hOl]; exact passLanes_nodup _ _
    · intro h
      have h2 := passLanes_length_le_one (c.eff a.g)
      rw [← hs h, ← hOl] at h2
      simpa using h2
  -- the registers of the wave after each further part are those just written
  have hfin : ∃ w2, ((a.commit c s' p outs).advance c.wid).wave? c.wid = some w2 ∧
      w2.v = (w1.writeOuts d w64 ext outs).v ∧ w2.s = (w1.writeOuts d w64 ext outs).s := by
    have h0 : ∃ w2, (s'.modWave c.wid fun w => a.countAll c s' (a.write c w outs) outs).wave? c.wid = some w2 ∧
        w2.v = (w1.writeOuts d w64 ext outs).v ∧ w2.s = (w1.writeOuts d w64 ext outs).s := by
      refine ⟨a.countAll c s' (a.write c w1 outs) outs, by simp [hw1], ?_⟩
      rw [AluOp.countAll_eq]
      simp [AluOp.write, hd]
    obtain ⟨w2, h2, hv, hss⟩ := h0
    have h3 : ∃ w3, (raiseFlags c (s'.modWave c.wid fun w => a.countAll c s' (a.write c w outs) outs)
        (outs.map fun o => (o.l, o.fl))).wave? c.wid = some w3 ∧
        w3.v = (w1.writeOuts d w64 ext outs).v ∧ w3.s = (w1.writeOuts d w64 ext outs).s := by
      rcases raiseFlags_cases c (s'.modWave c.wid fun w => a.countAll c s' (a.write c w outs) outs)
        (outs.map fun o => (o.l, o.fl)) with h | ⟨f, h⟩ | ⟨k, h⟩
      · rw [h]; exact ⟨w2, h2, hv, hss⟩
      · rw [h]; exact ⟨{ w2 with helpers := f w2.helpers }, by rw [State.wave_modWave, h2]; rfl, hv, hss⟩
      · rw [h]; exact ⟨w2, by rw [State.wave_modGroup]; exact h2, hv, hss⟩
    obtain ⟨w3, h3, hv3, hs3⟩ := h3
    have h4 : ∃ w4, (a.commit c s' p outs).wave? c.wid = some w4 ∧
        w4.v = (w1.writeOuts d w64 ext outs).v ∧ w4.s = (w1.writeOuts d w64 ext outs).s := by
      unfold AluOp.commit commitPop
      simp only
      split
      · exact ⟨w3, h3, hv3, hs3⟩
      · split
        · exact ⟨w3, by rw [State.wave_modCore]; exact h3, hv3, hs3⟩
        · exact ⟨Wave.setPBits w3 _ _ _, by rw [State.wave_modWave, State.wave_modCore, h3]; rfl, hv3, hs3⟩
    obtain ⟨w4, h4, hv4, hs4⟩ := h4
    exact ⟨w4.advance, by rw [State.advance, State.wave_modWave, h4]; rfl, hv4, hs4⟩
  obtain ⟨w2, h2, hv, hss⟩ := hfin
  have : ∀ w' : Wave, w2.v = w'.v → w2.s = w'.s → w2.held d w64 l = w'.held d w64 l := by
    intro w' e1 e2
    cases d <;> simp [Wave.held, Wave.vVal, Wave.vAt, Wave.sAt, e1, e2]
  rw [← hheld, ← this _ hv hss]
  unfold State.held State.waveD
  rw [h2]
  cases d <;> rfl

/-! ### Flags and frame -/

theorem abortTx_eq (w : Wave) (code user : Nat) (m : LaneMask) :
    w.abortTx code user m = { w with tx := (w.abortTx code user m).tx } := rfl

/-- The union of the flags of a pass. -/
def flagsOf (outs : List LaneOut) : Sticky := (outs.map fun o => (o.l, o.fl)).foldl (fun a x => a ||| x.2) 0

theorem raiseFlags_group (c : Ctx) (s : State) (fs : List (Nat × Sticky)) (hh : c.helper = false) :
    raiseFlags c s fs =
      if fs.foldl (fun a x => a ||| x.2) (0 : Sticky) = 0 then s
      else s.modGroup c.w.group fun g => { g with mode := modeOr g.mode (fs.foldl (fun a x => a ||| x.2) 0) } := by
  unfold raiseFlags
  simp only [hh, Bool.false_eq_true, if_false]

/-- The sticky bits an arithmetic instruction sets in its group's MODE (R109). -/
theorem AluOp.result_mode (a : AluOp) (c : Ctx) (s : State) (p : Pop) (hh : c.helper = false) {g : Group}
    (hg : s.group? c.w.group = some g) :
    (a.result c s p).group? c.w.group =
      some { g with mode := modeOr g.mode (flagsOf (a.outs c s p (passLanes (c.eff a.g) a.scalar))) } := by
  unfold AluOp.result AluOp.commit
  simp only
  have h1 : ∀ (s : State) (b : Bool), (commitPop c s a.g p b).groups = s.groups := by
    intro s b
    unfold commitPop
    split
    · rfl
    · simp only
      split <;> rfl
  have h2 : ∀ (s : State), ((s.advance c.wid).group? c.w.group) = s.group? c.w.group := fun _ => rfl
  rw [h2]
  unfold State.group?
  rw [h1, raiseFlags_group _ _ _ hh]
  have h3 : NMap.get? (if a.srcs.any fun x => x.queue.isSome then abortOpen c s (c.eff a.g) else s).groups c.w.group =
      some g := by split <;> exact hg
  have h4 : flagsOf (a.outs c s p (passLanes (c.eff a.g) a.scalar)) = 0 →
      some g = some { g with mode := modeOr g.mode (flagsOf (a.outs c s p (passLanes (c.eff a.g) a.scalar))) } := by
    intro h
    rw [h]
    simp [modeOr]
  split
  · rename_i h
    rw [← h4 h]
    exact h3
  · simp only [State.modGroup, NMap.get?_modify_self]
    exact congrArg (Option.map _) h3

theorem xenTrap_masked (c : Ctx) (s : State) (fs : List (Nat × Sticky)) (h : ∀ x ∈ fs, x.2 &&& modeXen (c.mode s x.1) = 0) :
    xenTrap c s fs = none := by
  have key : ∀ (fs : List (Nat × Sticky)), (∀ x ∈ fs, x.2 &&& modeXen (c.mode s x.1) = 0) → ∀ a : Sticky, a = 0 →
      fs.foldl (fun a x => a ||| (x.2 &&& modeXen (c.mode s x.1))) a = 0 := by
    intro fs
    induction fs with
    | nil => intro _ a h; exact h
    | cons x xs ih =>
      intro h a ha
      refine ih (fun y hy => h y (List.mem_cons_of_mem _ hy)) _ ?_
      simp [ha, h x List.mem_cons_self]
  unfold xenTrap
  simp only [key fs h 0 rfl, if_true]

/-- What an arithmetic instruction with a register destination and no queue among its sources leaves alone. -/
theorem AluOp.result_frame (a : AluOp) {s : State} {c : Ctx} {d : Operand} {w64 : Bool} {ext : Ext}
    (hc : s.ctx? = some c) (hd : a.dst = .reg d w64 ext) (hq : a.srcs.findSome? Src.queue = none) :
    onlyWave s (a.result c s {}) c ∧ ∃ w', (a.result c s {}).wave? c.wid = some w' ∧
      c.w.wroteOnly w' d w64 (passLanes (c.eff a.g) a.scalar) := by
  have hany : (a.srcs.any fun x => x.queue.isSome) = false := by
    rw [List.any_eq_false]
    intro x hx
    have := List.findSome?_eq_none_iff.1 hq x hx
    simp [this]
  have hpop : ∀ t : State, commitPop c t a.g {} a.scalar = t := fun _ => rfl
  unfold AluOp.result AluOp.commit
  simp only [hany, Bool.false_eq_true, if_false, hpop]
  generalize hO : a.outs c s {} (passLanes (c.eff a.g) a.scalar) = outs
  have hOl : outs.map (·.l) = passLanes (c.eff a.g) a.scalar := by rw [← hO, AluOp.outs_lanes]
  have hlt : ∀ o ∈ outs, o.l < 32 := by
    intro o ho
    refine passLanes_lt _ _ _ (?_ : o.l ∈ passLanes (c.eff a.g) a.scalar)
    rw [← hOl]; exact List.mem_map.2 ⟨o, ho, rfl⟩
  generalize hfs : outs.map (fun o => (o.l, o.fl)) = fs
  -- the wave as written
  have hwrote : ∀ hs : NMap HelperLane → NMap HelperLane, c.w.wroteOnly
      (Wave.advance { a.countAll c s (a.write c c.w outs) outs with helpers := hs (a.countAll c s (a.write c c.w outs) outs).helpers })
      d w64 (passLanes (c.eff a.g) a.scalar) := by
    intro hs
    have hw : a.write c c.w outs = c.w.writeOuts d w64 ext outs := by simp [AluOp.write, hd]
    rw [AluOp.countAll_eq, hw, Wave.writeOuts_eq]
    refine ⟨rfl, fun r l hl h => ?_, fun n h => ?_⟩
    · exact Wave.vAt_writeOuts_other d w64 ext hl outs c.w hlt (by rw [hOl]; exact h)
    · exact Wave.sAt_writeOuts_other d w64 ext h outs c.w
  have hwave := State.ctx_wave hc
  rcases raiseFlags_cases c (s.modWave c.wid fun w => a.countAll c s (a.write c w outs) outs) fs with h | ⟨f, h⟩ | ⟨k, h⟩
  · rw [h]
    refine ⟨⟨rfl, fun k hk => ?_, fun _ _ => rfl, fun g hg => ⟨g, hg, 0, by simp [modeOr]⟩⟩, _, ?_, hwrote id⟩
    · rw [State.advance, State.wave_modWave_other _ _ hk, State.wave_modWave_other _ _ hk]
    · rw [State.advance, State.wave_modWave, State.wave_modWave, hwave]; rfl
  · rw [h]
    refine ⟨⟨rfl, fun k hk => ?_, fun _ _ => rfl, fun g hg => ⟨g, hg, 0, by simp [modeOr]⟩⟩, _, ?_, hwrote f⟩
    · rw [State.advance, State.wave_modWave_other _ _ hk, State.wave_modWave_other _ _ hk, State.wave_modWave_other _ _ hk]
    · rw [State.advance, State.wave_modWave, State.wave_modWave, State.wave_modWave, hwave]; rfl
  · rw [h]
    refine ⟨⟨rfl, fun k hk => ?_, fun j hj => ?_, fun g hg => ⟨_, ?_, k, rfl⟩⟩, _, ?_, hwrote id⟩
    · rw [State.advance, State.wave_modWave_other _ _ hk, State.wave_modGroup, State.wave_modWave_other _ _ hk]
    · rw [State.advance, State.group_modWave, State.group_modGroup_other _ _ hj, State.group_modWave]
    · rw [State.advance, State.group_modWave, State.group_modGroup, State.group_modWave, hg]; rfl
    · rw [State.advance, State.wave_modWave, State.wave_modGroup, State.wave_modWave, hwave]; rfl

end Sys2Proof.Machine
end

