-- ==== Sys2Proof/Laws/Elements.lean ====
section
/-! SUPPORT. Elements of packed values (R65, R131), and what an integer instruction that never traps writes. -/

namespace Sys2Proof.Machine

/-! ### Packing and taking apart -/

theorem elemU_lt (w e x : Nat) : elemU w e x < 2 ^ w := Nat.mod_lt _ (by positivity)

theorem packElems_lt (w : Nat) : ∀ xs : List Nat, (∀ x ∈ xs, x < 2 ^ w) → packElems w xs < 2 ^ (w * xs.length) := by
  intro xs
  induction xs with
  | nil => intro _; simp [packElems]
  | cons x xs ih =>
    intro h
    have h1 := h x List.mem_cons_self
    have h2 := ih fun y hy => h y (List.mem_cons_of_mem _ hy)
    simp only [packElems, List.length_cons, Nat.mul_add, Nat.mul_one, Nat.pow_add]
    calc x + 2 ^ w * packElems w xs < 2 ^ w + 2 ^ w * packElems w xs := by omega
      _ = 2 ^ w * (packElems w xs + 1) := by ring
      _ ≤ 2 ^ w * 2 ^ (w * xs.length) := Nat.mul_le_mul_left _ h2
      _ = 2 ^ (w * xs.length) * 2 ^ w := by ring

/-- Each element of a packed value is the one packed. -/
theorem elemU_packElems (w : Nat) : ∀ (xs : List Nat) (e : Nat), (∀ x ∈ xs, x < 2 ^ w) → e < xs.length →
    elemU w e (packElems w xs) = xs.getD e 0 := by
  intro xs
  induction xs with
  | nil => intro e _ h; simp at h
  | cons x xs ih =>
    intro e h he
    have h1 := h x List.mem_cons_self
    cases e with
    | zero => simp [elemU, packElems, Nat.mod_eq_of_lt h1]
    | succ e =>
      have h2 := ih e (fun y hy => h y (List.mem_cons_of_mem _ hy)) (by simpa using he)
      rw [List.getD_cons_succ, ← h2]
      have hp : packElems w (x :: xs) = x + 2 ^ w * packElems w xs := rfl
      unfold elemU
      rw [hp]
      have : 2 ^ (w * (e + 1)) = 2 ^ w * 2 ^ (w * e) := by rw [← Nat.pow_add]; ring_nf
      rw [this, ← Nat.div_div_eq_div_mul, Nat.add_mul_div_left _ _ (by positivity), Nat.div_eq_of_lt h1, Nat.zero_add]

/-- Cutting a value above an element does not change the element. -/
theorem elemU_mod (w e n x : Nat) (h : w * (e + 1) ≤ n) : elemU w e (x % 2 ^ n) = elemU w e x := by
  unfold elemU
  obtain ⟨k, rfl⟩ := Nat.exists_eq_add_of_le (show w * e ≤ n by nlinarith)
  have hk : w ≤ k := by nlinarith
  rw [Nat.pow_add, Nat.mod_mul_right_div_self, Nat.mod_mod_of_dvd _ (Nat.pow_dvd_pow 2 hk)]

theorem IntTy.shape_le (t : IntTy) : (IntTy.shape t).1 * (IntTy.shape t).2 ≤ if t.w64 then 64 else 32 := by
  cases t <;> decide

theorem IntTy.shape_pos (t : IntTy) : 0 < (IntTy.shape t).1 := by cases t <;> decide

theorem IntTy.elem_end (t : IntTy) {e : Nat} (h : e < (IntTy.shape t).2) :
    (IntTy.shape t).1 * (e + 1) ≤ if t.w64 then 64 else 32 :=
  le_trans (Nat.mul_le_mul_left _ h) (IntTy.shape_le t)

theorem wrapTo_lt (w : Nat) (x : Int) : wrapTo w x < 2 ^ w := by
  unfold wrapTo
  have h1 : (0 : Int) < 2 ^ w := by positivity
  have h2 := Int.emod_lt_of_pos x h1
  have h3 := Int.emod_nonneg x (ne_of_gt h1)
  zify
  rw [Int.toNat_of_nonneg h3]
  exact_mod_cast h2

/-! ### What a destination gives back -/

theorem lo32_toNat (x : Word64) : (lo32 x).toNat = x.toNat % 2 ^ 32 := by simp [lo32]

theorem hi32_toNat (x : Word64) : (hi32 x).toNat = x.toNat / 2 ^ 32 := by
  have := x.isLt
  simp [hi32]
  omega

@[simp] theorem pair64_lo_hi (x : Word64) : pair64 (lo32 x) (hi32 x) = x := by
  apply BitVec.eq_of_toNat_eq
  have := x.isLt
  simp only [pair64, lo32_toNat, hi32_toNat, BitVec.toNat_ofNat]
  omega

theorem setWidth_signExtend32 (x : Word32) : BitVec.setWidth 32 (BitVec.signExtend 64 x) = x := by
  apply BitVec.eq_of_getLsbD_eq
  intro i hi
  rw [BitVec.getLsbD_setWidth, BitVec.getLsbD_signExtend]
  simp [hi]
  omega

/-- The low 32 bits of what a 32-bit destination holds are those written. -/
theorem stored_low (d : Operand) (hd : d.vs = true) (ext : Ext) (v : OpVal) :
    (stored d false ext v).val.toNat % 2 ^ 32 = v.val.toNat % 2 ^ 32 := by
  cases d with
  | v n => simp [stored, lo32_toNat]
  | s n =>
    cases ext with
    | zero => simp [stored, lo32_toNat]
    | sign =>
      have h : (BitVec.signExtend 64 (lo32 v.val)).toNat % 2 ^ 32 = (BitVec.setWidth 32 (BitVec.signExtend 64 (lo32 v.val))).toNat := by
        simp
      simp only [stored, Bool.false_eq_true, if_false]
      rw [h, setWidth_signExtend32]
      simp [lo32_toNat]
  | _ => simp [Operand.vs] at hd

theorem stored_wide (d : Operand) (hd : d.vs = true) (ext : Ext) (v : OpVal) : (stored d true ext v).val = v.val := by
  cases d with
  | v n => simp [stored]
  | s n => simp [stored]
  | _ => simp [Operand.vs] at hd

/-- The elements of what an integer destination holds are those of the result. -/
theorem elemU_stored (t : IntTy) (d : Operand) (hd : d.vs = true) (ext : Ext) (v : OpVal) {e : Nat}
    (he : e < (IntTy.shape t).2) :
    elemU (IntTy.shape t).1 e (stored d t.w64 ext v).val.toNat = elemU (IntTy.shape t).1 e v.val.toNat := by
  have h1 := IntTy.elem_end t he
  cases h : t.w64 with
  | true => rw [stored_wide d hd]
  | false =>
    rw [h] at h1
    simp only [Bool.false_eq_true, if_false] at h1
    rw [← elemU_mod _ _ 32 _ h1, stored_low d hd, elemU_mod _ _ 32 _ h1]

/-- A 32-bit result is extended into a scalar as its type says (R126). -/
theorem stored_scalar (d : Operand) (hd : d.isS = true) (t : IntTy) (v : OpVal) :
    (stored d false (IntTy.ext t) v).val =
      if t.signed then BitVec.signExtend 64 (lo32 (stored d false (IntTy.ext t) v).val)
      else BitVec.setWidth 64 (lo32 (stored d false (IntTy.ext t) v).val) := by
  cases d with
  | s n =>
    have h1 : ∀ x : Word32, lo32 (BitVec.signExtend 64 x) = x := by
      intro x
      have h : lo32 (BitVec.signExtend 64 x) = BitVec.setWidth 32 (BitVec.signExtend 64 x) := by
        apply BitVec.eq_of_toNat_eq; simp [lo32]
      rw [h, setWidth_signExtend32]
    have h2 : ∀ x : Word32, lo32 (BitVec.ofNat 64 x.toNat) = x := by
      intro x
      apply BitVec.eq_of_toNat_eq
      simpa [lo32] using x.isLt
    cases hs : t.signed
    · simp only [stored, IntTy.ext, hs, Bool.false_eq_true, if_false, h2]
      apply BitVec.eq_of_toNat_eq
      simp
    · simp only [stored, IntTy.ext, hs, Bool.false_eq_true, if_false, if_true, h1]
  | _ => simp [Operand.isS] at hd

/-- An integer read from a packed value of the function over elements. -/
theorem elemU_map (t : IntTy) (g : List Int → Nat) (vs : List OpVal) (hg : ∀ xs, g xs < 2 ^ (IntTy.shape t).1) {e : Nat}
    (he : e < (IntTy.shape t).2) :
    elemU (IntTy.shape t).1 e (IntTy.map t g vs).toNat = g (vs.map fun v => IntTy.elem t e v.val.toNat) := by
  unfold IntTy.map
  have h64 : (if t.w64 then 64 else 32) ≤ 64 := by split <;> omega
  rw [BitVec.toNat_ofNat, elemU_mod _ _ _ _ (le_trans (IntTy.elem_end t he) h64), elemU_packElems]
  · simp [List.getD, he]
  · intro x hx
    obtain ⟨e, _, rfl⟩ := List.mem_map.1 hx
    exact hg _
  · simpa using he

theorem elemU_mapU (t : IntTy) (g : Nat → List Nat → Nat) (vs : List OpVal)
    (hg : ∀ e, g (IntTy.shape t).1 (vs.map fun v => elemU (IntTy.shape t).1 e v.val.toNat) < 2 ^ (IntTy.shape t).1) {e : Nat}
    (he : e < (IntTy.shape t).2) :
    elemU (IntTy.shape t).1 e (IntTy.mapU t g vs).toNat =
      g (IntTy.shape t).1 (vs.map fun v => elemU (IntTy.shape t).1 e v.val.toNat) := by
  unfold IntTy.mapU
  have h64 : (if t.w64 then 64 else 32) ≤ 64 := by split <;> omega
  rw [BitVec.toNat_ofNat, elemU_mod _ _ _ _ (le_trans (IntTy.elem_end t he) h64), elemU_packElems]
  · simp [List.getD, he]
  · intro x hx
    obtain ⟨e, _, rfl⟩ := List.mem_map.1 hx
    exact hg _
  · simpa using he

/-! ### Instructions that never trap -/

theorem xenTrap_none (c : Ctx) (s : State) (fs : List (Nat × Sticky)) (h : ∀ x ∈ fs, x.2 = 0) : xenTrap c s fs = none := by
  have key : ∀ (fs : List (Nat × Sticky)), (∀ x ∈ fs, x.2 = 0) → ∀ a : Sticky, a = 0 →
      fs.foldl (fun a x => a ||| (x.2 &&& modeXen (c.mode s x.1))) a = 0 := by
    intro fs
    induction fs with
    | nil => intro _ a h; exact h
    | cons x xs ih =>
      intro h a ha
      refine ih (fun y hy => h y (List.mem_cons_of_mem _ hy)) _ ?_
      simp [ha, h x List.mem_cons_self]
  unfold xenTrap
  simp only [key fs h 0 rfl, if_true]

/-- A well-formed instruction with a scalar destination and no lane-dependent source runs on the scalar unit (R70, R126). -/
theorem AluOp.scalar_eq (a : AluOp) {d : Operand} {w64 : Bool} {ext : Ext} (hd : a.dst = .reg d w64 ext) (hv : d.vs = true)
    (hu : d.isS = true → a.srcs.any Src.perLane = false) : a.scalar = d.isS := by
  unfold AluOp.scalar Dest.perLane
  rw [hd]
  cases d with
  | v n => simp [Operand.perLane, Operand.isS]
  | s n => simp only [Operand.perLane, Operand.isS, hu rfl]; rfl
  | _ => simp [Operand.vs] at hv

/-- What an integer instruction that raises no flag and has no bad operand comes to: every lane of the result holds the
function of its sources. -/
theorem AluOp.completes (a : AluOp) {s : State} {c : Ctx} {p : Pop} {d : Operand} {w64 : Bool} {ext : Ext}
    (hc : s.ctx? = some c) (hd : a.dst = .reg d w64 ext) (hv : d.vs = true)
    (hu : d.isS = true → a.srcs.any Src.perLane = false)
    (hp : popPlan c s a.srcs (c.resultLanes a.g d) = .ok p) (hb : ∀ l ∈ c.resultLanes a.g d, a.bad (a.vals c s p l) = false)
    (hf : ∀ l ∈ c.resultLanes a.g d, (a.f c s l (a.vals c s p l)).2 = 0) (hi : a.float = false) :
    ∃ t, a.run s = .next t ∧ t = a.result c s p ∧ ∀ l ∈ c.resultLanes a.g d,
      t.held c.wid d w64 l = stored d w64 ext (a.f c s l (a.vals c s p l)).1 := by
  have hs : a.scalar = d.isS := a.scalar_eq hd hv hu
  have hlanes : c.resultLanes a.g d = passLanes (c.eff a.g) a.scalar := by rw [hs]; rfl
  rw [hlanes] at hp hf hb ⊢
  refine ⟨_, a.run_next hc hp hb (a.verifyTrap_plain c s hi) ?_, rfl, ?_⟩
  · apply xenTrap_none
    intro x hx
    obtain ⟨o, ho, rfl⟩ := List.mem_map.1 hx
    obtain ⟨l, hl, rfl⟩ := List.mem_map.1 ho
    exact hf l hl
  · intro l hl
    exact a.result_held hc hd (fun h => by rw [hs, h]) l hl

end Sys2Proof.Machine
end

