-- ==== Sys2Proof/Laws/Memory.lean ====
section
/-! SUPPORT. Byte memory: what a read after a write gives, and that every operation keeps the canonical form. -/

namespace Sys2Proof.Machine

theorem Memory.readBytes_congr (m m' : Memory) : ∀ (n a : Nat), (∀ i, a ≤ i → i < a + n → Memory.read m i = Memory.read m' i) →
    Memory.readBytes m a n = Memory.readBytes m' a n := by
  intro n
  induction n with
  | zero => intro a _; rfl
  | succ n ih =>
    intro a h
    simp only [Memory.readBytes]
    rw [h a (Nat.le_refl _) (by omega), ih (a + 1) fun i h1 h2 => h i (by omega) (by omega)]

/-- Reading back what was written. -/
theorem Memory.readBytes_writeBytes : ∀ (bs : List Byte) (m : Memory) (a : Nat),
    Memory.readBytes (Memory.writeBytes m a bs) a bs.length = bs := by
  intro bs
  induction bs with
  | nil => intro m a; rfl
  | cons b bs ih =>
    intro m a
    simp only [List.length_cons, Memory.readBytes, Memory.writeBytes]
    rw [ih, Memory.read_writeBytes, if_neg (by omega), Memory.read_write, if_pos rfl]

theorem leNat_leBytes : ∀ (n x : Nat), leNat (leBytes x n) = x % 256 ^ n := by
  intro n
  induction n with
  | zero => intro x; simp [leBytes, leNat, Nat.mod_one]
  | succ n ih =>
    intro x
    simp only [leBytes, leNat, ih, BitVec.toNat_ofNat]
    rw [show (2 : Nat) ^ 8 = 256 by norm_num, Nat.pow_succ, Nat.mul_comm (256 ^ n) 256, Nat.mod_mul]

theorem leNat_lt : ∀ bs : List Byte, leNat bs < 256 ^ bs.length := by
  intro bs
  induction bs with
  | nil => simp [leNat]
  | cons b bs ih =>
    simp only [leNat, List.length_cons, Nat.pow_succ]
    have := b.isLt
    omega

theorem Memory.readNat_writeNat (m : Memory) (a n x : Nat) : Memory.readNat (Memory.writeNat m a n x) a n = x % 256 ^ n := by
  unfold Memory.readNat Memory.writeNat
  have h := Memory.readBytes_writeBytes (leBytes x n) m a
  rw [leBytes_length] at h
  rw [h, leNat_leBytes]

/-! ### The home slices -/

theorem clearPoison_mem (s : State) (pa n : Nat) : (clearPoison s pa n).mem = s.mem := by
  unfold clearPoison; simp only; split <;> rfl

theorem wakeJoins_mem (s : State) (ln : Nat) : (wakeJoins s ln).mem = s.mem := by
  unfold wakeJoins; split <;> rfl

theorem spinStore_mem (s : State) (ln : Nat) : (spinStore s ln).mem = s.mem := by
  unfold spinStore; split <;> rfl

theorem touchTx_mem (s : State) (ln : Nat) : (touchTx s ln).mem = s.mem := by
  unfold touchTx; split <;> rfl

@[simp] theorem noteStore_mem (s : State) (ln : Nat) : (noteStore s ln).mem = s.mem := by
  unfold noteStore; rw [touchTx_mem, spinStore_mem]

@[simp] theorem putHome_mem (s : State) (pa : Nat) (bs : List Byte) : (putHome s pa bs).mem = Memory.writeBytes s.mem pa bs := by
  unfold putHome; rw [clearPoison_mem]

/-- A write at the home slice writes its bytes and no other. -/
@[simp] theorem homeWrite_mem (s : State) (pa : Nat) (bs : List Byte) : (homeWrite s pa bs).mem = Memory.writeBytes s.mem pa bs := by
  unfold homeWrite; rw [noteStore_mem, wakeJoins_mem, putHome_mem]

end Sys2Proof.Machine
end

