-- ==== Sys2Proof/Laws/MemoryForm.lean ====
section
/-! SUPPORT. The operations of State that write device memory keep its canonical form, and reset has it. -/

namespace Sys2Proof.Machine

theorem State.reset_mem_wf : Memory.wf State.reset.mem = true := rfl

theorem homeWrite_mem_wf (s : State) (pa : Nat) (bs : List Byte) (h : Memory.wf s.mem = true) :
    Memory.wf (homeWrite s pa bs).mem = true := by
  rw [homeWrite_mem]
  exact Memory.wf_writeBytes bs s.mem pa h

/-- A fold that only ever writes bytes keeps the form. -/
theorem Memory.wf_foldl {α : Type} (f : Memory → α → Memory) (hf : ∀ m x, Memory.wf m = true → Memory.wf (f m x) = true) :
    ∀ (xs : List α) (m : Memory), Memory.wf m = true → Memory.wf (xs.foldl f m) = true
  | [], _, h => h
  | x :: xs, m, h => Memory.wf_foldl f hf xs (f m x) (hf m x h)

theorem switchMap_mem_wf (s : State) (m : Option (List (BitVec 16))) : Memory.wf (switchMap s m).mem = true := by
  refine Memory.wf_foldl _ (fun t x h => ?_) _ [] rfl
  split
  · exact Memory.wf_write t _ x.2 h
  · exact h

end Sys2Proof.Machine
end

