-- ==== Sys2Proof/Laws/PerInstr.lean ====
section
/-! SUPPORT. Of every instruction: the word it encodes to is no header, and it has a word of one of the two widths at most. -/

namespace Sys2Proof.Laws

/-- What a wave instruction encodes to has bit 63 clear (R44, R60), and no instruction is both a wave and a sluice one. -/
def Encoding.Statement (i : Instr) : Prop :=
  (∀ w, encodeWave i = some w → isHeader w = false) ∧ (encodeWave i = none ∨ encodeSluice i = none)

theorem Encoding.pack_noHeader (h : Head) : isHeader h.pack = false := by
  have a : h.op.toNat < 128 := h.op.isLt
  have b : h.g.pred.val < 8 := h.g.pred.isLt
  have c : h.sub.toNat < 16 := h.sub.isLt
  have d : h.body.toNat < 2 ^ 48 := h.body.isLt
  have e : bit h.g.neg ≤ 1 := by unfold bit; split <;> omega
  unfold isHeader bitAt Head.pack
  rw [BitVec.toNat_ofNat]
  apply decide_eq_false
  omega

/-- A word is packed from a head. -/
def Encoding.Packed (w : Word64) : Prop := ∃ h : Head, w = h.pack

/-- An instruction whose wave word is packed from a head. -/
theorem Encoding.ofHead {i : Instr} {w : Word64} (p : Encoding.Packed w) (e : encodeWave i = some w)
    (n : encodeSluice i = none) : Encoding.Statement i := by
  obtain ⟨h, rfl⟩ := p
  refine ⟨fun w q => ?_, .inr n⟩
  rw [e] at q
  cases q
  exact Encoding.pack_noHeader h

/-- An instruction with no wave word. -/
theorem Encoding.ofNone {i : Instr} (e : encodeWave i = none) : Encoding.Statement i := by
  refine ⟨fun w q => ?_, .inl e⟩
  rw [e] at q
  cases q

theorem Encoding.aluI (op : BitVec 7) (sub : BitVec 4) (f : AluI) : Encoding.Packed (f.word op sub) := by
  unfold AluI.word
  split <;> exact ⟨_, rfl⟩

theorem Encoding.aluF (op : BitVec 7) (sub : BitVec 4) (f : AluF) : Encoding.Packed (f.word op sub) := by
  unfold AluF.word
  split <;> exact ⟨_, rfl⟩

theorem Encoding.iadd (f : AluI) : Encoding.Statement (.iadd f) :=
  Encoding.ofHead (Encoding.aluI _ _ f) rfl rfl

theorem Encoding.isub (f : AluI) : Encoding.Statement (.isub f) :=
  Encoding.ofHead (Encoding.aluI _ _ f) rfl rfl

theorem Encoding.iadds (f : AluI) : Encoding.Statement (.iadds f) :=
  Encoding.ofHead (Encoding.aluI _ _ f) rfl rfl

theorem Encoding.isubs (f : AluI) : Encoding.Statement (.isubs f) :=
  Encoding.ofHead (Encoding.aluI _ _ f) rfl rfl

theorem Encoding.imul (f : AluI) : Encoding.Statement (.imul f) :=
  Encoding.ofHead (Encoding.aluI _ _ f) rfl rfl

theorem Encoding.imulh (f : AluI) : Encoding.Statement (.imulh f) :=
  Encoding.ofHead (Encoding.aluI _ _ f) rfl rfl

theorem Encoding.imad (f : AluI3) : Encoding.Statement (.imad f) :=
  Encoding.ofHead ⟨_, rfl⟩ rfl rfl

theorem Encoding.imin (f : AluI) : Encoding.Statement (.imin f) :=
  Encoding.ofHead (Encoding.aluI _ _ f) rfl rfl

theorem Encoding.imax (f : AluI) : Encoding.Statement (.imax f) :=
  Encoding.ofHead (Encoding.aluI _ _ f) rfl rfl

theorem Encoding.iabs (f : AluI1) : Encoding.Statement (.iabs f) :=
  Encoding.ofHead ⟨_, rfl⟩ rfl rfl

theorem Encoding.ineg (f : AluI1) : Encoding.Statement (.ineg f) :=
  Encoding.ofHead ⟨_, rfl⟩ rfl rfl

theorem Encoding.and (f : AluI) : Encoding.Statement (.and f) :=
  Encoding.ofHead (Encoding.aluI _ _ f) rfl rfl

theorem Encoding.or (f : AluI) : Encoding.Statement (.or f) :=
  Encoding.ofHead (Encoding.aluI _ _ f) rfl rfl

theorem Encoding.xor (f : AluI) : Encoding.Statement (.xor f) :=
  Encoding.ofHead (Encoding.aluI _ _ f) rfl rfl

theorem Encoding.andn (f : AluI) : Encoding.Statement (.andn f) :=
  Encoding.ofHead (Encoding.aluI _ _ f) rfl rfl

theorem Encoding.not (f : AluI1) : Encoding.Statement (.not f) :=
  Encoding.ofHead ⟨_, rfl⟩ rfl rfl

theorem Encoding.shl (f : AluI) : Encoding.Statement (.shl f) :=
  Encoding.ofHead (Encoding.aluI _ _ f) rfl rfl

theorem Encoding.shr (f : AluI) : Encoding.Statement (.shr f) :=
  Encoding.ofHead (Encoding.aluI _ _ f) rfl rfl

theorem Encoding.sar (f : AluI) : Encoding.Statement (.sar f) :=
  Encoding.ofHead (Encoding.aluI _ _ f) rfl rfl

theorem Encoding.rot (f : AluI) : Encoding.Statement (.rot f) :=
  Encoding.ofHead (Encoding.aluI _ _ f) rfl rfl

theorem Encoding.bfx (f : AluI3) : Encoding.Statement (.bfx f) :=
  Encoding.ofHead ⟨_, rfl⟩ rfl rfl

theorem Encoding.bfi (f : AluI3) : Encoding.Statement (.bfi f) :=
  Encoding.ofHead ⟨_, rfl⟩ rfl rfl

theorem Encoding.clz (f : AluI1) : Encoding.Statement (.clz f) :=
  Encoding.ofHead ⟨_, rfl⟩ rfl rfl

theorem Encoding.popc (f : AluI1) : Encoding.Statement (.popc f) :=
  Encoding.ofHead ⟨_, rfl⟩ rfl rfl

theorem Encoding.brev (f : AluI1) : Encoding.Statement (.brev f) :=
  Encoding.ofHead ⟨_, rfl⟩ rfl rfl

theorem Encoding.permb (f : AluI) : Encoding.Statement (.permb f) :=
  Encoding.ofHead (Encoding.aluI _ _ f) rfl rfl

theorem Encoding.icmp (cc : ICond) (g : Guard) (ty : IntTy) (pd : Fin 8) (a : Operand) (b : SrcB) : Encoding.Statement (.icmp cc g ty pd a b) := by
  cases b <;> exact Encoding.ofHead ⟨_, rfl⟩ rfl rfl

theorem Encoding.fcmp (cc : FCond) (g : Guard) (ty : FloatTy) (rnd : Rnd) (pd : Fin 8) (a : Operand) (b : SrcB) : Encoding.Statement (.fcmp cc g ty rnd pd a b) := by
  cases b <;> exact Encoding.ofHead ⟨_, rfl⟩ rfl rfl

theorem Encoding.sel (g : Guard) (ty : IntTy) (d : Operand) (a : Operand) (b : Operand) (p : Fin 8) (neg : Bool) : Encoding.Statement (.sel g ty d a b p neg) :=
  Encoding.ofHead ⟨_, rfl⟩ rfl rfl

theorem Encoding.mov (g : Guard) (ty : IntTy) (d : Operand) (b : SrcB) : Encoding.Statement (.mov g ty d b) := by
  cases b <;> exact Encoding.ofHead ⟨_, rfl⟩ rfl rfl

theorem Encoding.modmul (f : AluI3) : Encoding.Statement (.modmul f) :=
  Encoding.ofHead ⟨_, rfl⟩ rfl rfl

theorem Encoding.modadd (f : AluI3) : Encoding.Statement (.modadd f) :=
  Encoding.ofHead ⟨_, rfl⟩ rfl rfl

theorem Encoding.modsub (f : AluI3) : Encoding.Statement (.modsub f) :=
  Encoding.ofHead ⟨_, rfl⟩ rfl rfl

theorem Encoding.modrcp (f : AluI) : Encoding.Statement (.modrcp f) :=
  Encoding.ofHead (Encoding.aluI _ _ f) rfl rfl

theorem Encoding.fadd (f : AluF) : Encoding.Statement (.fadd f) :=
  Encoding.ofHead (Encoding.aluF _ _ f) rfl rfl

theorem Encoding.fsub (f : AluF) : Encoding.Statement (.fsub f) :=
  Encoding.ofHead (Encoding.aluF _ _ f) rfl rfl

theorem Encoding.fmul (f : AluF) : Encoding.Statement (.fmul f) :=
  Encoding.ofHead (Encoding.aluF _ _ f) rfl rfl

theorem Encoding.ffma (f : AluF3) : Encoding.Statement (.ffma f) :=
  Encoding.ofHead ⟨_, rfl⟩ rfl rfl

theorem Encoding.fmin (f : AluF) : Encoding.Statement (.fmin f) :=
  Encoding.ofHead (Encoding.aluF _ _ f) rfl rfl

theorem Encoding.fmax (f : AluF) : Encoding.Statement (.fmax f) :=
  Encoding.ofHead (Encoding.aluF _ _ f) rfl rfl

theorem Encoding.fdot2 (f : AluF3) : Encoding.Statement (.fdot2 f) :=
  Encoding.ofHead ⟨_, rfl⟩ rfl rfl

theorem Encoding.frcp (f : AluF1) : Encoding.Statement (.frcp f) :=
  Encoding.ofHead ⟨_, rfl⟩ rfl rfl

theorem Encoding.frsq (f : AluF1) : Encoding.Statement (.frsq f) :=
  Encoding.ofHead ⟨_, rfl⟩ rfl rfl

theorem Encoding.fexp2 (f : AluF1) : Encoding.Statement (.fexp2 f) :=
  Encoding.ofHead ⟨_, rfl⟩ rfl rfl

theorem Encoding.flog2 (f : AluF1) : Encoding.Statement (.flog2 f) :=
  Encoding.ofHead ⟨_, rfl⟩ rfl rfl

theorem Encoding.fsin (f : AluF1) : Encoding.Statement (.fsin f) :=
  Encoding.ofHead ⟨_, rfl⟩ rfl rfl

theorem Encoding.fcos (f : AluF1) : Encoding.Statement (.fcos f) :=
  Encoding.ofHead ⟨_, rfl⟩ rfl rfl

theorem Encoding.cvt (f : CvtForm) : Encoding.Statement (.cvt f) :=
  Encoding.ofHead ⟨_, rfl⟩ rfl rfl

theorem Encoding.cvtSat (f : CvtForm) : Encoding.Statement (.cvtSat f) :=
  Encoding.ofHead ⟨_, rfl⟩ rfl rfl

theorem Encoding.ldk (f : LdkForm) : Encoding.Statement (.ldk f) :=
  Encoding.ofHead ⟨_, rfl⟩ rfl rfl

theorem Encoding.ldkS (f : LdkForm) : Encoding.Statement (.ldkS f) :=
  Encoding.ofHead ⟨_, rfl⟩ rfl rfl

theorem Encoding.give (g : Guard) (n : BitVec 8) : Encoding.Statement (.give g n) :=
  Encoding.ofHead ⟨_, rfl⟩ rfl rfl

theorem Encoding.claim (g : Guard) (pd : Fin 8) (n : BitVec 8) : Encoding.Statement (.claim g pd n) :=
  Encoding.ofHead ⟨_, rfl⟩ rfl rfl

theorem Encoding.vote (g : Guard) (form : VoteForm) (d : Operand) (pd : Fin 8) (p : Fin 8) (neg : Bool) : Encoding.Statement (.vote g form d pd p neg) :=
  Encoding.ofHead ⟨_, rfl⟩ rfl rfl

theorem Encoding.shfl (k : ShflForm) (f : ShflFields) : Encoding.Statement (.shfl k f) :=
  Encoding.ofHead ⟨_, rfl⟩ rfl rfl

theorem Encoding.rdlane (g : Guard) (ty : LaneTy) (d : Operand) (a : Operand) (b : Operand) : Encoding.Statement (.rdlane g ty d a b) :=
  Encoding.ofHead ⟨_, rfl⟩ rfl rfl

theorem Encoding.reduce (g : Guard) (op : RedOp) (ty : RedTy) (d : Operand) (a : Operand) : Encoding.Statement (.reduce g op ty d a) :=
  Encoding.ofHead ⟨_, rfl⟩ rfl rfl

theorem Encoding.scan (g : Guard) (op : RedOp) (excl : Bool) (ty : RedTy) (d : Operand) (a : Operand) : Encoding.Statement (.scan g op excl ty d a) :=
  Encoding.ofHead ⟨_, rfl⟩ rfl rfl

theorem Encoding.qxch (g : Guard) (k : QxchForm) (ty : LaneTy) (d : Operand) (a : Operand) : Encoding.Statement (.qxch g k ty d a) := by
  cases k <;> exact Encoding.ofHead ⟨_, rfl⟩ rfl rfl

theorem Encoding.plop (g : Guard) (op : PlopOp) (pd : Fin 8) (pa : Fin 8) (pb : Fin 8) : Encoding.Statement (.plop g op pd pa pb) :=
  Encoding.ofHead ⟨_, rfl⟩ rfl rfl

theorem Encoding.bra (tgt : BitVec 20) : Encoding.Statement (.bra tgt) :=
  Encoding.ofHead ⟨_, rfl⟩ rfl rfl

theorem Encoding.bany (g : Guard) (tgt : BitVec 20) : Encoding.Statement (.bany g tgt) :=
  Encoding.ofHead ⟨_, rfl⟩ rfl rfl

theorem Encoding.ball (g : Guard) (tgt : BitVec 20) : Encoding.Statement (.ball g tgt) :=
  Encoding.ofHead ⟨_, rfl⟩ rfl rfl

theorem Encoding.bnone (g : Guard) (tgt : BitVec 20) : Encoding.Statement (.bnone g tgt) :=
  Encoding.ofHead ⟨_, rfl⟩ rfl rfl

theorem Encoding.bdiv (g : Guard) (tgt : BitVec 20) (conf : BitVec 20) : Encoding.Statement (.bdiv g tgt conf) :=
  Encoding.ofHead ⟨_, rfl⟩ rfl rfl

theorem Encoding.conf : Encoding.Statement (.conf) :=
  Encoding.ofHead ⟨_, rfl⟩ rfl rfl

theorem Encoding.call (tgt : BitVec 20) : Encoding.Statement (.call tgt) :=
  Encoding.ofHead ⟨_, rfl⟩ rfl rfl

theorem Encoding.ret : Encoding.Statement (.ret) :=
  Encoding.ofHead ⟨_, rfl⟩ rfl rfl

theorem Encoding.jtb (a : Operand) (table : BitVec 20) (dflt : BitVec 20) : Encoding.Statement (.jtb a table dflt) :=
  Encoding.ofHead ⟨_, rfl⟩ rfl rfl

theorem Encoding.rep (f : RepForm) : Encoding.Statement (.rep f) :=
  Encoding.ofHead ⟨_, rfl⟩ rfl rfl

theorem Encoding.exit (g : Guard) : Encoding.Statement (.exit g) :=
  Encoding.ofHead ⟨_, rfl⟩ rfl rfl

theorem Encoding.nop : Encoding.Statement (.nop) :=
  Encoding.ofHead ⟨_, rfl⟩ rfl rfl

theorem Encoding.yield : Encoding.Statement (.yield) :=
  Encoding.ofHead ⟨_, rfl⟩ rfl rfl

theorem Encoding.nap (cycles : Word32) : Encoding.Statement (.nap cycles) :=
  Encoding.ofHead ⟨_, rfl⟩ rfl rfl

theorem Encoding.bar : Encoding.Statement (.bar) :=
  Encoding.ofHead ⟨_, rfl⟩ rfl rfl

theorem Encoding.gbar : Encoding.Statement (.gbar) :=
  Encoding.ofHead ⟨_, rfl⟩ rfl rfl

theorem Encoding.cbar (g : Guard) (n : Count) (cb : Fin 16) : Encoding.Statement (.cbar g n cb) :=
  Encoding.ofHead ⟨_, rfl⟩ rfl rfl

theorem Encoding.cbwt (g : Guard) (cb : Fin 16) : Encoding.Statement (.cbwt g cb) :=
  Encoding.ofHead ⟨_, rfl⟩ rfl rfl

theorem Encoding.cbarArm (g : Guard) (n : Count) (cb : Fin 16) : Encoding.Statement (.cbarArm g n cb) :=
  Encoding.ofHead ⟨_, rfl⟩ rfl rfl

theorem Encoding.ld (hint : Hint) (f : LoadForm) : Encoding.Statement (.ld hint f) :=
  Encoding.ofHead ⟨_, rfl⟩ rfl rfl

theorem Encoding.st (hint : Hint) (f : StoreForm) : Encoding.Statement (.st hint f) :=
  Encoding.ofHead ⟨_, rfl⟩ rfl rfl

theorem Encoding.lds (f : LoadForm) : Encoding.Statement (.lds f) :=
  Encoding.ofHead ⟨_, rfl⟩ rfl rfl

theorem Encoding.sts (f : StoreForm) : Encoding.Statement (.sts f) :=
  Encoding.ofHead ⟨_, rfl⟩ rfl rfl

theorem Encoding.pref (g : Guard) (l2 : Bool) (m : Addr) : Encoding.Statement (.pref g l2 m) :=
  Encoding.ofHead ⟨_, rfl⟩ rfl rfl

theorem Encoding.atom (f : AtomForm) : Encoding.Statement (.atom f) :=
  Encoding.ofHead ⟨_, rfl⟩ rfl rfl

theorem Encoding.red (f : AtomForm) : Encoding.Statement (.red f) :=
  Encoding.ofHead ⟨_, rfl⟩ rfl rfl

theorem Encoding.fence (g : Guard) (order : MemOrder) (scope : Scope) : Encoding.Statement (.fence g order scope) :=
  Encoding.ofHead ⟨_, rfl⟩ rfl rfl

theorem Encoding.txb (g : Guard) : Encoding.Statement (.txb g) :=
  Encoding.ofHead ⟨_, rfl⟩ rfl rfl

theorem Encoding.txe (g : Guard) (d : Fin 192) : Encoding.Statement (.txe g d) :=
  Encoding.ofHead ⟨_, rfl⟩ rfl rfl

theorem Encoding.txa (g : Guard) (code : BitVec 8) : Encoding.Statement (.txa g code) :=
  Encoding.ofHead ⟨_, rfl⟩ rfl rfl

theorem Encoding.fwait (f : FutForm) : Encoding.Statement (.fwait f) :=
  Encoding.ofHead ⟨_, rfl⟩ rfl rfl

theorem Encoding.ffill (f : FutForm) : Encoding.Statement (.ffill f) :=
  Encoding.ofHead ⟨_, rfl⟩ rfl rfl

theorem Encoding.fpeek (f : FutForm) : Encoding.Statement (.fpeek f) :=
  Encoding.ofHead ⟨_, rfl⟩ rfl rfl

theorem Encoding.freset (f : FutForm) : Encoding.Statement (.freset f) :=
  Encoding.ofHead ⟨_, rfl⟩ rfl rfl

theorem Encoding.qpush (g : Guard) (q : Fin 4) (d : Operand) : Encoding.Statement (.qpush g q d) :=
  Encoding.ofHead ⟨_, rfl⟩ rfl rfl

theorem Encoding.qlen (g : Guard) (q : Fin 4) (d : Fin 32) : Encoding.Statement (.qlen g q d) :=
  Encoding.ofHead ⟨_, rfl⟩ rfl rfl

theorem Encoding.bndmin (g : Guard) (n : Fin 4) (width : AtomWidth) (d : Operand) : Encoding.Statement (.bndmin g n width d) :=
  Encoding.ofHead ⟨_, rfl⟩ rfl rfl

theorem Encoding.bndwt (g : Guard) (n : Fin 4) (d : Fin 32) : Encoding.Statement (.bndwt g n d) :=
  Encoding.ofHead ⟨_, rfl⟩ rfl rfl

theorem Encoding.cctlWb (f : CctlForm) : Encoding.Statement (.cctlWb f) :=
  Encoding.ofHead ⟨_, rfl⟩ rfl rfl

theorem Encoding.cctlInv (f : CctlForm) : Encoding.Statement (.cctlInv f) :=
  Encoding.ofHead ⟨_, rfl⟩ rfl rfl

theorem Encoding.cctlWbinv (f : CctlForm) : Encoding.Statement (.cctlWbinv f) :=
  Encoding.ofHead ⟨_, rfl⟩ rfl rfl

theorem Encoding.icinv (g : Guard) (scope : Scope) (tok : Fin 32) : Encoding.Statement (.icinv g scope tok) :=
  Encoding.ofHead ⟨_, rfl⟩ rfl rfl

theorem Encoding.setmod (xa : Fin 32) : Encoding.Statement (.setmod xa) :=
  Encoding.ofHead ⟨_, rfl⟩ rfl rfl

theorem Encoding.setmodDefault : Encoding.Statement (.setmodDefault) :=
  Encoding.ofHead ⟨_, rfl⟩ rfl rfl

theorem Encoding.setfmt (af : Fmt) (bf : Fmt) (df : Fmt) : Encoding.Statement (.setfmt af bf df) :=
  Encoding.ofHead ⟨_, rfl⟩ rfl rfl

theorem Encoding.mzero (g : Guard) (acc : Fin 8) : Encoding.Statement (.mzero g acc) :=
  Encoding.ofHead ⟨_, rfl⟩ rfl rfl

theorem Encoding.mmac (f : MacForm) : Encoding.Statement (.mmac f) :=
  Encoding.ofHead ⟨_, rfl⟩ rfl rfl

theorem Encoding.mmact (f : MacForm) : Encoding.Statement (.mmact f) :=
  Encoding.ofHead ⟨_, rfl⟩ rfl rfl

theorem Encoding.mmacu (f : MacForm) : Encoding.Statement (.mmacu f) :=
  Encoding.ofHead ⟨_, rfl⟩ rfl rfl

theorem Encoding.mpair (partner : Fin 4) (follow : Bool) : Encoding.Statement (.mpair partner follow) :=
  Encoding.ofHead ⟨_, rfl⟩ rfl rfl

theorem Encoding.msolo : Encoding.Statement (.msolo) :=
  Encoding.ofHead ⟨_, rfl⟩ rfl rfl

theorem Encoding.mbatch (sd : Fin 32) : Encoding.Statement (.mbatch sd) :=
  Encoding.ofHead ⟨_, rfl⟩ rfl rfl

theorem Encoding.mwait (b : Fin 16) : Encoding.Statement (.mwait b) :=
  Encoding.ofHead ⟨_, rfl⟩ rfl rfl

theorem Encoding.msig (b : Fin 16) (cb : Fin 16) (n : BitVec 16) : Encoding.Statement (.msig b cb n) :=
  Encoding.ofHead ⟨_, rfl⟩ rfl rfl

theorem Encoding.mspill (g : Guard) (acc : Fin 8) (xa : Fin 32) : Encoding.Statement (.mspill g acc xa) :=
  Encoding.ofHead ⟨_, rfl⟩ rfl rfl

theorem Encoding.mfill (g : Guard) (acc : Fin 8) (xa : Fin 32) : Encoding.Statement (.mfill g acc xa) :=
  Encoding.ofHead ⟨_, rfl⟩ rfl rfl

theorem Encoding.mdrain (g : Guard) (acc : Fin 8) (xa : Fin 32) (f : DrainFmt) (ds : BitVec 8) : Encoding.Statement (.mdrain g acc xa f ds) :=
  Encoding.ofHead ⟨_, rfl⟩ rfl rfl

theorem Encoding.mdrainv (g : Guard) (acc : Fin 8) (f : DrainFmt) (row : Fin 64) (pair : Fin 96) : Encoding.Statement (.mdrainv g acc f row pair) :=
  Encoding.ofHead ⟨_, rfl⟩ rfl rfl

theorem Encoding.mdigit (g : Guard) (acc : Fin 8) (xa : Fin 32) (digit : Fin 10) : Encoding.Statement (.mdigit g acc xa digit) :=
  Encoding.ofHead ⟨_, rfl⟩ rfl rfl

theorem Encoding.mchk (g : Guard) (acc : Fin 8) (rt : Fin 8) (ct : Fin 8) (xa : Fin 32) : Encoding.Statement (.mchk g acc rt ct xa) :=
  Encoding.ofHead ⟨_, rfl⟩ rfl rfl

theorem Encoding.mstat (g : Guard) (clr : Bool) (sd : Fin 32) : Encoding.Statement (.mstat g clr sd) :=
  Encoding.ofHead ⟨_, rfl⟩ rfl rfl

theorem Encoding.slaunch (g : Guard) (d : Fin 32) (a : Fin 32) (b : Fin 32) (c : TickArg) : Encoding.Statement (.slaunch g d a b c) :=
  Encoding.ofHead ⟨_, rfl⟩ rfl rfl

theorem Encoding.sstat (g : Guard) (d : Fin 32) : Encoding.Statement (.sstat g d) :=
  Encoding.ofHead ⟨_, rfl⟩ rfl rfl

theorem Encoding.sstop (g : Guard) (d : Fin 32) : Encoding.Statement (.sstop g d) :=
  Encoding.ofHead ⟨_, rfl⟩ rfl rfl

theorem Encoding.launch (g : Guard) (a : Fin 32) (c : TickArg) : Encoding.Statement (.launch g a c) :=
  Encoding.ofHead ⟨_, rfl⟩ rfl rfl

theorem Encoding.joinw (a : Fin 32) : Encoding.Statement (.joinw a) :=
  Encoding.ofHead ⟨_, rfl⟩ rfl rfl

theorem Encoding.spawn (g : Guard) (a : Operand) (b : Fin 32) : Encoding.Statement (.spawn g a b) :=
  Encoding.ofHead ⟨_, rfl⟩ rfl rfl

theorem Encoding.take (g : Guard) (d : Fin 32) : Encoding.Statement (.take g d) :=
  Encoding.ofHead ⟨_, rfl⟩ rfl rfl

theorem Encoding.prio (n : Fin 8) : Encoding.Statement (.prio n) :=
  Encoding.ofHead ⟨_, rfl⟩ rfl rfl

theorem Encoding.recruit (g : Guard) (lim : RecruitLimit) (d : Fin 32) (a : Operand) (b : Operand) (c : Fin 32) (win : Operand) : Encoding.Statement (.recruit g lim d a b c win) :=
  Encoding.ofHead ⟨_, rfl⟩ rfl rfl

theorem Encoding.tclaim (g : Guard) (d : Fin 32) (a : Fin 32) : Encoding.Statement (.tclaim g d a) :=
  Encoding.ofHead ⟨_, rfl⟩ rfl rfl

theorem Encoding.tdoneHelper : Encoding.Statement (.tdoneHelper) :=
  Encoding.ofHead ⟨_, rfl⟩ rfl rfl

theorem Encoding.tdoneRecruiter (a : Fin 32) : Encoding.Statement (.tdoneRecruiter a) :=
  Encoding.ofHead ⟨_, rfl⟩ rfl rfl

theorem Encoding.tjoin (d : Fin 32) (a : Fin 32) : Encoding.Statement (.tjoin d a) :=
  Encoding.ofHead ⟨_, rfl⟩ rfl rfl

theorem Encoding.tfree (g : Guard) (a : Fin 32) : Encoding.Statement (.tfree g a) :=
  Encoding.ofHead ⟨_, rfl⟩ rfl rfl

theorem Encoding.coll (g : Guard) (d : Fin 32) (a : Fin 32) (c : TickArg) : Encoding.Statement (.coll g d a c) :=
  Encoding.ofHead ⟨_, rfl⟩ rfl rfl

theorem Encoding.cwait (a : Fin 32) : Encoding.Statement (.cwait a) :=
  Encoding.ofHead ⟨_, rfl⟩ rfl rfl

theorem Encoding.cstat (g : Guard) (d : Fin 32) (a : Fin 32) : Encoding.Statement (.cstat g d a) :=
  Encoding.ofHead ⟨_, rfl⟩ rfl rfl

theorem Encoding.cabort (g : Guard) (d : Fin 32) (a : Fin 32) : Encoding.Statement (.cabort g d a) :=
  Encoding.ofHead ⟨_, rfl⟩ rfl rfl

theorem Encoding.trap (g : Guard) (n : Fin 16) : Encoding.Statement (.trap g n) :=
  Encoding.ofHead ⟨_, rfl⟩ rfl rfl

theorem Encoding.brk (g : Guard) : Encoding.Statement (.brk g) :=
  Encoding.ofHead ⟨_, rfl⟩ rfl rfl

theorem Encoding.efence : Encoding.Statement (.efence) :=
  Encoding.ofHead ⟨_, rfl⟩ rfl rfl

theorem Encoding.tret : Encoding.Statement (.tret) :=
  Encoding.ofHead ⟨_, rfl⟩ rfl rfl

theorem Encoding.tmask (on : Bool) : Encoding.Statement (.tmask on) :=
  Encoding.ofHead ⟨_, rfl⟩ rfl rfl

theorem Encoding.srd (g : Guard) (d : Operand) (n : BitVec 16) : Encoding.Statement (.srd g d n) :=
  Encoding.ofHead ⟨_, rfl⟩ rfl rfl

theorem Encoding.swr (g : Guard) (a : Operand) (n : BitVec 16) : Encoding.Statement (.swr g a n) :=
  Encoding.ofHead ⟨_, rfl⟩ rfl rfl

theorem Encoding.tlbinvAll (g : Guard) (d : Fin 32) : Encoding.Statement (.tlbinvAll g d) :=
  Encoding.ofHead ⟨_, rfl⟩ rfl rfl

theorem Encoding.tlbinvAsid (g : Guard) (d : Fin 32) (b : Fin 32) : Encoding.Statement (.tlbinvAsid g d b) :=
  Encoding.ofHead ⟨_, rfl⟩ rfl rfl

theorem Encoding.tlbinvPage (g : Guard) (d : Fin 32) (a : Fin 32) (b : Fin 32) : Encoding.Statement (.tlbinvPage g d a b) :=
  Encoding.ofHead ⟨_, rfl⟩ rfl rfl

theorem Encoding.sLi (d : Fin 16) (i : BitVec 14) : Encoding.Statement (.sLi d i) :=
  Encoding.ofNone rfl

theorem Encoding.sAdd (d : Fin 16) (a : Fin 16) (b : Fin 16) : Encoding.Statement (.sAdd d a b) :=
  Encoding.ofNone rfl

theorem Encoding.sAddi (d : Fin 16) (a : Fin 16) (i : BitVec 14) : Encoding.Statement (.sAddi d a i) :=
  Encoding.ofNone rfl

theorem Encoding.sSub (d : Fin 16) (a : Fin 16) (b : Fin 16) : Encoding.Statement (.sSub d a b) :=
  Encoding.ofNone rfl

theorem Encoding.sMul (d : Fin 16) (a : Fin 16) (b : Fin 16) : Encoding.Statement (.sMul d a b) :=
  Encoding.ofNone rfl

theorem Encoding.sAnd (d : Fin 16) (a : Fin 16) (b : Fin 16) : Encoding.Statement (.sAnd d a b) :=
  Encoding.ofNone rfl

theorem Encoding.sOr (d : Fin 16) (a : Fin 16) (b : Fin 16) : Encoding.Statement (.sOr d a b) :=
  Encoding.ofNone rfl

theorem Encoding.sShl (d : Fin 16) (a : Fin 16) (b : Fin 16) : Encoding.Statement (.sShl d a b) :=
  Encoding.ofNone rfl

theorem Encoding.sShr (d : Fin 16) (a : Fin 16) (b : Fin 16) : Encoding.Statement (.sShr d a b) :=
  Encoding.ofNone rfl

theorem Encoding.sMin (d : Fin 16) (a : Fin 16) (b : Fin 16) : Encoding.Statement (.sMin d a b) :=
  Encoding.ofNone rfl

theorem Encoding.sMax (d : Fin 16) (a : Fin 16) (b : Fin 16) : Encoding.Statement (.sMax d a b) :=
  Encoding.ofNone rfl

theorem Encoding.sBeq (a : Fin 16) (b : Fin 16) (i : BitVec 14) : Encoding.Statement (.sBeq a b i) :=
  Encoding.ofNone rfl

theorem Encoding.sBne (a : Fin 16) (b : Fin 16) (i : BitVec 14) : Encoding.Statement (.sBne a b i) :=
  Encoding.ofNone rfl

theorem Encoding.sBlt (a : Fin 16) (b : Fin 16) (i : BitVec 14) : Encoding.Statement (.sBlt a b i) :=
  Encoding.ofNone rfl

theorem Encoding.sBge (a : Fin 16) (b : Fin 16) (i : BitVec 14) : Encoding.Statement (.sBge a b i) :=
  Encoding.ofNone rfl

theorem Encoding.sJmp (i : BitVec 14) : Encoding.Statement (.sJmp i) :=
  Encoding.ofNone rfl

theorem Encoding.sLoop (a : Fin 16) (n : BitVec 14) : Encoding.Statement (.sLoop a n) :=
  Encoding.ofNone rfl

theorem Encoding.sEndl : Encoding.Statement (.sEndl) :=
  Encoding.ofNone rfl

theorem Encoding.sHalt : Encoding.Statement (.sHalt) :=
  Encoding.ofNone rfl

theorem Encoding.sLdx (d : Fin 16) (a : Fin 16) (i : BitVec 14) : Encoding.Statement (.sLdx d a i) :=
  Encoding.ofNone rfl

theorem Encoding.sTdesc (d : Fin 8) (a : Fin 16) : Encoding.Statement (.sTdesc d a) :=
  Encoding.ofNone rfl

theorem Encoding.sTstep (d : Fin 8) (a : Fin 16) (k : Fin 4) : Encoding.Statement (.sTstep d a k) :=
  Encoding.ofNone rfl

theorem Encoding.sTaddr (d : Fin 16) (a : Fin 8) : Encoding.Statement (.sTaddr d a) :=
  Encoding.ofNone rfl

theorem Encoding.sMove (d : Fin 8) (a : Fin 8) (b : Fin 16) : Encoding.Statement (.sMove d a b) :=
  Encoding.ofNone rfl

theorem Encoding.sGather (d : Fin 8) (a : Fin 8) (b : Fin 16) : Encoding.Statement (.sGather d a b) :=
  Encoding.ofNone rfl

theorem Encoding.sConv (d : Fin 8) (a : Fin 8) (src : Fmt) (dst : Fmt) : Encoding.Statement (.sConv d a src dst) :=
  Encoding.ofNone rfl

theorem Encoding.sDeco (d : Fin 8) (a : Fin 16) : Encoding.Statement (.sDeco d a) :=
  Encoding.ofNone rfl

theorem Encoding.sTopk (d : Fin 8) (a : Fin 8) (b : Fin 16) (k : BitVec 14) : Encoding.Statement (.sTopk d a b k) :=
  Encoding.ofNone rfl

theorem Encoding.sArrive (a : Fin 16) (cb : Fin 16) : Encoding.Statement (.sArrive a cb) :=
  Encoding.ofNone rfl

theorem Encoding.sWaitb (cb : Fin 16) : Encoding.Statement (.sWaitb cb) :=
  Encoding.ofNone rfl

theorem Encoding.sSignal (a : Fin 16) : Encoding.Statement (.sSignal a) :=
  Encoding.ofNone rfl

theorem Encoding.sTickw (a : Fin 16) : Encoding.Statement (.sTickw a) :=
  Encoding.ofNone rfl

theorem Encoding.clauseIssue (core : Nat) (quarter : Nat) : Encoding.Statement (.clauseIssue core quarter) :=
  Encoding.ofNone rfl

theorem Encoding.loadDataReturn (wave : Nat) (op : Nat) (data : LoadReturn) : Encoding.Statement (.loadDataReturn wave op data) :=
  Encoding.ofNone rfl

theorem Encoding.guardResolve (q : QueueRef) : Encoding.Statement (.guardResolve q) :=
  Encoding.ofNone rfl

theorem Encoding.startTickReached (q : QueueRef) : Encoding.Statement (.startTickReached q) :=
  Encoding.ofNone rfl

theorem Encoding.engineLockStallResume (e : EngineRef) : Encoding.Statement (.engineLockStallResume e) :=
  Encoding.ofNone rfl

theorem Encoding.napExpire (wave : Nat) (split : Nat) : Encoding.Statement (.napExpire wave split) :=
  Encoding.ofNone rfl

theorem Encoding.spinMarkTimeout (group : Nat) : Encoding.Statement (.spinMarkTimeout group) :=
  Encoding.ofNone rfl

theorem Encoding.bndminApply (cluster : Nat) : Encoding.Statement (.bndminApply cluster) :=
  Encoding.ofNone rfl

theorem Encoding.homeSliceAtomic (wave : Nat) (op : Nat) (lane : Nat) : Encoding.Statement (.homeSliceAtomic wave op lane) :=
  Encoding.ofNone rfl

theorem Encoding.futuresRequest (wave : Nat) (op : Nat) (lane : Nat) : Encoding.Statement (.futuresRequest wave op lane) :=
  Encoding.ofNone rfl

theorem Encoding.bankFillDone (core : Nat) (bank : Nat) : Encoding.Statement (.bankFillDone core bank) :=
  Encoding.ofNone rfl

theorem Encoding.matrixEntryStart (core : Nat) : Encoding.Statement (.matrixEntryStart core) :=
  Encoding.ofNone rfl

theorem Encoding.matrixEntryComplete (group : Nat) (op : Nat) : Encoding.Statement (.matrixEntryComplete group op) :=
  Encoding.ofNone rfl

theorem Encoding.setmodTakeEffect (group : Nat) : Encoding.Statement (.setmodTakeEffect group) :=
  Encoding.ofNone rfl

theorem Encoding.batchRetire (group : Nat) : Encoding.Statement (.batchRetire group) :=
  Encoding.ofNone rfl

theorem Encoding.sluiceProgramStart (core : Nat) : Encoding.Statement (.sluiceProgramStart core) :=
  Encoding.ofNone rfl

theorem Encoding.sluiceImageLoaded (core : Nat) : Encoding.Statement (.sluiceImageLoaded core) :=
  Encoding.ofNone rfl

theorem Encoding.sluiceStopEffect (core : Nat) : Encoding.Statement (.sluiceStopEffect core) :=
  Encoding.ofNone rfl

theorem Encoding.decoBlockSelect (cluster : Nat) : Encoding.Statement (.decoBlockSelect cluster) :=
  Encoding.ofNone rfl

theorem Encoding.decoBlockComplete (cluster : Nat) : Encoding.Statement (.decoBlockComplete cluster) :=
  Encoding.ofNone rfl

theorem Encoding.amloadStart (value : Word64) : Encoding.Statement (.amloadStart value) :=
  Encoding.ofNone rfl

theorem Encoding.rcarm (value : Word64) : Encoding.Statement (.rcarm value) :=
  Encoding.ofNone rfl

theorem Encoding.hqNop (tower : Nat) : Encoding.Statement (.hqNop tower) :=
  Encoding.ofNone rfl

theorem Encoding.hqSubmit (tower : Nat) : Encoding.Statement (.hqSubmit tower) :=
  Encoding.ofNone rfl

theorem Encoding.hqDecr (tower : Nat) : Encoding.Statement (.hqDecr tower) :=
  Encoding.ofNone rfl

theorem Encoding.hqFence (tower : Nat) : Encoding.Statement (.hqFence tower) :=
  Encoding.ofNone rfl

theorem Encoding.frontEndIdle (tower : Nat) : Encoding.Statement (.frontEndIdle tower) :=
  Encoding.ofNone rfl

theorem Encoding.dbell (mask : Word64) : Encoding.Statement (.dbell mask) :=
  Encoding.ofNone rfl

theorem Encoding.launchAccept (core : Nat) : Encoding.Statement (.launchAccept core) :=
  Encoding.ofNone rfl

theorem Encoding.gangPlace (node : Nat) (place : Placement) : Encoding.Statement (.gangPlace node place) :=
  Encoding.ofNone rfl

theorem Encoding.transformRun (node : Nat) : Encoding.Statement (.transformRun node) :=
  Encoding.ofNone rfl

theorem Encoding.sluiceNodeStart (node : Nat) (core : Nat) : Encoding.Statement (.sluiceNodeStart node core) :=
  Encoding.ofNone rfl

theorem Encoding.nodeComplete (node : Nat) : Encoding.Statement (.nodeComplete node) :=
  Encoding.ofNone rfl

theorem Encoding.waveEvict (wave : Nat) : Encoding.Statement (.waveEvict wave) :=
  Encoding.ofNone rfl

theorem Encoding.waveRestore (wave : Nat) (slot : Nat) (damaged : Option Nat) : Encoding.Statement (.waveRestore wave slot damaged) :=
  Encoding.ofNone rfl

theorem Encoding.gangSuspend (ask : SuspendAsk) : Encoding.Statement (.gangSuspend ask) :=
  Encoding.ofNone rfl

theorem Encoding.gangResume (gang : Nat) (place : Placement) (damaged : Option Nat) : Encoding.Statement (.gangResume gang place damaged) :=
  Encoding.ofNone rfl

theorem Encoding.joinCounterZero (pa : Nat) : Encoding.Statement (.joinCounterZero pa) :=
  Encoding.ofNone rfl

theorem Encoding.joinResume (wave : Nat) (core : Nat) (back : JoinReturn) : Encoding.Statement (.joinResume wave core back) :=
  Encoding.ofNone rfl

theorem Encoding.chunkCommit (wave : Nat) (lane : Nat) : Encoding.Statement (.chunkCommit wave lane) :=
  Encoding.ofNone rfl

theorem Encoding.helperRelease (wave : Nat) : Encoding.Statement (.helperRelease wave) :=
  Encoding.ofNone rfl

theorem Encoding.preemptOverdue (wave : Nat) : Encoding.Statement (.preemptOverdue wave) :=
  Encoding.ofNone rfl

theorem Encoding.pageWalk (core : Nat) (asid : Nat) (va : VAddr) (uncorrectable : Option Nat) : Encoding.Statement (.pageWalk core asid va uncorrectable) :=
  Encoding.ofNone rfl

theorem Encoding.collDequeue (core : Nat) : Encoding.Statement (.collDequeue core) :=
  Encoding.ofNone rfl

theorem Encoding.flumeHeaderExchange (comm : Nat) (headers : List (Nat × CollHeader)) : Encoding.Statement (.flumeHeaderExchange comm headers) :=
  Encoding.ofNone rfl

theorem Encoding.flumeChunkGrant (tower : Nat) : Encoding.Statement (.flumeChunkGrant tower) :=
  Encoding.ofNone rfl

theorem Encoding.flumeChunkDone (tower : Nat) (slotB : Bool) : Encoding.Statement (.flumeChunkDone tower slotB) :=
  Encoding.ofNone rfl

theorem Encoding.flumeChunkReceive (comm : Nat) (rank : Nat) (off : Nat) (data : List Byte) (crcOk : Bool) : Encoding.Statement (.flumeChunkReceive comm rank off data crcOk) :=
  Encoding.ofNone rfl

theorem Encoding.flumeReceiveDrain (comm : Nat) : Encoding.Statement (.flumeReceiveDrain comm) :=
  Encoding.ofNone rfl

theorem Encoding.flumeCreditGrant (comm : Nat) (rank : Nat) : Encoding.Statement (.flumeCreditGrant comm rank) :=
  Encoding.ofNone rfl

theorem Encoding.flumeAbortMessage (comm : Nat) (rank : Nat) : Encoding.Statement (.flumeAbortMessage comm rank) :=
  Encoding.ofNone rfl

theorem Encoding.flumePeerTimeout (comm : Nat) : Encoding.Statement (.flumePeerTimeout comm) :=
  Encoding.ofNone rfl

theorem Encoding.remoteAccessRequest (req : RemoteReq) : Encoding.Statement (.remoteAccessRequest req) :=
  Encoding.ofNone rfl

theorem Encoding.remoteAccessTimeout (wave : Nat) (op : Nat) : Encoding.Statement (.remoteAccessTimeout wave op) :=
  Encoding.ofNone rfl

theorem Encoding.portFail (port : Fin 12) : Encoding.Statement (.portFail port) :=
  Encoding.ofNone rfl

theorem Encoding.portctl (value : Word64) : Encoding.Statement (.portctl value) :=
  Encoding.ofNone rfl

theorem Encoding.portTrainDone (port : Fin 12) (up : Bool) (lanes : Nat) : Encoding.Statement (.portTrainDone port up lanes) :=
  Encoding.ofNone rfl

theorem Encoding.evtail (value : Word64) : Encoding.Statement (.evtail value) :=
  Encoding.ofNone rfl

theorem Encoding.diedrop (tower : Fin 4) (value : Word64) : Encoding.Statement (.diedrop tower value) :=
  Encoding.ofNone rfl

theorem Encoding.dieDropComplete (tower : Fin 4) (unreadable : List (Nat × Nat × Nat)) : Encoding.Statement (.dieDropComplete tower unreadable) :=
  Encoding.ofNone rfl

theorem Encoding.towerDrop (tower : Fin 4) : Encoding.Statement (.towerDrop tower) :=
  Encoding.ofNone rfl

theorem Encoding.towerForceDrop (tower : Fin 4) : Encoding.Statement (.towerForceDrop tower) :=
  Encoding.ofNone rfl

theorem Encoding.noplace (tower : Fin 4) (value : Bool) : Encoding.Statement (.noplace tower value) :=
  Encoding.ofNone rfl

theorem Encoding.homeSweepStep (slice : Nat) : Encoding.Statement (.homeSweepStep slice) :=
  Encoding.ofNone rfl

theorem Encoding.tickset (value : Word64) : Encoding.Statement (.tickset value) :=
  Encoding.ofNone rfl

theorem Encoding.thermalWarn (celsius : BitVec 8) : Encoding.Statement (.thermalWarn celsius) :=
  Encoding.ofNone rfl

theorem Encoding.thermalFreeze (celsius : BitVec 8) : Encoding.Statement (.thermalFreeze celsius) :=
  Encoding.ofNone rfl

theorem Encoding.pwrcap (value : Word64) : Encoding.Statement (.pwrcap value) :=
  Encoding.ofNone rfl

theorem Encoding.attctl (value : Word64) : Encoding.Statement (.attctl value) :=
  Encoding.ofNone rfl

theorem Encoding.wayen (tower : Fin 4) (value : Word64) : Encoding.Statement (.wayen tower value) :=
  Encoding.ofNone rfl

theorem Encoding.wayGateDone (tower : Fin 4) (way : Fin 16) : Encoding.Statement (.wayGateDone tower way) :=
  Encoding.ofNone rfl

theorem Encoding.bankgate (core : Nat) (value : Word64) : Encoding.Statement (.bankgate core value) :=
  Encoding.ofNone rfl

theorem Encoding.bankGated (core : Nat) (bank : Fin 8) : Encoding.Statement (.bankGated core bank) :=
  Encoding.ofNone rfl

theorem Encoding.hostMemoryAccess (a : HostAccess) : Encoding.Statement (.hostMemoryAccess a) :=
  Encoding.ofNone rfl

theorem Encoding.registerWrite (unit : Nat) (reg : Nat) (value : Word64) : Encoding.Statement (.registerWrite unit reg value) :=
  Encoding.ofNone rfl

theorem Encoding.tickwExpire (core : Nat) : Encoding.Statement (.tickwExpire core) :=
  Encoding.ofNone rfl

theorem Encoding.illegalSluiceInstruction (core : Nat) : Encoding.Statement (.illegalSluiceInstruction core) :=
  Encoding.ofNone rfl

theorem Encoding.cctlComplete (wave : Nat) (op : Nat) : Encoding.Statement (.cctlComplete wave op) :=
  Encoding.ofNone rfl

theorem Encoding.icinvComplete (wave : Nat) (op : Nat) : Encoding.Statement (.icinvComplete wave op) :=
  Encoding.ofNone rfl

theorem Encoding.tlbinvComplete (wave : Nat) (op : Nat) : Encoding.Statement (.tlbinvComplete wave op) :=
  Encoding.ofNone rfl

theorem Encoding.storePerformed (wave : Nat) (op : Nat) : Encoding.Statement (.storePerformed wave op) :=
  Encoding.ofNone rfl

theorem Encoding.dirtyLineWriteBack (cluster : Nat) : Encoding.Statement (.dirtyLineWriteBack cluster) :=
  Encoding.ofNone rfl

theorem Encoding.translationRemovedForCapacity (core : Nat) (shared : Bool) (idx : Nat) : Encoding.Statement (.translationRemovedForCapacity core shared idx) :=
  Encoding.ofNone rfl

theorem Encoding.softError (t : SoftTarget) : Encoding.Statement (.softError t) :=
  Encoding.ofNone rfl

theorem Encoding.sluiceTransferComplete (core : Nat) : Encoding.Statement (.sluiceTransferComplete core) :=
  Encoding.ofNone rfl

theorem Encoding.remoteWriteAcknowledged (wave : Nat) (op : Nat) : Encoding.Statement (.remoteWriteAcknowledged wave op) :=
  Encoding.ofNone rfl

theorem Encoding.flumeAbortAcknowledged (comm : Nat) (rank : Nat) : Encoding.Statement (.flumeAbortAcknowledged comm rank) :=
  Encoding.ofNone rfl

theorem Encoding.flumeResendRequest (comm : Nat) (rank : Nat) (off : Nat) : Encoding.Statement (.flumeResendRequest comm rank off) :=
  Encoding.ofNone rfl

theorem Encoding.flumeRankDstWritten (comm : Nat) (rank : Nat) : Encoding.Statement (.flumeRankDstWritten comm rank) :=
  Encoding.ofNone rfl

theorem Encoding.thermalWarnEnd (celsius : BitVec 8) : Encoding.Statement (.thermalWarnEnd celsius) :=
  Encoding.ofNone rfl

theorem Encoding.gridEndedBySystemSoftware (node : Nat) : Encoding.Statement (.gridEndedBySystemSoftware node) :=
  Encoding.ofNone rfl

theorem Encoding.amloadComplete : Encoding.Statement (.amloadComplete) :=
  Encoding.ofNone rfl

theorem Encoding.freezePin : Encoding.Statement (.freezePin) :=
  Encoding.ofNone rfl

theorem Encoding.freezeWrite : Encoding.Statement (.freezeWrite) :=
  Encoding.ofNone rfl

theorem Encoding.freezeEnd : Encoding.Statement (.freezeEnd) :=
  Encoding.ofNone rfl

theorem Encoding.scanRead : Encoding.Statement (.scanRead) :=
  Encoding.ofNone rfl

theorem Encoding.attestationSigned : Encoding.Statement (.attestationSigned) :=
  Encoding.ofNone rfl

theorem Encoding.deviceReset : Encoding.Statement (.deviceReset) :=
  Encoding.ofNone rfl

theorem Encoding.freezePinRelease : Encoding.Statement (.freezePinRelease) :=
  Encoding.ofNone rfl

end Sys2Proof.Laws
end

