-- ==== Sys2Proof/Laws/Reads.lean ====
section
/-! SUPPORT. What an engine's read of memory leaves alone: it touches TLBs, L1 lines, poison records and the host's events, and
nothing a program, a queue or a register holds. -/

namespace Sys2Proof.Machine

/-- Every part of the state that a read of memory never touches is as before. -/
def OnlyReads (s t : State) : Prop :=
  t.waves = s.waves ∧ t.groups = s.groups ∧ t.gangs = s.gangs ∧ t.nodes = s.nodes ∧ t.comms = s.comms ∧ t.mem = s.mem ∧
    t.cur = s.cur ∧ t.agenda = s.agenda ∧
    (∀ k, ∃ tlb, t.cluster k = { s.cluster k with tlb := tlb }) ∧
    ∀ k, ∃ tlb ic l1, t.core k = { s.core k with tlb := tlb, icache := ic, l1 := l1 }

theorem OnlyReads.refl (s : State) : OnlyReads s s :=
  ⟨rfl, rfl, rfl, rfl, rfl, rfl, rfl, rfl, fun _ => ⟨_, rfl⟩, fun _ => ⟨_, _, _, rfl⟩⟩

theorem OnlyReads.trans {s t u : State} (h : OnlyReads s t) (g : OnlyReads t u) : OnlyReads s u := by
  obtain ⟨h1, h2, h3, h4, h5, h6, h7, h8, hk, h9⟩ := h
  obtain ⟨g1, g2, g3, g4, g5, g6, g7, g8, gk, g9⟩ := g
  refine ⟨g1.trans h1, g2.trans h2, g3.trans h3, g4.trans h4, g5.trans h5, g6.trans h6, g7.trans h7, g8.trans h8,
    fun k => ?_, fun k => ?_⟩
  · obtain ⟨a, h⟩ := hk k
    obtain ⟨a', g⟩ := gk k
    exact ⟨a', by rw [g, h]⟩
  · obtain ⟨a, b, c, h⟩ := h9 k
    obtain ⟨a', b', c', g⟩ := g9 k
    exact ⟨a', b', c', by rw [g, h]⟩

theorem Quiet.onlyReads {s t : State} (h : Quiet s t) : OnlyReads s t := by
  obtain ⟨h1, h2, h3, h4, h5, h6, h7, h8, hk, h9⟩ := h
  refine ⟨h1, h2, h3, h4, h5, h6, h7, h8, hk, fun k => ?_⟩
  obtain ⟨a, b, h⟩ := h9 k
  exact ⟨a, b, (s.core k).l1, by rw [h]⟩

theorem OnlyReads.setL1 (s : State) (c : Nat) (l : List L1Line) : OnlyReads s (s.setL1 c l) := by
  refine ⟨rfl, rfl, rfl, rfl, rfl, rfl, rfl, rfl, fun _ => ⟨_, rfl⟩, fun k => ?_⟩
  unfold State.setL1
  by_cases e : k = c
  · subst e; rw [State.core_modCore]; exact ⟨_, _, _, rfl⟩
  · rw [State.core_modCore_other _ _ e]; exact ⟨_, _, _, rfl⟩

theorem OnlyReads.takeLine (s : State) (c ln : Nat) : OnlyReads s (takeLine s c ln) := by
  unfold Machine.takeLine
  split
  · split
    · exact .trans (.setL1 _ _ _) (.setL1 _ _ _)
    · exact .refl _
  · exact .refl _

theorem OnlyReads.choose (s : State) : OnlyReads s s.choose.2 :=
  ⟨rfl, rfl, rfl, rfl, rfl, rfl, rfl, rfl, fun _ => ⟨_, rfl⟩, fun _ => ⟨_, _, _, rfl⟩⟩

theorem OnlyReads.loadLine (s : State) (c ln : Nat) (mark : Option Nat) : OnlyReads s (loadLine s c ln mark).1 := by
  unfold Machine.loadLine
  simp only
  refine .trans (.takeLine s c ln) ?_
  split
  · split
    · exact .setL1 _ _ _
    · exact .trans (.choose _) (.setL1 _ _ _)
  · split
    · exact .refl _
    · split
      · exact .setL1 _ _ _
      · exact .refl _

theorem OnlyReads.physRead (s : State) (c : Nat) (p : Phys) (n : Nat) (mark : Option Nat) :
    OnlyReads s (physRead s c p n mark).1 := by
  unfold Machine.physRead
  split
  · exact .refl _
  · split
    · exact .refl _
    · split
      · exact .refl _
      · exact .loadLine s c _ mark

theorem OnlyReads.virtRead (s : State) (c asid va n : Nat) : OnlyReads s (virtRead s c asid va n).1 := by
  unfold Machine.virtRead
  split
  · exact .refl _
  · have h := (Quiet.translate s c asid va .read).onlyReads
    generalize Machine.translate s c asid va .read = r at h
    obtain ⟨s', e⟩ := r
    cases e with
    | error b => exact h
    | ok p => exact h.trans (.physRead _ _ _ _ _)

/-- Reading a virtual range as an engine of the core does. -/
theorem OnlyReads.engineRead (s : State) (c asid a n : Nat) : OnlyReads s (engineRead s c asid a n).1 := by
  unfold Machine.engineRead
  generalize linePieces a n = ls
  suffices h : ∀ (ls : List (Nat × Nat)) (r : State × Except (Bad × Nat) (List Byte)), OnlyReads s r.1 →
      OnlyReads s (ls.foldl (fun r x => match r with
        | (s, .error e) => (s, .error e)
        | (s, .ok bs) => match Machine.virtRead s c asid x.1 x.2 with
          | (s, .error b) => (s, .error (b, x.1))
          | (s, .ok more) => (s, .ok (bs ++ more))) r).1 from h ls (s, .ok []) (.refl _)
  intro ls
  induction ls with
  | nil => exact fun r h => h
  | cons x xs ih =>
    intro r h
    refine ih _ ?_
    obtain ⟨u, e⟩ := r
    cases e with
    | error b => exact h
    | ok bs =>
      simp only
      have g := OnlyReads.virtRead u c asid x.1 x.2
      generalize Machine.virtRead u c asid x.1 x.2 = q at g
      obtain ⟨v, e⟩ := q
      cases e <;> exact h.trans g

/-- The sluice program, the queues and every other part of a core that no read touches. -/
theorem OnlyReads.sluice {s t : State} (h : OnlyReads s t) (c : Nat) : (t.core c).sluice = (s.core c).sluice := by
  obtain ⟨a, b, d, e⟩ := h.2.2.2.2.2.2.2.2.2 c
  rw [e]

end Sys2Proof.Machine
end

