-- ==== Sys2Proof/Tests/Slice0.lean ====
section
/-! SUPPORT. Small tests: a refused ill-formed term for each check of WellFormed, words written out from the spec's formats, one
step on a small state, and for every statement a state and operands that meet its hypotheses. Expected results are the spec's. -/

namespace Sys2Proof.Tests

open Sys2Proof.Machine

/-! ### Small states -/

/-- The guard that is always true. -/
def always : Guard := ⟨7, false⟩

/-- A wave of 192 registers in slot 0 of core 0 issues this word: of its clause at address 0 it is the only one. -/
def issuing (w : Nat) : State := State.reset.withFetchWord 64 w

/-- The same for NOP (major 0x3E, SUB 1, PRED 7). -/
def s0 : State := issuing 0x3EE1000000000000

/-- The context of s0. -/
def c0 : Ctx :=
  { wid := 0, w := s0.waveD 0, core := 0, slot := 0
    iss := { split := 0, hdr := 0, mask := allLanes, park := false, words := [{ word := 0x3EE1000000000000, hdr := 0, idx := 0 }]
             next := 16 }
    iw := { word := 0x3EE1000000000000, hdr := 0, idx := 0 }, mask := allLanes, helper := false }

/-- s0 with its wave, its group and core 0 changed. -/
def sw (f : Wave → Wave) : State := s0.modWave 0 f
def sg (f : Group → Group) : State := s0.modGroup 0 f
def sc (f : Core → Core) : State := s0.modCore 0 f

/-- A program of two words runs on the sluice of core 0. -/
def p0 : SluiceProg := { cmd := { id := 0, wave := none, args := [] }, loaded := true, words := [0x48000000, 0x44000000] }
def sp (p : SluiceProg) : State := State.reset.withProg p

theorem test_ctx : s0.ctx? = some c0 := rfl

/-! ### Ill-formed terms are refused -/

theorem test_wf_guard : (Instr.iadd ⟨⟨7, true⟩, .s32, .v 1, .v 2, .reg (.v 3)⟩).wf = false := by decide
theorem test_wf_pair : (Instr.iadd ⟨always, .s64, .v 1, .v 2, .reg (.v 4)⟩).wf = false := by decide
theorem test_wf_dest : (Instr.iadd ⟨always, .s32, .laneid, .v 2, .reg (.v 3)⟩).wf = false := by decide
theorem test_wf_range : (Instr.ld .none ⟨always, .v 190, ⟨.s 2, .zero, 0⟩, .b128, .relaxed, .wave⟩).wf = false := by decide
theorem test_wf_queues : (Instr.iadd ⟨always, .s32, .v 1, .q 0, .reg (.q 1)⟩).wf = false := by decide
theorem test_wf_queue64 : (Instr.iadd ⟨always, .s64, .v 2, .q 0, .reg (.v 4)⟩).wf = false := by decide
theorem test_wf_unit : (Instr.iadd ⟨always, .s32, .s 1, .v 2, .reg (.v 3)⟩).wf = false := by decide
theorem test_wf_immTy : (Instr.iadd ⟨always, .z32, .v 1, .v 2, .imm 5⟩).wf = false := by decide
theorem test_wf_fimm : (Instr.fadd ⟨always, .f32, .rtz, .v 1, .v 2, .imm 5⟩).wf = false := by decide
theorem test_wf_word : (Instr.permb ⟨always, .s64, .v 2, .v 4, .reg (.v 6)⟩).wf = false := by decide
theorem test_wf_iabs : (Instr.iabs ⟨always, .z32, .v 1, .v 2⟩).wf = false := by decide
theorem test_wf_single : (Instr.bfx ⟨always, .s16x2, .v 1, .v 2, .v 3, .v 4⟩).wf = false := by decide
theorem test_wf_modulus : (Instr.modmul ⟨always, .s64, .v 2, .v 4, .v 6, .v 8⟩).wf = false := by decide
theorem test_wf_p7 : (Instr.icmp .eq always .s32 7 (.v 1) (.reg (.v 2))).wf = false := by decide
theorem test_wf_fcmp : (Instr.fcmp .eq always .f16x2 .dyn 1 (.v 1) (.reg (.v 2))).wf = false := by decide
theorem test_wf_fcmpImm : (Instr.fcmp .eq always .f32 .rne 1 (.v 1) (.imm 2)).wf = false := by decide
theorem test_wf_sel : (Instr.sel always .s8x4 (.v 1) (.v 2) (.v 3) 0 false).wf = false := by decide
theorem test_wf_mov : (Instr.mov always .s64 (.v 2) (.imm 3)).wf = false := by decide
theorem test_wf_fdot2 : (Instr.fdot2 ⟨always, .f32, .dyn, .v 1, .v 2, .v 3, .v 4⟩).wf = false := by decide
theorem test_wf_cvt : (Instr.cvt ⟨always, .dyn, .v 1, .v 2, .bs16, .f32⟩).wf = false := by decide
theorem test_wf_give : (Instr.give always 0).wf = false ∧ (Instr.give always 24).wf = false := by decide
theorem test_wf_claim : (Instr.claim always 7 1).wf = false := by decide
theorem test_wf_vote : (Instr.vote always .count (.v 1) 0 0 false).wf = false := by decide
theorem test_wf_shfl : (Instr.shfl .from ⟨always, .w32s, .v 1, .v 2, .v 3, .v 4⟩).wf = false := by decide
theorem test_wf_rdlane : (Instr.rdlane always .w32s (.s 1) (.v 2) (.v 3)).wf = false := by decide
theorem test_wf_reduce : (Instr.reduce always .xor .f32 (.s 1) (.v 2)).wf = false := by decide
theorem test_wf_scan : (Instr.scan always .add false .s32 (.s 1) (.v 2)).wf = false := by decide
theorem test_wf_qxch : (Instr.qxch always .h .w32s (.v 1) (.s 2)).wf = false := by decide
theorem test_wf_plop : (Instr.plop always .not 1 2 3).wf = false := by decide
theorem test_wf_bany : (Instr.bany always 1).wf = false := by decide
theorem test_wf_bdiv : (Instr.bdiv always 1 2).wf = false := by decide
theorem test_wf_jtb : (Instr.jtb (.q 0) 1 2).wf = false := by decide
theorem test_wf_rep : (Instr.rep ⟨some 1, 3, 0, 0, 0, 0⟩).wf = false := by decide
theorem test_wf_nap : (Instr.nap 0).wf = false := by decide
theorem test_wf_cbar : (Instr.cbar always (.imm 0) 1).wf = false := by decide
theorem test_wf_ldOrder : (Instr.ld .none ⟨always, .v 1, ⟨.s 2, .zero, 0⟩, .b32, .release, .wave⟩).wf = false := by decide
theorem test_wf_ldScalar : (Instr.ld .none ⟨always, .s 1, ⟨.v 2, .zero, 0⟩, .b64, .relaxed, .wave⟩).wf = false := by decide
theorem test_wf_addr : (Instr.ld .none ⟨always, .v 1, ⟨.zero, .zero, 0⟩, .b32, .relaxed, .wave⟩).wf = false := by decide
theorem test_wf_lds : (Instr.lds ⟨always, .v 1, ⟨.s 2, .zero, 0⟩, .b32, .relaxed, .device⟩).wf = false := by decide
theorem test_wf_st : (Instr.st .none ⟨always, .v 1, ⟨.s 2, .zero, 0⟩, .w32, .acquire, .wave⟩).wf = false := by decide
theorem test_wf_sts : (Instr.sts ⟨always, .s 1, ⟨.s 2, .zero, 0⟩, .w128, .relaxed, .wave⟩).wf = false := by decide
theorem test_wf_pref : (Instr.pref always false ⟨.zero, .zero, 0⟩).wf = false := by decide
theorem test_wf_atom : (Instr.atom ⟨always, .add, .s 1, ⟨.v 2, .zero, 0⟩, .b32, .relaxed, .wave⟩).wf = false := by decide
theorem test_wf_red : (Instr.red ⟨always, .cas, .v 2, ⟨.s 2, .zero, 0⟩, .b32, .relaxed, .wave⟩).wf = false := by decide
theorem test_wf_fence : (Instr.fence always .relaxed .device).wf = false := by decide
theorem test_wf_fwait : (Instr.fwait ⟨always, .v 2, ⟨.s 2, .zero, 0⟩, .release, .device⟩).wf = false := by decide
theorem test_wf_ffill : (Instr.ffill ⟨always, .v 2, ⟨.s 2, .zero, 0⟩, .acquire, .device⟩).wf = false := by decide
theorem test_wf_freset : (Instr.freset ⟨always, .v 2, ⟨.s 2, .zero, 0⟩, .relaxed, .device⟩).wf = false := by decide
theorem test_wf_qpush : (Instr.qpush always 0 .zero).wf = false := by decide
theorem test_wf_bndmin : (Instr.bndmin always 0 .b32 .laneid).wf = false := by decide
theorem test_wf_setfmt : (Instr.setfmt .ternary .i8 .i32).wf = false ∧ (Instr.setfmt .i8 .i8 .ternary).wf = false := by decide
theorem test_wf_mmact : (Instr.mmact ⟨always, 0, 1, 2, 0, 0, 0, 0, .full, false, false⟩).wf = false := by decide
theorem test_wf_mmac : (Instr.mmac ⟨always, 0, 1, 2, 3, 0, 0, 0, .full, false, false⟩).wf = false := by decide
theorem test_wf_mmacu : (Instr.mmacu ⟨always, 0, 1, 2, 3, 0, 0, 0, .full, true, false⟩).wf = false := by decide
theorem test_wf_msig : (Instr.msig 0 0 0).wf = false := by decide
theorem test_wf_mdrainv : (Instr.mdrainv always 0 ⟨0, .rne, false, .i64⟩ 0 0).wf = false := by decide
theorem test_wf_mchk : (Instr.mchk always 1 1 2 0).wf = false := by decide
theorem test_wf_slaunch : (Instr.slaunch always 0 1 29 none).wf = false := by decide
theorem test_wf_launch : (Instr.launch always 0 none).wf = false := by decide
theorem test_wf_take : (Instr.take ⟨0, false⟩ 25).wf = false := by decide
theorem test_wf_spawn : (Instr.spawn always .zero 1).wf = false := by decide
theorem test_wf_recruit : (Instr.recruit always .wave 0 .laneid (.s 1) 2 (.s 0)).wf = false := by decide
theorem test_wf_srd : (Instr.srd always .zero 0x14).wf = false := by decide
theorem test_wf_swr : (Instr.swr always .laneid 0x10).wf = false := by decide

/-! ### Words written out from the spec's formats (R60, R62, R71 to R74, R76, R77) -/

theorem test_word_imad : decodeTableWord 64 0x06E0030102040400 = some (.imad ⟨always, .z32, .v 3, .v 1, .v 2, .v 4⟩) := by decide
theorem test_word_icmp : decodeTableWord 64 0x16E20101C5000000 = some (.icmp .lt always .s32 1 (.v 1) (.reg (.s 5))) := by decide
theorem test_word_fadd : decodeTableWord 64 0x1DE0030102004000 = some (.fadd ⟨always, .f32, .rtz, .v 3, .v 1, .reg (.v 2)⟩) := by decide
theorem test_word_cvt : decodeTableWord 64 0x23E0030100000146 = some (.cvt ⟨always, .dyn, .v 3, .v 1, .f32, .i32⟩) := by decide
theorem test_word_shfl : decodeTableWord 64 0x31E10501C2060000 = some (.shfl .back ⟨always, .w32s, .v 5, .v 1, .s 2, .v 6⟩) := by decide
theorem test_word_bdiv : decodeTableWord 64 0x39200000004FFFFE = some (.bdiv ⟨1, false⟩ 4 0xFFFFE) := by decide
theorem test_word_exit : decodeTableWord 64 0x3EE0000000000000 = some (.exit always) := by decide
theorem test_word_cbar : decodeTableWord 64 0x3FE200F000080003 = some (.cbar always (.imm 8) 3) := by decide
theorem test_word_atom : decodeTableWord 64 0x44E004C2F07A0008 = some (.atom ⟨always, .add, .v 4, ⟨.s 2, .zero, 8⟩, .b32, .acqRel, .device⟩) := by decide
theorem test_word_qpush : decodeTableWord 64 0x49E004F9F0000000 = some (.qpush always 1 (.v 4)) := by decide
theorem test_word_setmod : decodeTableWord 64 0x50E0030000000000 = some (.setmod 3) := by decide
theorem test_word_mdrain : decodeTableWord 64 0x5AE02500000269FF = some (.mdrain always 1 5 ⟨0xFF, .rne, true, .i32⟩ 1) := by decide
theorem test_word_slaunch : decodeTableWord 64 0x60E0C0C1C4F00000 = some (.slaunch always 0 1 4 none) := by decide
theorem test_word_recruit : decodeTableWord 64 0x65E0C0C1C2C308D0 = some (.recruit always .cluster 0 (.s 1) (.s 2) 3 (.s 16)) := by decide
theorem test_word_coll : decodeTableWord 64 0x67E0C5C60000C700 = none ∧
    decodeTableWord 64 0x67E0C5C600C70000 = some (.coll always 5 6 (some 7)) := by decide
theorem test_word_tret : decodeTableWord 64 0x6AE0000000000000 = some .tret := by decide
theorem test_word_tlbinv : decodeTableWord 64 0x6EE2C0C1C2000000 = some (.tlbinvPage always 0 1 2) := by decide
theorem test_word_li : decodeTableWord 32 0x00403FFF = some (.sLi 1 0x3FFF) := by decide
theorem test_word_halt : decodeTableWord 32 0x48000000 = some .sHalt := by decide
theorem test_word_topk : decodeTableWord 32 0x6C448010 = some (.sTopk 1 1 2 16) := by decide

/-- R75, R78: majors and codes that name no instruction, a set reserved bit, a set unused field, PRED 7 with PNEG 1. -/
theorem test_word_none : decodeTableWord 64 0x26E0000000000000 = none ∧ decodeTableWord 64 0x7FE0000000000000 = none ∧
    decodeTableWord 64 0x80E0030102000000 = none ∧ decodeTableWord 64 0x3EE1000000000001 = none ∧
    decodeTableWord 64 0x3EF1000000000000 = none ∧ decodeTableWord 64 0x00E1030102000000 = none ∧
    decodeTableWord 32 0x80000000 = none ∧ decodeTableWord 32 0x48000001 = none := by decide

/-! ### One step on a small state -/

/-- The element of vector register r in lane l after the step, or of the wave as it is where the step stops. -/
def vAfter (s : State) (r l : Nat) : Nat :=
  match step s with
  | .next t => ((t.waveD 0).vAt r l).val.toNat
  | _ => 0

def sAfter (s : State) (r : Nat) : Nat :=
  match step s with
  | .next t => ((t.waveD 0).sAt r).val.toNat
  | _ => 0

def causeAfter (s : State) : Nat :=
  match step s with
  | .next t => (t.waveD 0).frame.cause.toNat
  | _ => 0

/-- The word with vector registers 1 and 2 holding values in lane 0. -/
def lane0 (w a b : Nat) : State :=
  (issuing w).modWave 0 fun x => (x.setV 1 0 (VElem.of (BitVec.ofNat 32 a))).setV 2 0 (VElem.of (BitVec.ofNat 32 b))

/-- R133: IADD wraps mod 2^32. -/
theorem test_iadd_wraps : vAfter (lane0 0x00E0030102000000 0xFFFFFFFF 2) 3 0 = 1 := by decide
/-- R133: IMULH of s32: the high half of −1·2 is −1. -/
theorem test_imulh_signed : vAfter (lane0 0x05E0030102000000 0xFFFFFFFF 2) 3 0 = 0xFFFFFFFF := by decide
/-- R133: IADDS clamps 2^31−1 + 1. -/
theorem test_iadds_clamps : vAfter (lane0 0x02E0030102000000 0x7FFFFFFF 1) 3 0 = 0x7FFFFFFF := by decide
/-- R135: SHL by 33 shifts by 1. -/
theorem test_shl_mod : vAfter (lane0 0x0EE0030102000000 1 33) 3 0 = 2 := by decide
/-- R135: SAR of −4 by 1. -/
theorem test_sar_sign : vAfter (lane0 0x10E0030102000000 0xFFFFFFFC 1) 3 0 = 0xFFFFFFFE := by decide
/-- R137: CLZ of 0 is 32. -/
theorem test_clz_zero : vAfter (lane0 0x14E0030100000000 0 0) 3 0 = 32 := by decide
/-- A source that is also the destination: ISUB v1, v2, v1. -/
theorem test_isub_alias : vAfter (lane0 0x01E0010201000000 5 3) 1 0 = 0xFFFFFFFE := by decide
/-- R145: FADD of 1.0 and 1.0 is 2.0. -/
theorem test_fadd : vAfter (lane0 0x1DE0030102000000 0x3F800000 0x3F800000) 3 0 = 0x40000000 := by decide
/-- R150: RDLANE s1 of lane 0, sign-extended. -/
theorem test_rdlane_signed : sAfter (lane0 0x32E0C101F0000000 0x80000000 0) 1 = 0xFFFFFFFF80000000 := by decide
/-- R61: a guard that is false in lane 0 leaves it. -/
theorem test_guard_keeps : vAfter (lane0 0x0000030102000000 1 2) 3 0 = 0 := by decide
/-- R143: a modulus of 0 traps with cause 66 (here to no handler: the grid ends). -/
theorem test_modulus_traps : causeAfter ((lane0 0x1AE0030102040000 1 2).modGroup 0 fun g => { g with tvec := 0x1000 }) = 66 := by decide
/-- R417: TRAP 5 raises 165. -/
theorem test_trap_code : causeAfter ((issuing 0x68E0000000000005).modGroup 0 fun g => { g with tvec := 0x1000 }) = 165 := by decide
/-- R311: LI x1, −1. -/
theorem test_li : (match step (State.reset.withFetchWord 32 0x00403FFF) with
    | .next t => ((t.core 0).sluice.map fun p => (p.xAt 1).toNat) | _ => none) = some 0xFFFFFFFFFFFFFFFF := by decide

/-! ### States and operands that meet the hypotheses of the statements -/

/-- The context of s0 with its wave changed. -/
def cw (f : Wave → Wave) : Ctx := { c0 with w := f c0.w }

/-- The operands of an integer instruction can be read in the lanes of its result, of which there are some. -/
def readable (s : State) (c : Ctx) (g : Guard) (d : Operand) (srcs : List Src) : Prop :=
  (∃ p, popPlan c s srcs (c.resultLanes g d) = .ok p) ∧ c.resultLanes g d ≠ []

/-- No error strikes a second issue of s0's wave. -/
theorem agrees0 (i : Instr) (g : Guard) : c0.agrees s0 i g := fun _ _ _ _ _ => BitVec.getLsbD_zero

def fi : AluI := ⟨always, .s32, .v 3, .v 1, .reg (.v 2)⟩
def f1 : AluI1 := ⟨always, .s32, .v 3, .v 1⟩
def f3 : AluI3 := ⟨always, .z32, .v 3, .v 1, .v 2, .s 4⟩
def ff : AluF := ⟨always, .f32, .dyn, .v 3, .v 1, .reg (.v 2)⟩

theorem test_met_IntegerArithmeticWrites : s0.ctx? = some c0 ∧ (Instr.iadd fi).wf = true ∧ (Instr.imad f3).wf = true ∧
    (Instr.iabs f1).wf = true ∧ readable s0 c0 fi.g fi.d (AluI.srcs fi) ∧ readable s0 c0 f3.g f3.d (AluI3.srcs f3) ∧
    readable s0 c0 f1.g f1.d [.op f1.a f1.ty.w64] :=
  ⟨rfl, by decide, by decide, by decide, ⟨⟨_, rfl⟩, by decide⟩, ⟨⟨_, rfl⟩, by decide⟩, ⟨⟨_, rfl⟩, by decide⟩⟩

theorem test_met_LogicAndShiftsWrite : s0.ctx? = some c0 ∧ (Instr.and fi).wf = true ∧ (Instr.rot fi).wf = true ∧ (Instr.not f1).wf = true ∧
    readable s0 c0 fi.g fi.d (AluI.srcs fi) ∧ readable s0 c0 f1.g f1.d [.op f1.a f1.ty.w64] :=
  ⟨rfl, by decide, by decide, by decide, ⟨⟨_, rfl⟩, by decide⟩, ⟨⟨_, rfl⟩, by decide⟩⟩

theorem test_met_SaturatingSumsClampAndFlag : s0.ctx? = some c0 ∧ (Instr.iadds fi).wf = true ∧ c0.helper = false ∧
    ∃ k, s0.group? c0.w.group = some k ∧ modeXen k.mode &&& fSAT = 0 ∧ readable s0 c0 fi.g fi.d (AluI.srcs fi) :=
  ⟨rfl, by decide, rfl, _, rfl, by decide, ⟨_, rfl⟩, by decide⟩

theorem test_met_BitFieldsAndBytesWrite : s0.ctx? = some c0 ∧ (Instr.bfx f3).wf = true ∧ (Instr.bfi f3).wf = true ∧
    (Instr.clz f1).wf = true ∧ (Instr.permb fi).wf = true ∧
    readable s0 c0 f3.g f3.d [.op f3.a false, .op f3.b false, .op f3.c false, .op f3.d false] ∧
    readable s0 c0 fi.g fi.d (AluI.srcs fi) :=
  ⟨rfl, by decide, by decide, by decide, by decide, ⟨⟨_, rfl⟩, by decide⟩, ⟨⟨_, rfl⟩, by decide⟩⟩

theorem test_met_ComparesWritePredicates : s0.ctx? = some c0 ∧ (Instr.icmp .lt always .s32 1 (.v 1) (.reg (.v 2))).wf = true ∧
    (Instr.fcmp .lt always .f32 .dyn 6 (.v 1) (.imm 1)).wf = true ∧ c0.helper = false ∧
    (∀ i g, c0.agrees s0 i g) ∧ ∃ k p, s0.group? c0.w.group = some k ∧ modeXen k.mode = 0 ∧
      popPlan c0 s0 [.op (.v 1) false, .op (.v 2) false] (passLanes (c0.eff always) false) = .ok p ∧ p.missed = 0 :=
  ⟨rfl, by decide, by decide, rfl, agrees0, _, _, rfl, by decide, rfl, by decide⟩

theorem test_met_SelectAndMoveWrite : s0.ctx? = some c0 ∧ (Instr.sel always .s64 (.v 2) (.v 4) (.v 6) 6 true).wf = true ∧
    (Instr.mov always .z32 (.s 1) (.reg (.s 2))).wf = true ∧
    readable s0 c0 always (.v 2) [.op (.v 4) true, .op (.v 6) true] ∧ readable s0 c0 always (.s 1) [.op (.s 2) false] :=
  ⟨rfl, by decide, by decide, ⟨⟨_, rfl⟩, by decide⟩, ⟨⟨_, rfl⟩, by decide⟩⟩

/-- The scalar modular operation and what it reads of its modulus. -/
def fm : AluI3 := ⟨always, .z32, .s 3, .s 1, .s 2, .s 4⟩
def modulus (m : Nat) : Wave → Wave := fun w => w.setS 4 (Scalar.of (BitVec.ofNat 64 m))
def modRead (m : Nat) : Nat := ((cw (modulus m)).read (sw (modulus m)) (fun _ => 0) 0 (.op fm.c false)).val.toNat % 4294967296

/-- The moduli 2 and 2^31−1 are in range, 1 and 2^31 are not. -/
theorem test_met_ModularArithmeticWrites : (∀ m, (sw (modulus m)).ctx? = some (cw (modulus m))) ∧ (Instr.modmul fm).wf = true ∧
    readable (sw (modulus 2)) (cw (modulus 2)) fm.g fm.d (AluI3.srcs fm) ∧ (cw (modulus 2)).resultLanes fm.g fm.d = [0] ∧
    modRead 2 = 2 ∧ modRead 2147483647 = 2147483647 ∧ modRead 1 = 1 ∧ modRead 2147483648 = 2147483648 :=
  ⟨fun _ => rfl, by decide, ⟨⟨_, rfl⟩, by decide⟩, by decide⟩

theorem test_met_FloatArithmeticRoundsOnce : s0.ctx? = some c0 ∧ (Instr.fadd ff).wf = true ∧
    (Instr.fdot2 ⟨always, .bf16x2, .dyn, .v 3, .v 1, .v 2, .v 4⟩).wf = true ∧ c0.helper = false ∧
    (∀ i g, c0.agrees s0 i g) ∧ ∃ k, s0.group? c0.w.group = some k ∧ modeXen k.mode = 0 ∧ readable s0 c0 ff.g ff.d (AluF.srcs ff) ∧
      readable s0 c0 always (.v 3) [.op (.v 1) false, .op (.v 2) false, .op (.v 4) false] :=
  ⟨rfl, by decide, by decide, rfl, agrees0, _, rfl, by decide, ⟨⟨_, rfl⟩, by decide⟩, ⟨_, rfl⟩, by decide⟩

theorem test_met_FunctionsAndConversionsRoundOnce : s0.ctx? = some c0 ∧ (Instr.frcp ⟨always, .dyn, .v 3, .v 1⟩).wf = true ∧
    (Instr.cvt ⟨always, .rsto, .v 2, .v 1, .i64, .f32⟩).wf = true ∧ c0.helper = false ∧
    (∀ i g, c0.agrees s0 i g) ∧ ∃ k, s0.group? c0.w.group = some k ∧ modeXen k.mode = 0 ∧ readable s0 c0 always (.v 3) [.op (.v 1) false] :=
  ⟨rfl, by decide, by decide, rfl, agrees0, _, rfl, by decide, ⟨_, rfl⟩, by decide⟩

theorem test_met_RegisterResultsLeaveTheRestAlone : s0.ctx? = some c0 ∧ (Instr.iadd fi).wf = true ∧ Instr.plainResult (.iadd fi) = true ∧
    Instr.dest? (.iadd fi) = some (.v 3, false) ∧ ((Instr.iadd fi).uses.all fun u => !u.o.isQ) = true ∧
    c0.agrees s0 (.iadd fi) fi.g ∧ ∀ l, l < 32 → modeXen (c0.mode s0 l) = 0 := ⟨rfl, by decide, by decide, by decide, by decide, agrees0 _ _, by decide⟩

/-- XEN enables NV, and the sum of two infinities of opposite signs raises it. Under VERIFY an error strikes lane 0. -/
theorem test_met_EnabledExceptionTrapsBeforeWriting :
    (let h : Wave → Wave := fun w => { w with upset := 1 }
     let s := (sw h).modGroup 0 fun g => { g with mode := 0x11 }
     s.ctx? = some (cw h) ∧ (Instr.fadd ff).wf = true ∧
       (cw h).w.upset &&& maskOf (fun l => ((cw h).eff ff.g).getLsbD l && modeVerify ((cw h).mode s l)) ≠ 0) ∧
    let f : AluF := ⟨always, .f32, .dyn, .s 3, .s 1, .imm 0xFF800000⟩
    let h : Wave → Wave := fun w => w.setS 1 (Scalar.of 0x7F800000)
    let s := (sw h).modGroup 0 fun g => { g with mode := 0x10001 }
    s.ctx? = some (cw h) ∧ (Instr.fadd f).wf = true ∧ (cw h).helper = false ∧ (cw h).w.upset = 0 ∧ ∃ k p, s.group? 0 = some k ∧
      popPlan (cw h) s (AluF.srcs f) ((cw h).resultLanes f.g f.d) = .ok p ∧ (modeXen k.mode).getLsbD 0 = true ∧
      ∃ l ∈ (cw h).resultLanes f.g f.d, (floatBits f.ty f.rnd (fun m vs => fAddPre m (fArg vs 0) (fArg vs 1)) (cw h) s l
        ((AluF.srcs f).map fun x => ((cw h).read s p.word l x).val.toNat)).2.getLsbD 0 = true :=
  ⟨⟨rfl, by decide⟩, rfl, by decide, rfl, rfl, _, _, rfl, rfl, by decide, 0, by decide⟩

theorem test_met_LaneMovesWrite : s0.ctx? = some c0 ∧ (Instr.shfl .ahead ⟨always, .w32s, .v 5, .v 1, .s 2, .v 6⟩).wf = true ∧
    (Instr.rdlane always .w64z (.s 1) (.v 2) (.s 3)).wf = true ∧ (Instr.qxch always (.bc 3) .w32s (.v 1) (.v 2)).wf = true ∧
    readable s0 c0 always (.v 5) [.op (.s 2) false, .op (.v 6) false] ∧ readable s0 c0 always (.v 1) [] :=
  ⟨rfl, by decide, by decide, by decide, ⟨⟨_, rfl⟩, by decide⟩, ⟨_, rfl⟩, by decide⟩

theorem test_met_VotesAndPredicateLogicWrite : s0.ctx? = some c0 ∧
    (∀ k ∈ [VoteForm.some, .every, .agree], (Instr.vote always k (.v 0) 1 2 true).wf = true) ∧
    (∀ k ∈ [VoteForm.gather, .count, .lead], (Instr.vote always k (.s 1) 0 2 true).wf = true) ∧
    (Instr.plop always .xor 1 2 7).wf = true ∧ c0.eff always ≠ 0 ∧ c0.eff ⟨0, false⟩ = 0 :=
  ⟨rfl, by decide⟩

theorem test_met_ReductionsAndScansWrite : s0.ctx? = some c0 ∧ (Instr.reduce always .add .z64 (.s 1) (.v 2)).wf = true ∧
    (Instr.reduce always .add .f32 (.s 1) (.v 2)).wf = true ∧ (Instr.scan always .max true .s32 (.v 1) (.v 2)).wf = true ∧
    c0.eff always ≠ 0 ∧ c0.eff ⟨0, false⟩ = 0 ∧ RedTy.int? .z64 = some (64, false) ∧ RedTy.int? .f32 = none ∧
    (∀ l, l < 32 → modeXen (c0.mode s0 l) = 0) ∧
    (blockOf (c0.combine s0 .add .f32 (lowestLane (c0.eff always))) (c0.leaf s0 (c0.eff always) (.v 2) .f32) 5 0).isSome = true :=
  ⟨rfl, by decide⟩

/-- Code in memory: headers at 16 and 48, CONF at 24, a pool word at 8, a jump-table header of two entries at 64 (class 4, KIND 2)
with offsets −6 and −2 words. -/
def code : Memory :=
  Memory.writeNat (Memory.writeNat (Memory.writeNat (Memory.writeNat (Memory.writeNat (Memory.writeNat (Memory.writeNat []
    8 8 0x4000000000000005) 16 8 0x8000000000000000) 24 8 0x3AE0000000000000) 48 8 0x8000000000000000) 64 8 0xC000010200000000)
    72 8 0xFFFFA) 80 8 0xFFFFE

/-- s0 with that code at addresses 0 to 4095. -/
def s1 : State := { sc (fun k => { k with tlb := [⟨0, 0, 4096, 0, true, true, true, false⟩] }) with mem := code }

theorem test_met_LdkLoadsThePoolWord : s1.ctx? = some c0 ∧ (Instr.ldk ⟨always, .s 1, 1⟩).wf = true ∧
    (∃ w, (codeWord s1 0 0 8).2 = .ok w ∧ isHeader w = false) ∧ (∃ w, (codeWord s1 0 0 16).2 = .ok w ∧ isHeader w = true) ∧
    ∃ b, (codeWord s0 0 0 8).2 = .error b :=
  ⟨rfl, by decide, ⟨0x4000000000000005, by decide⟩, ⟨0x8000000000000000, by decide⟩, _, rfl⟩

/-- Of 192 registers a wave can give at most 184; of 16 it cannot give 16. A pool of 1 block serves a claim of 1, not of 2. -/
theorem test_met_GiveAndClaimMoveRegisters : s0.ctx? = some c0 ∧ (Instr.give always 23).wf = true ∧ c0.whole = true ∧
    openDrain s0 0 0 8 = false ∧ closedDrain s0 0 0 8 = false ∧ c0.guardHolds always = true ∧ c0.guardHolds ⟨0, false⟩ = false ∧
    8 * 23 + 8 ≤ c0.w.allot ∧ (cw fun w => { w with allot := 16 }).w.allot < 8 * 2 + 8 ∧ (Instr.claim always 1 1).wf = true ∧
    ∃ k, (sg fun g => { g with pools := [(0, 1)] }).group? 0 = some k ∧ NMap.getD k.pools c0.poolKey 0 = 1 :=
  ⟨rfl, by decide, by decide, by decide, by decide, by decide, by decide, by decide, by decide, by decide, _, rfl, by decide⟩

/-- The offset 2 names the header at 16, the offset 1 a word that is none. -/
theorem test_met_BranchesMoveTheSplit : s1.ctx? = some c0 ∧ c0.target 2 = 16 ∧
    (checkTarget s1 0 0 (c0.target 2) allLanes).2 = none ∧ (checkTarget s1 0 0 (c0.target 1) allLanes).2.isSome = true ∧
    (∃ l, l < 32 ∧ c0.iss.mask.getLsbD l = true ∧ ((c0.w.pAt 0).getLsbD l != true) = true) ∧
    ∀ l, l < 32 → ((c0.w.pAt 0).getLsbD l != false) = false := ⟨rfl, by decide, by decide, by decide, ⟨0, by decide⟩, by decide⟩

/-- p0 in lanes 0 to 15. -/
def half : Wave → Wave := fun w => w.setP 0 0xFFFF
def full64 : Wave → Wave := fun w => { half w with
  recs := (List.range 64).map fun i => (i, { cpc := 0, member := 0, arrived := 0, ldepth := [] }) }

theorem test_met_DivergentBranchOpensARecord :
    (∀ f ∈ [half, full64], (s1.modWave 0 f).ctx? = some (cw f)) ∧
    (checkTarget (s1.modWave 0 half) 0 0 (c0.target 6) allLanes).2 = none ∧
    (checkConf (s1.modWave 0 half) 0 0 (c0.target 2)).2 = none ∧ (checkConf (s1.modWave 0 half) 0 0 (c0.target 6)).2.isSome = true ∧
    (cw half).w.innermost 0 = none ∧ (cw half).w.recs.length < 64 ∧ (cw full64).w.recs.length = 64 :=
  ⟨fun f h => by simp only [List.mem_cons, List.not_mem_nil, or_false] at h; rcases h with h | h <;> subst h <;> rfl,
    by decide⟩

/-- The record of a confluence at this clause, of the lanes m, of which lanes a have arrived. -/
def meeting (m a : LaneMask) : Wave → Wave := fun w => { w with recs := [(0, { cpc := 0, member := m, arrived := a, ldepth := [] })] }

/-- No record; one whose last lane arrives; and one with members 0 and 1, of which lane 0, alone in its split, arrives and waits. -/
theorem test_met_ConfluenceGathersLanes : s0.ctx? = some c0 ∧
    (∀ l, l < 32 → c0.iss.mask.getLsbD l = true → ∀ x ∈ c0.w.recs, x.2.member.getLsbD l = true → False) ∧
    (let f : Wave → Wave := fun w => { meeting allLanes 0xFFFFFFFE w with issue := w.issue.map fun i => { i with mask := 1 } }
     ∃ c q x, (sw f).ctx? = some c ∧ c.w.recs = [(q, x)] ∧ x.cpc = c.iw.hdr ∧ c.iss.mask ≠ 0 ∧
      (∀ l, l < 32 → c.iss.mask.getLsbD l = true → x.member.getLsbD l = true ∧ x.arrived.getLsbD l = false ∧
        NMap.getD x.ldepth l 0 = c.w.depth l) ∧
      ∀ l, l < 32 → x.member.getLsbD l = true → x.arrived.getLsbD l = true ∨ c.iss.mask.getLsbD l = true) ∧
    let f : Wave → Wave := fun w => { meeting 3 0 w with issue := w.issue.map fun i => { i with mask := 1 } }
    ∃ c q x, (sw f).ctx? = some c ∧ c.w.recs = [(q, x)] ∧ x.cpc = c.iw.hdr ∧ c.iss.mask = 1 ∧ x.member.getLsbD 1 = true ∧
      x.arrived.getLsbD 1 = false ∧ (confLanes 0 4096 c.w (lanesOf 1) []).2 ≠ [] :=
  ⟨rfl, by decide, ⟨_, _, _, rfl, rfl, rfl, by decide, by decide, by decide⟩, _, _, _, rfl, rfl, rfl, by decide⟩

/-- Each lane's stack holds one address; lane 3's is full. -/
def oneRet : Wave → Wave := fun w => { w with rets := (List.range 32).map fun l => (l, [16]) }
def fullRet : Wave → Wave := fun w => { w with rets := [(3, List.replicate 32 16)] }

theorem test_met_CallsAndReturnsUseTheStacks : (s1.modWave 0 oneRet).ctx? = some (cw oneRet) ∧
    (maskOf fun l => c0.iss.mask.getLsbD l && 32 ≤ (cw oneRet).w.depth l) = 0 ∧
    (maskOf fun l => c0.iss.mask.getLsbD l && 32 ≤ (cw fullRet).w.depth l) = 8 ∧
    (maskOf fun l => c0.iss.mask.getLsbD l && (cw oneRet).w.depth l = 0) = 0 ∧
    (checkTargets (s1.modWave 0 oneRet) 0 0 (groupLanes (fun l => (NMap.getD (cw oneRet).w.rets l []).headD 0)
      (lanesOf c0.iss.mask))).2 = none := ⟨rfl, by decide⟩

/-- The table at 64: entry 0 goes to the header at 16, entry 1 to the one at 48, and index 2 is beyond it. -/
theorem test_met_TableBranchSelectsByIndex : s1.ctx? = some c0 ∧ c0.target 8 = 64 ∧
    (∃ h, (codeWord s1 0 0 64).2 = .ok h ∧ tableLength h = some 2) ∧ (∃ h, (codeWord s1 0 0 16).2 = .ok h ∧ tableLength h = none) ∧
    (∃ ds, (tableTargets s1 c0 64 48 2 [(0, 1), (1, 2), (2, 4)]).2 = .ok ds ∧ (checkTargets s1 0 0 (mergeTargets ds)).2 = none) :=
  ⟨rfl, by decide, ⟨0xC000010200000000, by decide⟩, ⟨0x8000000000000000, by decide⟩, _, rfl, by decide⟩

/-- A REP before an IADD: of registers from v188, a count of 4 with stride 1 stays in range and one of 5 does not. -/
def repIss : Wave → Wave := fun w => { w with issue := w.issue.map fun i => { i with
  words := [{ word := 0, hdr := 0, idx := 0 }, { word := 0x00E0BC0102000000, hdr := 0, idx := 1 }] } }

theorem test_met_RepAndPausesGoOn : s0.ctx? = some c0 ∧ (∃ c x j, (sw repIss).ctx? = some c ∧ c.iss.words[c.iss.idx + 1]? = some x ∧
      decodeWave x.word = some j ∧ repRange ⟨none, 4, 1, 0, 0, 0⟩ j x.word 192 4 = none ∧
      (repRange ⟨none, 5, 1, 0, 0, 0⟩ j x.word 192 5).isSome = true) :=
  ⟨rfl, _, _, .iadd ⟨always, .s32, .v 188, .v 1, .reg (.v 2)⟩, rfl, rfl, by decide⟩

/-- A turnout that lane 0 of wave 0 holds. -/
def held0 : Core → Core := fun k => { k with turnouts := [(0, { st := .open_, wave := 0, lane := 0, n := 1, gen := 1 })] }

theorem test_met_ExitEndsLanes : s0.ctx? = some c0 ∧ c0.eff always ≠ 0 ∧ c0.eff ⟨0, false⟩ = 0 ∧ openTurnouts s0 0 allLanes = 0 ∧
    openTurnouts (sc held0) 0 allLanes = 1 ∧ openDrain s0 0 0 0 = false ∧ efenceDone s0 c0 = true ∧ c0.w.faults = [] ∧
    c0.w.live &&& ~~~(c0.eff always) = 0 ∧ c0.w.helperWave = false ∧
    (s0.modWave 0 fun w => w.setP 0 1).ctx? = some (cw fun w => w.setP 0 1) ∧
    (cw fun w => w.setP 0 1).w.live &&& ~~~((cw fun w => w.setP 0 1).eff ⟨0, false⟩) ≠ 0 ∧
    efenceDone (sw fun w => { w with asyncs := [{ id := 0, instr := .icinv always .device 1, word := 0, hdr := 0, idx := 0, mask := 0 }] })
      (cw fun w => { w with asyncs := [{ id := 0, instr := .icinv always .device 1, word := 0, hdr := 0, idx := 0, mask := 0 }] }) = false :=
  ⟨rfl, by decide, by decide, by decide, by decide, by decide, by decide, by decide, by decide, by decide, rfl, by decide⟩

/-- s0 with addresses 0 to 4095 of its address space placed at 0, and memory that lists nothing. -/
def s2 : State := { s1 with mem := [] }

/-- An access in hand, of wave 0, in lane 0 at address 64. -/
def acc (i : Instr) : MemOp :=
  { id := 0, instr := i, word := 0, hdr := 0, idx := 0, mask := 1, ea := [(0, 64)], data := [(0, 0x11)] }
def ld0 : LoadForm := ⟨always, .v 4, ⟨.s 2, .zero, 64⟩, .b32, .relaxed, .device⟩
def st0 : StoreForm := ⟨always, .v 4, ⟨.s 2, .zero, 64⟩, .w32, .relaxed, .device⟩
def at0 : AtomForm := ⟨always, .add, .v 4, ⟨.s 2, .zero, 64⟩, .b32, .acqRel, .device⟩
def fut0 : FutForm := ⟨always, .v 4, ⟨.s 2, .zero, 64⟩, .relaxed, .device⟩

/-- A store outstanding in lane 0 at address 64, and one sent to another device. -/
def stOut : Wave → Wave := fun w => { w with stores := [acc (.st .none st0)] }
def stSent : Wave → Wave := fun w => { w with stores := [{ acc (.st .none st0) with remote := true }] }

/-- Barrier 3 of core 0 is group 0's, with target 8; barrier 4 is its own with target 0. -/
def bars0 : Core → Core := fun k => { k with bars := [(3, { target := 8, count := 7, gen := 5, owner := some 0 }), (4, { owner := some 0 })] }

theorem test_met_BarriersHoldAndArrive : (sc bars0).ctx? = some c0 ∧ c0.w.frame.inh = false ∧ c0.w.rejoined = false ∧
    (c0.w.holdSplit c0.iss .bar).mixedBars = false ∧ (drainWave (sc bars0) 0).owes 0 allLanes = false ∧
    (drainWave (sw stSent) 0).owes 0 allLanes = true ∧
    ((sc bars0).bar 0 3).owner = some c0.w.group ∧ ((sc bars0).bar 0 3).target ≠ 0 ∧ ((sc bars0).bar 0 4).target = 0 ∧
    ((sc bars0).bar 0 5).owner ≠ some c0.w.group ∧ c0.guardHolds always = true ∧ c0.guardHolds ⟨0, false⟩ = false ∧
    ((s0.waves.filter fun x => [0].contains x.2.group && x.2.counted) ≠ []) ∧
    (let s := sw fun w => { w with issue := none, splits := [(0, { pc := 16, mask := allLanes, state := .held .bar })] }
     ∀ x ∈ s.waves.filter (fun x => [0].contains x.2.group && x.2.counted), x.2.arrivedAt .bar = true ∧ x.2.quiet x.2.live = true) :=
  ⟨rfl, by decide⟩

theorem test_met_AccessesIssueAfterTheirChecks : s2.ctx? = some c0 ∧
    (∀ a ∈ [loadAccess (.ld .none ld0) ld0, StoreForm.access st0 (.st .none st0), AtomForm.access at0 (.atom at0),
      FutForm.access fut0 (.fwait fut0), fillAccess fut0], c0.eff a.g ≠ 0 ∧ c0.w.noRoom a.i = false ∧
        a.check c0 s2 (passLanes (c0.eff a.g) a.scalar) = none) ∧ c0.helper = false ∧ (∀ l, NMap.get? c0.w.tx l = none) ∧
    ((loadAccess (.ld .none { ld0 with m := ⟨.s 2, .zero, 2⟩ }) { ld0 with m := ⟨.s 2, .zero, 2⟩ }).check c0 s2 [0]).isSome = true ∧
    (cw fun w => { w with loads := List.replicate 64 (acc (.ld .none ld0)) }).w.noRoom (.ld .none ld0) = true :=
  ⟨rfl, by decide, rfl, fun _ => rfl, by decide⟩

/-- An acquiring LD of lane 0 has been sent to another device. -/
def behind : Wave → Wave := fun w =>
  { w with loads := [{ acc (.ld .none { ld0 with order := .acquire }) with remote := true }] }

/-- Lane 0 has an open transaction, lane 1 a doomed one, the others none. -/
def txs : Wave → Wave := fun w => { w with tx := [(0, { st := .open_ }), (1, { st := .doomed 6 5 })] }

theorem test_met_TransactionsBeginAndEnd : (sw txs).ctx? = some (cw txs) ∧ (cw txs).eff always ≠ 0 ∧ (cw txs).eff ⟨0, false⟩ = 0 ∧
    (cw txs).w.noRoom (.txe always 1) = false ∧
    (cw fun w => { w with loads := List.replicate 64 (acc (.ld .none ld0)) }).w.noRoom (.txe always 1) = true ∧
    (c0.w.tx.filter fun t => (c0.eff always).getLsbD t.1 && decide (t.2.st = .open_)) = [] ∧
    (0 ∈ ({ st := .open_, wlines := [0], writes := [(0, 7)], wbytes := [0] } : Tx).wbytes) ∧
    ((drainWave s0 0).wave? 0).map (fun w => w.acquiring (c0.eff always)) = some false ∧
    ((drainWave (sw behind) 0).wave? 0).map (fun w => w.acquiring ((cw behind).eff always)) = some true ∧
    (∃ l, l < 32 ∧ ((cw txs).eff always).getLsbD l = true ∧ ∃ x, NMap.get? (cw txs).w.tx l = some x ∧ x.st = .open_) ∧
    (let f : Wave → Wave := fun w => { w with tx := [(1, { st := .doomed 6 5 })] }
     (sw f).ctx? = some (cw f) ∧ ∀ l, l < 32 → ((NMap.get? (cw f).w.tx l).map fun x => decide (x.st = .open_)).getD false = false) ∧
    (let o : MemOp := { acc (.txe always 1) with tx := [(0, { st := .open_ })] }
     let w : Wave := { c0.w with loads := [o] }
     w.loads.find? (fun x => x.id = o.id) = some o) :=
  ⟨rfl, by decide, by decide, by decide, by decide, by decide, by decide, by decide, by decide, ⟨0, by decide, by decide, _, rfl, rfl⟩,
    ⟨rfl, by decide⟩, rfl⟩

theorem test_met_StoresWriteTheirBytes :
    Instr.scratch (acc (.sts st0)).instr = true ∧ scratchTarget s0 0 ((acc (.sts st0)).at_ 0) = some (0, 64) ∧
    (s0.group? 0).isSome = true ∧ 60 % 64 + ([1, 2, 3, 4] : List Byte).length ≤ 64 ∧ Scope.wide .cluster = false ∧
    Scope.wide .device = true ∧ (∀ d ∈ clusterCores (clusterOf 0), findLine (s0.l1 d) (lineNo 60) = none) ∧
    (dropLine (s0.l1 0) (lineNo 60)).length < l1Room s0 0 ∧ l1Room (sc fun k => { k with bankGated := 0xFF }) 0 = 0 := by decide

/-- An LD whose one lane is done, and nothing else outstanding. -/
def doneLd : Wave → Wave := fun w => { w with loads := [{ acc (.ld .none ld0) with done := 1 }] }

theorem test_met_LoadsDeliverTheirData : (∃ h f, (acc (.ld .none ld0)).instr = .ld h f) ∧
    ({ acc (.ld .none ld0) with clobber := 1 } : MemOp).clobber.getLsbD 0 = true ∧ (acc (.ld .none ld0)).clobber = 0 ∧
    ({ acc (.ld .none ld0) with done := 1 } : MemOp).remote = false ∧
    (sw doneLd).wave? 0 = some (doneLd c0.w) ∧ (doneLd c0.w).loads.find? (fun o => o.id = 0) = some { acc (.ld .none ld0) with done := 1 } ∧
    ({ acc (.ld .none ld0) with done := 1 } : MemOp).undone = 0 ∧ (doneLd c0.w).asyncs.filter MemOp.isFence = [] :=
  ⟨⟨_, _, rfl⟩, by decide, rfl, rfl, rfl, rfl, by decide, rfl⟩

/-- An ATOM outstanding in lane 0 at address 64, which the core's translation places at 64. -/
def atom0 : Wave → Wave := fun w => { w with loads := [acc (.atom at0)] }

theorem test_met_AtomicsActAtTheHome : (0 < 4 ∧ 2 ^ 32 - 1 < 2 ^ (8 * 4)) ∧ (s2.modWave 0 atom0).wave? 0 = some (atom0 c0.w) ∧
    (atom0 c0.w).op? 0 = some (acc (.atom at0)) ∧ ((atom0 c0.w).freeLanes (acc (.atom at0))).getLsbD 0 = true ∧
    Instr.atomic? (acc (.atom at0)).instr = some at0 ∧
    (∃ p, (target (s2.modWave 0 atom0) 0 0 64 .both).2 = .ok (.here p) ∧ p.host = false ∧ p.pa = 64 ∧
      ∃ olds, (homeAtomic (s2.modWave 0 atom0) 0 p (acc (.atom at0)) at0 [0]).2 = .ok olds) ∧
    lineBad s2 64 = false ∧ lineBad (s2.modLine 1 fun i => { i with unwritten := 1 }) 64 = true :=
  ⟨by decide, rfl, rfl, by decide, rfl, ⟨_, rfl, rfl, rfl, _, rfl⟩, by decide⟩

/-- FWAIT outstanding in lane 0 at word 0 of line 1, Full or Empty. -/
def fwait0 : Wave → Wave := fun w => { w with loads := [acc (.fwait fut0)] }

theorem test_met_FuturesActOrPark : (s2.modWave 0 fwait0).wave? 0 = some (fwait0 c0.w) ∧
    (fwait0 c0.w).op? 0 = some (acc (.fwait fut0)) ∧ ((fwait0 c0.w).freeLanes (acc (.fwait fut0))).getLsbD 0 = true ∧
    Instr.isFuture (acc (.fwait fut0)).instr = true ∧ (acc (.fwait fut0)).parked = false ∧
    (∃ p, (target (s2.modWave 0 fwait0) 0 0 64 (futureNeed (.fwait fut0))).2 = .ok (.here p) ∧ p.host = false ∧ lineBad s2 p.pa = false) ∧
    (∃ p, (target (sc fun k => { k with tlb := [⟨0, 0, 4096, 0, true, true, true, true⟩] }) 0 0 64 (futureNeed (.fwait fut0))).2 =
      .ok (.here p) ∧ p.host = true) ∧
    (s2.line 1).emptyWords.getLsbD 0 = false ∧ ((s2.modLine 1 fun i => { i with emptyWords := 1 }).line 1).emptyWords.getLsbD 0 = true :=
  ⟨rfl, rfl, by decide, rfl, rfl, ⟨_, rfl, rfl, by decide⟩, ⟨_, rfl, rfl⟩, by decide⟩

/-- Lane 0 serves turnout 0 of core 0: it runs iteration 0 of the chunk 0 to 1, or waits after the last. -/
def serving (h : HelperLane) : Wave → Wave := fun w => { w with
  helperWave := true, helpers := [(0, h)], splits := w.splits.map fun x => (x.1, { x.2 with helper := true, mask := 1 })
  issue := w.issue.map fun i => { i with mask := 1 } }

/-- Queue q1 of core 0 is group 0's and holds one word; a BNDMIN is on its way to bound 2. -/
def queue0 : Core → Core := fun k => { k with queues := [(1, { owner := some 0, words := [9] })] }

theorem test_met_QueuesAndBoundsAct : (sc queue0).ctx? = some c0 ∧ c0.eff always ≠ 0 ∧ c0.eff ⟨0, false⟩ = 0 ∧
    residueTrap c0 (sc queue0) [0] (dataRegs (.v 4) 4) = none ∧ ((sc queue0).queue 0 1).owner = some c0.w.group ∧
    ((sc queue0).queue 0 2).owner ≠ some c0.w.group ∧ c0.w.heldBack = 0 ∧ c0.w.noRoom (.qlen always 1 2) = false ∧
    256 - ((sc queue0).queue 0 1).words.length = 255 ∧ bndVal s0 0 2 ≠ (c0.w.sAt 3).val ∧
    bndVal s0 0 2 = ((cw fun w => w.setS 3 (Scalar.of 0x7FFFFFFFFFFFFFFF)).w.sAt 3).val ∧ c0.iss.idx + 1 = c0.iss.words.length ∧
    (∃ c, (sw repIss).ctx? = some c ∧ c.iss.idx + 1 ≠ c.iss.words.length) ∧
    (drainWave (abortOpen c0 (sc queue0) (c0.eff always)) 0).owes 0 (c0.eff always) = false ∧
    (drainWave (abortOpen (cw stSent) (sw stSent) ((cw stSent).eff always)) 0).owes 0 ((cw stSent).eff always) = true ∧
    (let h : HelperLane := { core := 0, entry := 0, gen := 0, chunk := 0, iter := 0, last := 1, phase := .running }
     ∃ c, (sw (serving h)).ctx? = some c ∧ c.helper = true ∧ NMap.get? c.w.helpers 0 = some h ∧ h.buf.length < 64) ∧
    ((s0.modCluster 0 fun k => { k with bndPending := [(0, 2, 5)] }).cluster 0).bndPending = [(0, 2, 5)] ∧
    (residueTrap (cw fun w => w.setV 4 0 ⟨1, 0⟩) (sw fun w => w.setV 4 0 ⟨1, 0⟩) [0] (dataRegs (.v 4) 4)).isSome = true :=
  ⟨rfl, by decide, by decide, by decide, by decide, by decide, by decide, by decide, by decide, by decide, by decide, by decide,
    ⟨_, rfl, by decide⟩, by decide, by decide, ⟨_, rfl, rfl, rfl, by decide⟩, by decide⟩

/-- Line 1 in the L1 of core 0 with a dirty byte. -/
def dirty1 : State := sc fun k => { k with l1 := [{ line := 1, data := [(0, 7)], dirty := 1 }] }

theorem test_met_AccessesArePerformed : s0.ctx? = some c0 ∧ residueTrap c0 s0 [0] (Addr.regs st0.m) = none ∧ c0.eff always ≠ 0 ∧
    c0.helper = false ∧ (s2.modWave 0 stOut).wave? 0 = some (stOut c0.w) ∧ (stOut c0.w).loads = [] ∧
    (stOut c0.w).stores.find? (fun o => o.id = 0) = some (acc (.st .none st0)) ∧ (stOut c0.w).freeLanes (acc (.st .none st0)) = laneBit 0 ∧
    (writeLane (s2.modWave 0 stOut) 0 0 0 (acc (.st .none st0)) 0).2 = .ok true ∧
    (∃ b, (writeLane (s0.modWave 0 stOut) 0 0 0 (acc (.st .none st0)) 0).2 = .error b) ∧
    (stSent c0.w).stores.find? (fun o => o.id = 0 && o.remote) = some { acc (.st .none st0) with remote := true } ∧
    dirtyLines s0 0 = [] ∧ ∃ d x xs, dirtyLines dirty1 0 = (d, x) :: xs :=
  ⟨rfl, by decide, by decide, rfl, rfl, rfl, rfl, by decide, rfl, ⟨_, rfl⟩, rfl, by decide, _, _, _, rfl⟩

def cctl0 : CctlForm := ⟨always, 1, 2, 3, .device⟩
def icinvOut : Wave → Wave := fun w => { w with asyncs := [{ acc (.icinv always .device 3) with mask := 0 }] }

theorem test_met_CacheControlRunsUnderTokens : s0.ctx? = some c0 ∧ c0.guardHolds always = true ∧ c0.guardHolds ⟨0, false⟩ = false ∧
    cctlCheck c0 s0 .wb cctl0 = none ∧ c0.w.asid = 0 ∧ (cw fun w => { w with asid := 1 }).w.asid ≠ 0 ∧ c0.addrCodes s0 [2] = none ∧
    (icinvOut c0.w).asyncs.find? (fun o => o.id = 0) = some { acc (.icinv always .device 3) with mask := 0 } ∧
    waveClear (sw icinvOut) 0 1 = true ∧ waveClear (sw fun w => { icinvOut w with stores := [acc (.st .none st0)] }) 0 1 = false ∧
    c0.w.alive = true ∧ (∃ tok p, tlbinvDrops (acc (.tlbinvAll always 3)) = some (tok, p)) :=
  ⟨rfl, by decide, by decide, by decide, rfl, by decide, by decide, rfl, by decide, by decide, by decide, _, _, rfl⟩

/-- A group with a handler, and a wave in its handler with a frame to return from. -/
def handler : Group → Group := fun g => { g with tvec := 16 }
def inHandler : Wave → Wave := fun w =>
  { w with frame := { w.frame with
      inh := true, mask := true, tpc := 16
      saved := some { splits := [(0, { pc := 0, mask := allLanes, state := .ready })], parked := [], recs := [], preds := [], split := 0 } } }

theorem test_met_TrapEntrySavesAndGoesToTheHandler : (sg handler).wave? 0 = some c0.w ∧ c0.w.helpers = [] ∧
    ((sg handler).group c0.w.group).tvec ≠ 0 ∧ c0.w.frame.inh = false ∧ (s0.group c0.w.group).tvec = 0 ∧
    nodeOfWave s0 0 = some 0 ∧ ∃ nd, s0.node? 0 = some nd ∧ nd.ended = false :=
  ⟨rfl, rfl, by decide, rfl, by decide, by decide, _, rfl, rfl⟩

theorem test_met_TrapInstructionsRaiseAndReturn : s0.ctx? = some c0 ∧ c0.eff always ≠ 0 ∧ c0.eff ⟨0, false⟩ = 0 ∧
    efenceDone (abortOpen c0 s0 c0.mask) c0 = true ∧ c0.w.faults = [] ∧ c0.w.frame.inh = false ∧
    efenceDone (abortOpen (cw stOut) (sw stOut) (cw stOut).mask) (cw stOut) = false ∧
    (s1.modWave 0 inHandler).ctx? = some (cw inHandler) ∧ (cw inHandler).w.frame.inh = true ∧ (cw inHandler).whole = true ∧
    (cw inHandler).w.outstanding = [] ∧ (cw inHandler).w.endReq = none ∧ (cw inHandler).w.release = 0 ∧ (cw inHandler).w.rejoin = [] ∧
    (cw inHandler).w.evictReq = false ∧ (cw inHandler).w.frame.saved.isSome = true ∧
    (∀ k, (s1.modWave 0 inHandler).gang? ((s1.modWave 0 inHandler).group (cw inHandler).w.group).gang = some k → k.suspendReq = false) ∧
    (checkTarget64 (abortOpen (cw inHandler) (s1.modWave 0 inHandler) allLanes) 0 0 16 allLanes).2 = none ∧
    (checkTarget64 (abortOpen (cw inHandler) (s1.modWave 0 inHandler) allLanes) 0 0 8 allLanes).2.isSome = true :=
  ⟨rfl, by decide, by decide, by decide, rfl, rfl, by decide, rfl, rfl, by decide, by decide, rfl, rfl, rfl, rfl, rfl,
    fun _ h => by cases h; rfl, by decide⟩

/-- A group that holds tile 0 and has the default set. -/
def tiled : Group → Group := fun g => { g with tiles := [(0, { elems := [] })], mset := some defaultRecord }

theorem test_met_MatrixCommandsEnterTheQueue : (sg tiled).ctx? = some c0 ∧ valueCheck c0 (sg tiled) (.mzero always 0) = none ∧
    valueCheck c0 s0 (.setmod 3) = none ∧ valueCheck c0 (sg tiled) (.mmac ⟨always, 0, 2, 4, 0, 0, 0, 0, .full, false, false⟩) = none ∧
    (valueCheck c0 (sg tiled) (.mzero always 1)).isSome = true ∧ (c0.w.predWriters 7 = []) ∧
    (c0.engineGuard (drainWave (sg tiled) 0) always).2 = some none ∧ (c0.engineGuard (drainWave (sg tiled) 0) ⟨7, true⟩).2 = none ∧
    ((c0.engineGuard (drainWave (sg tiled) 0) always).1.group 0).mq.length < 64 ∧
    ∃ w, (c0.engineGuard (drainWave (sg tiled) 0) always).1.wave? 0 = some w :=
  ⟨rfl, by decide, by decide, by decide, by decide, by decide, by decide, by decide, by decide, _, rfl⟩

/-- Batch 3 of the group is in flight and batch 4 is open; barrier 3 of core 0 is the group's. -/
def batch3 : Group → Group := fun g => { g with batches := [{ seq := 3, sigs := [] }], openSeq := 4 }
def sb : State := (sc bars0).modGroup 0 batch3

theorem test_met_MatrixBatchInstructions : sb.ctx? = some c0 ∧ (sb.group 0).batches.length < 16 ∧
    (∀ y ∈ (sb.group 0).batches, y.seq % 16 ≠ 5) ∧ (sb.group 0).batches.filter (fun y => y.seq % 16 = 3) = [] ++ [{ seq := 3, sigs := [] }] ∧
    barGranted sb 0 3 0 = true ∧ barGranted sb 0 5 0 = false ∧
    (∃ w, (drainWave (abortOpen c0 sb c0.mask) 0).wave? 0 = some w) ∧
    (drainWave (abortOpen c0 sb c0.mask) 0).owes 0 allLanes = false ∧
    (drainWave (abortOpen (cw stSent) (sb.modWave 0 stSent) (cw stSent).mask) 0).owes 0 allLanes = true ∧
    ((drainWave (abortOpen c0 sb c0.mask) 0).bar 0 3).target ≠ 0 ∧ c0.guardHolds always = true ∧ c0.guardHolds ⟨0, false⟩ = false :=
  ⟨rfl, by decide, by decide, by decide, by decide, by decide, ⟨_, rfl⟩, by decide⟩

/-- A group whose queue holds one command, in this state and batch, under the default set. -/
def mx (i : Instr) (st : MxState) (b : Option Nat) : MxEntry :=
  { id := 0, instr := i, word := 0, wave := 0, guard := none, batch := b, state := st, newSet := some defaultRecord }
def queued (e : MxEntry) : State := sg fun g => { tiled g with mq := [e], batches := [{ seq := 0, sigs := [] }], openSeq := 1 }

theorem test_met_MatrixQueueStartsCompletesRetires :
    (∀ e ∈ [mx (.setfmt .i8 .i8 .i32) .waiting none, mx .msolo .waiting none, mx .setmodDefault .waiting none,
        mx (.mzero always 0) .waiting (some 0)],
      ∃ g, mxGroups (queued e) 0 = [(0, g)] ∧ (queued e).group? 0 = some g ∧ mxHead g = some e ∧ mxReady (queued e) 0 e = true ∧
        g.mset.isSome = true ∧ ∀ x ∈ g.mq, x.id = e.id → x = e) ∧
    servable defaultRecord (mapOf s0 0) = true ∧
    (∃ g, (queued (mx (.mzero always 0) .running (some 0))).group? 0 = some g ∧
      g.mq.find? (fun e => e.id = 0 && e.state = .running && e.batch.isSome) = some (mx (.mzero always 0) .running (some 0)) ∧
      g.mq.any (fun e => e.batch = some 0 && e.state ≠ .complete) = true) ∧
    (∃ g, (queued (mx .setmodDefault .running none)).group? 0 = some g ∧
      g.mq.find? (fun e => e.state = .running && e.batch.isNone) = some (mx .setmodDefault .running none) ∧
      g.mq.any (fun x => x.state = .running && x.batch.isSome) = false ∧
      ∀ k, (queued (mx .setmodDefault .running none)).gang? g.gang = some k → k.suspendReq = false) ∧
    ∃ g, (queued (mx (.mzero always 0) .complete (some 0))).group? 0 = some g ∧ g.batches = [{ seq := 0, sigs := [] }] ∧
      g.mq.any (fun e => e.batch = some 0 && e.state ≠ .complete) = false :=
  ⟨by
    intro e h
    refine ⟨{ tiled (s0.group 0) with mq := [e], batches := [{ seq := 0, sigs := [] }], openSeq := 1 }, ?_⟩
    simp only [List.mem_cons, List.not_mem_nil, or_false] at h
    rcases h with h | h | h | h <;> subst h <;> exact ⟨rfl, rfl, rfl, by decide, rfl, by decide⟩,
   by decide, ⟨_, rfl, rfl, by decide⟩, ⟨_, rfl, rfl, by decide, fun _ h => by cases h; rfl⟩, _, rfl, rfl, by decide⟩

/-- An element that stands for 5·2^3 in two channels, of moduli 256 and 251, and a contribution of 7 at exponent 4. -/
theorem test_met_ContributionsAreExact : let cs : List Chan := [⟨0, 256, false⟩, ⟨1, 251, false⟩]
    let e : TElem := { res := List.replicate 10 5, xe := 3, empty := false }
    e.res.length = 10 ∧ (∀ c ∈ cs, c.h < 10 ∧ 1 < c.m ∧ c.m < 512) ∧ (∀ a ∈ cs, ∀ b ∈ cs, a.h = b.h → a = b) ∧
      (∀ c ∈ cs, e.at_ c.h = res 5 c.m) ∧ (0 : Int) ≤ 0 ∧ (255 : Int) ≤ 255 := by decide

theorem test_met_SluiceCommandsQueueReadAndStop : s0.ctx? = some c0 ∧ valueCheck c0 s0 (.slaunch always 0 1 4 none) = none ∧
    (valueCheck (cw fun w => w.setS 1 ⟨0, 1, 0, false⟩) (sw fun w => w.setS 1 ⟨0, 1, 0, false⟩) (.slaunch always 0 1 4 none)).isSome = true ∧
    (c0.engineGuard (drainWave s0 0) always).2 = some none ∧
    ((c0.engineGuard (drainWave s0 0) always).1.core 0).sluiceQ.length < 8 ∧ c0.guardHolds always = true ∧
    c0.guardHolds ⟨0, false⟩ = false ∧ (s0.core 0).sluice = none ∧ ((sc fun k => { k with sluice := some p0 }).core 0).sluice = some p0 ∧
    c0.w.alive = true ∧ ∀ gk x, s0.group? gk = some x → x.savedProg = none :=
  ⟨rfl, by decide, by decide, by decide, by decide, by decide, by decide, rfl, rfl, by decide, fun gk x h => by
    rcases gk with _ | gk
    · cases h; rfl
    · cases h⟩

/-- s8 holds the address 128, where memory holds the word 3; at 64 it holds 0. -/
def joining : Wave → Wave := fun w => w.setS 8 (Scalar.of 128)
def s3 : State := { s2.modWave 0 joining with mem := Memory.writeNat [] 128 8 3 }

theorem test_met_TasksAreLaunchedSpawnedAndJoined : s2.ctx? = some c0 ∧ valueCheck c0 s2 (.launch always 4 none) = none ∧
    (c0.engineGuard (drainWave s2 0) always).2 = some none ∧
    ((c0.engineGuard (drainWave s2 0) always).1.core 0).launchQ.length < 4 ∧
    (let v := drainWave (c0.engineGuard (drainWave s2 0) always).1 0
     recordWaits v 0 (c0.sVal 4) 128 = false ∧
       ∃ bs, (recordRead c0 (abortOpen c0 v (c0.eff always)) (c0.sVal 4) 128).2 = .ok bs) ∧
    recordWaits (sw stSent) 0 64 128 = true ∧ recordWaits (sw stSent) 0 (BitVec.ofNat 64 4096) 128 = false ∧
    spawnCheck s2 c0 (.v 4) 6 [0] = none ∧ c0.w.noRoom (.spawn always (.v 4) 6) = false ∧ c0.w.noRoom (.take always 3) = false ∧
    (∃ w, (drainWave s2 0).wave? 0 = some w ∧ w.loads.any MemOp.holdsJoin = false ∧ w.joinIncr = [] ∧ w.writing (c0.sVal 4) 8 = false) ∧
    valueCheck c0 s2 (.joinw 4) = none ∧ (∃ pa w, (joinTarget (drainWave s2 0) c0 0).2 = .ok pa ∧
      (joinTarget (drainWave s2 0) c0 0).1.wave? 0 = some w ∧ Memory.readNat (joinTarget (drainWave s2 0) c0 0).1.mem pa 8 = 0) ∧
    s3.ctx? = some (cw joining) ∧ valueCheck (cw joining) s3 (.joinw 8) = none ∧
    (∃ b, (joinTarget (drainWave s3 0) (cw joining) 8192).2 = .error b) ∧
    let r := joinTarget (drainWave s3 0) (cw joining) 128
    phaseRoom r.1 (cw joining) = true ∧ ∃ pa w, r.2 = .ok pa ∧ r.1.wave? 0 = some w ∧ Memory.readNat r.1.mem pa 8 ≠ 0 ∧
      w.helpers = [] ∧ w.place = .resident 0 0 ∧
      ∀ k, r.1.gang? (r.1.group 0).gang = some k → k.suspendReq = false :=
  ⟨rfl, by decide, by decide, by decide, ⟨by decide, _, rfl⟩, by decide, by decide, by decide, by decide, by decide,
    ⟨_, rfl, by decide, rfl, by decide⟩, by decide, ⟨_, _, rfl, rfl, by decide⟩, rfl, by decide, ⟨_, rfl⟩, by decide, _, _, rfl, rfl,
    by decide, rfl, rfl, fun _ h => by cases h; rfl⟩

/-- s4 is 3 and the clause at 16 can be the entry of a body. -/
def recruiting : Wave → Wave := fun w => (w.setS 4 (Scalar.of 3)).setS 5 (Scalar.of 16)

theorem test_met_RecruitOpensATurnout : (s1.modWave 0 recruiting).ctx? = some (cw recruiting) ∧
    let c := cw recruiting
    let s := s1.modWave 0 recruiting
    valueCheck c s (.recruit always .wave 6 (.s 4) (.s 4) 5 (.v 0)) = none ∧
    (valueCheck c s (.recruit always .wave 6 (.s 4) (.s 7) 5 (.v 0))).isSome = true ∧ c.eff always ≠ 0 ∧ c.eff ⟨0, false⟩ = 0 ∧
    (lo32 (c.get s (lowestLane (c.eff always)) (.s 4) false).val).toNat = 3 ∧
    (lo32 (c.get s (lowestLane (c.eff always)) (.s 7) false).val).toNat = 0 ∧ (s.turnout 0 0).st = .free ∧ (∀ j < 0, (s.turnout 0 j).st ≠ .free) ∧
    ∃ w, (drainWave s 0).wave? 0 = some w ∧ w.helperWave = false :=
  ⟨rfl, by decide, by decide, by decide, by decide, by decide, by decide, by decide, by decide, _, rfl, rfl⟩

/-- s6 holds the handle of turnout 0 at generation 1, and s7 one of an older generation. -/
def handle : Wave → Wave := fun w => (w.setS 6 (Scalar.of 0x8000000000000100)).setS 7 (Scalar.of 0x8000000000000000)
def turned (t : Turnout) : State := (sc fun k => { k with turnouts := [(0, t)] }).modWave 0 handle
def to0 : Turnout := { st := .open_, wave := 0, lane := 0, n := 2, gen := 1 }

theorem test_met_TurnoutsAreClaimedCommittedAndFreed :
    (∀ t, (turned t).ctx? = some (cw handle)) ∧ c0.guardHolds always = true ∧ c0.guardHolds ⟨0, false⟩ = false ∧
    ((cw handle).sVal 6).getLsbD 63 = true ∧ (c0.sVal 6).getLsbD 63 = false ∧
    (cw handle).named (turned to0) ((cw handle).sVal 6) = true ∧ (cw handle).named (turned to0) ((cw handle).sVal 7) = false ∧
    (∀ t ∈ [to0, { to0 with own := some 0 }, { to0 with st := .complete }, { to0 with st := .releasing }], ∃ u, (turned t).turnout 0 0 = u ∧
      u = t) ∧ (∃ i y, to0.claim = some (i, y)) ∧ servers (turned to0) 0 0 = [] ∧
    (∀ h : HelperLane, ∃ c, (sw (serving h)).ctx? = some c ∧ c.helper = true ∧ NMap.get? c.w.helpers 0 = some h ∧ lanesOf c.mask = [0] ∧
      c.w.release = 0 ∧ (c.w.leaving (sw (serving h))) = false ∧ c.w.loads = [] ∧ c.w.place = .resident 0 0) ∧
    coreWanted s0 0 = false ∧ coreWanted { s0 with nodes := [(0, { addr := 0, bytes := [], st := .ready })] } 0 = true :=
  ⟨fun _ => rfl, by decide, by decide, by decide, by decide, by decide, by decide,
    fun t _ => ⟨_, rfl, rfl⟩, ⟨_, _, rfl⟩, by decide, fun h => ⟨_, rfl, rfl, rfl, by show lanesOf 1 = [0]; decide, rfl, rfl, rfl, rfl⟩, by decide⟩

/-- Entry 0 of the communicator table, at 0: two ranks, of which this is rank 0, with chunks of 4 KiB. Rank 1 is device 2, and
the route to it is port 0. -/
def net : Memory := Memory.writeNat (Memory.writeNat (Memory.writeNat [] 0 4 0x00020001) 32 4 4096) 516 2 1
def cm (k : Comm) : State := { s2 with mem := net, comms := [(0, k)], dev := { s2.dev with rtBase := 512, ports := [(0, 2)] } }

/-- A broadcast of one byte from rank 0 in chunks of 4 KiB, issued by wave 0, whose token is s5. -/
def bcast : List Byte := [1, 0, 3, 0] ++ List.replicate 20 0 ++ [1] ++ List.replicate 16 0 ++ [16] ++ List.replicate 22 0
def coll0 : Coll := { id := 0, wave := 0, core := 0, asid := 0, token := 5, comm := 0, desc := bcast }

theorem test_met_CollectivesStartAndAreReadAndAborted : (cm {}).ctx? = some c0 ∧
    (commEntry (cm {}) 0).ok = true ∧ (commEntry (cm {}) 0).casid = c0.w.asid ∧ (commEntry (cm {}) 1).ok = false ∧ c0.sVal 8 = 0 ∧
    (cm {}).modWave 0 joining = { cm {} with waves := [(0, joining c0.w)] } ∧
    valueCheck (cw joining) ((cm {}).modWave 0 joining) (.coll always 5 8 none) = none ∧
    (valueCheck (cw recruiting) ((cm {}).modWave 0 recruiting) (.coll always 5 4 none)).isSome = true ∧
    ((cw joining).engineGuard (drainWave ((cm {}).modWave 0 joining) 0) always).2 = some none ∧
    (let v := drainWave ((cw joining).engineGuard (drainWave ((cm {}).modWave 0 joining) 0) always).1 0
     (v.core 0).flumeQ.length < 16 ∧ recordWaits v 0 128 64 = false ∧ waveClear v 0 (cw joining).w.nextOp = true ∧
       ∃ bs, (recordRead (cw joining) (releaseDevice v 0) 128 64).2 = .ok bs ∧ (readColl bs).comm % 16 = 0 ∧
         (readColl bs).isPlane = false) ∧
    c0.guardHolds always = true ∧ c0.guardHolds ⟨0, false⟩ = false ∧ ((cw recruiting).sVal 5).toNat = 16 ∧
    ((cm { queue := [coll0] }).comm 0).queue ++ inCores (cm { queue := [coll0] }) 0 ≠ [] :=
  ⟨rfl, by decide, by decide, by decide, rfl, rfl, by decide, by decide, by decide, ⟨by decide, by decide, by decide, _, rfl, by decide, by decide⟩,
    by decide⟩

/-- A gather of one byte from each rank, and a barrier. -/
def gather0 : Coll := { coll0 with desc := [2] ++ bcast.drop 1 }
/-- A gather of planes whose two moduli are 256 and 257, and a broadcast that arms counters on its destination. -/
def planes0 : Coll := { coll0 with desc := [2, 0, 0x10, 0] ++ bcast.drop 4, mset := [0x00, 0x81, 0x01, 0x81] ++ List.replicate 28 0 }
def armed0 : Coll := { coll0 with desc := [1, 0, 3, 0, 0, 0, 2] ++ bcast.drop 7 }
def barrier0 : Coll := { coll0 with desc := List.replicate 64 0 }
def chunk0 : Chunk := { id := 0, comm := 0, coll := 0, peer := 1, off := 0, len := 1 }
def running : Comm := { st := .running, queue := [gather0], run := { todo := [chunk0] }, credits := [(1, 1)] }
def inCore : State := (cm {}).modCore 0 fun k => { k with flumeQ := [coll0] }
def granted : State := (cm running).modTower 0 fun t => { t with slotA := some { chunk0 with data := some [7] } }

theorem test_met_CommunicatorsRunTheirCollectives :
    ((inCore.core 0).flumeQ = [coll0] ∧ (inCore.comm 0).queue.length < 16 ∧ commState inCore 0 = .idle ∧ (inCore.comm 0).queue = []) ∧
    (let s := cm { st := .matching, queue := [coll0] }
     commState s 0 = .matching ∧ (s.comm 0).queue = [coll0] ∧ (commEntry s 0).peers = [1] ∧ (readColl coll0.desc).dtype = 3 ∧
       bitOf (readColl coll0.desc).fctl 1 = false ∧ { coll0.header with root := 1 } ≠ coll0.header) ∧
    (let d := readColl planes0.desc
     d.dtype = 0x10 ∧ d.moduli planes0.mset = [256, 257] ∧ (∃ m ∈ d.moduli planes0.mset, ¬m ≤ 256)) ∧
    (let d := readColl armed0.desc
     bitOf d.fctl 1 = true ∧ d.barrier = false ∧
       ∃ u ls, armAll (cm { st := .matching, queue := [armed0] }) armed0 d 1 (d.dstElems (commEntry (cm {}) 0)) = (u, .ok ls)) ∧
    (∃ w, (cm { queue := [coll0] }).wave? coll0.wave = some w ∧ w.alive = true) ∧
    (let s := cm running
     (s.tower 0).gone = false ∧ (s.tower 0).slotA = none ∧ grantChoice s 0 = some (0, gather0, chunk0) ∧
       routeUp s ((commEntry s 0).device s 1) = true ∧ routeUp { s with dev := {} } ((commEntry s 0).device s 1) = false) ∧
    ((granted.tower 0).slotA = some { chunk0 with data := some [7] } ∧ (granted.comm 0).queue = [gather0]) ∧
    (let s := granted.modTower 0 fun t => { t with slotB := some chunk0 }
     (s.tower 0).slotB = some chunk0 ∧ chunk0.data = none ∧
       ∃ bs, (flumeReads s 0 gather0.core gather0.asid (chunkPlaces (commEntry s 0) gather0 chunk0)).2 = .ok bs) ∧
    (let s := cm running
     let d := readColl gather0.desc
     commState s 0 = .running ∧ (s.comm 0).rx.length < 2 ∧ 1 ∈ senders (commEntry s 0) d ∧ (1, 0) ∉ (s.comm 0).run.recvd ∧
       0 % d.chunk = 0 ∧ 0 < d.span (d.moduli gather0.mset).length d.n ∧
       1 = d.dataLen (d.moduli gather0.mset).length 0 (min d.chunk (d.span (d.moduli gather0.mset).length d.n - 0))) ∧
    (let s := cm { running with queue := [barrier0], run := { localDone := true, wrote := [1] } }
     commState s 0 = .running ∧ mayComplete s 0 (commEntry s 0) barrier0 = true ∧
       mayComplete (cm { running with queue := [barrier0], run := { localDone := true } }) 0 (commEntry s 0) barrier0 = false ∧
       partReady (cm { running with queue := [barrier0], run := {} }) 0 (commEntry s 0) barrier0 = true ∧
       ∀ p ∈ (commEntry s 0).peers, p ≠ 1 → p ∈ ([] : List Nat)) ∧
    NMap.getD ((cm running).comm 0).credits 1 0 < 2 ∧
    [chunk0].find? (fun x => x.peer = 1 && x.off = 0) = some chunk0 ∧ commActive (cm running) 0 = true ∧
    commState (cm { st := .aborting, acks := [1] }) 0 = .aborting ∧
    let s := { cm running with mem := Memory.writeNat net 36 4 1, tick := 1025 }
    2 ≤ (commEntry s 0).nrank ∧ (commEntry s 0).tmo ≠ 0 ∧ (s.comm 0).run.lastRx.toNat + (commEntry s 0).tmo * 1024 < s.tick.toNat ∧
      commActive s 0 = true :=
  ⟨⟨rfl, by decide, by decide, rfl⟩, ⟨by decide, rfl, by decide⟩, by decide, ⟨by decide, by decide, _, _, rfl⟩, ⟨_, rfl, by decide⟩,
    ⟨by decide, rfl, by decide⟩, ⟨rfl, rfl⟩, ⟨rfl, rfl, _, rfl⟩,
    ⟨by decide, by decide, by decide, by decide, by decide, by decide, by decide⟩,
    ⟨by decide, by decide, by decide, by decide, by decide⟩, by decide⟩

/-- The wave's split stands Ready at the header at 16 (class 0) of `code`, which has one word: CONF at 24. -/
def ready : Wave → Wave := fun w => { w with
  issue := none, splits := [(0, { pc := 16, mask := allLanes, state := .ready })] }

theorem test_met_ClausesIssueByLevelAfterTheirChecks :
    let s := (s1.modCore 0 fun k => { k with port := [] }).modWave 0 ready
    let sp : Split := { pc := 16, mask := allLanes, state := .ready }
    NMap.get? (s.core 0).port 0 = none ∧ s.wave? 0 = some (ready c0.w) ∧
    (∃ x, bestOf (wakeQuarter s 0 0) (candidates (wakeQuarter s 0 0) 0 0) = some x) ∧
    candidates (wakeQuarter s 0 1) 0 1 = [] ∧
    (∃ x, (fetchClause s 0 0 8).2 = .error x) ∧
    ∃ h ws, (fetchClause s 0 0 16).2 = .ok (h, ws) ∧ sp.helper = false ∧ watched s 0 50 16 = false ∧
      lateDue (ready c0.w) sp h ws = false ∧ h.tkchk = false ∧
      (leaveLoop s 0 0 sp).wave? 0 = some (ready c0.w) ∧ ({ sp with cont := some c0.iss } : Split).cont = some c0.iss ∧
      let c : Ctx := { cw ready with iss := newIssue 0 sp h ws 0, iw := { word := 0, hdr := 16, idx := 0 } }
      checkWords s c h.cls [] ws = none ∧ (checkTransfer s c ws).2 = none ∧
      (checkWords s c h.cls [] [0x3EE1000000000001]).isSome = true ∧
      checkWords s c 0 [] [0x38E0000000100000] = none ∧ (checkTransfer s c [0x38E0000000100000]).2.isSome = true :=
  ⟨by decide, rfl, ⟨_, rfl⟩, by decide, ⟨_, rfl⟩, _, _, rfl, rfl, by decide⟩

/-- A launched program waits in the queue of core 0 for its guard, and a SPAWN of wave 0 for its own. -/
def waitQ (g : GuardRef) : State := sc fun k => { k with
  sluiceQ := [{ id := 0, wave := some 0, token := 5, guard := some g }], spawnQ := [{ op := 0, wave := 0, guard := g }] }
def waitE (g : GuardRef) : State := sc fun k => { k with
  launchQ := [{ wave := 0, asid := 0, node := 5, tick := none, guard := some g }], flumeQ := [{ coll0 with guard := some g }] }
def napping : Wave → Wave := fun w => { w with splits := [(0, { pc := 16, mask := allLanes, state := .held (.nap 5) })] }

theorem test_met_WaveAndTranslationEventsAct :
    (∀ b, ∃ g, (queued { mx (.mzero always 0) .waiting (some 0) with guard := some { value := b } }).group? 0 = some g ∧
      g.mq.find? (fun e => e.state = .waiting) = some { mx (.mzero always 0) .waiting (some 0) with guard := some { value := b } }) ∧
    (∀ g, ∃ q r, ((waitQ g).core 0).sluiceQ = [q] ∧ q.guard = some g ∧ ((waitQ g).core 0).spawnQ = [r] ∧ r.guard = g) ∧
    (∀ g, ∃ e q, ((waitE g).core 0).launchQ = [e] ∧ e.guard = some g ∧ ((waitE g).core 0).flumeQ = [q] ∧ q.guard = some g ∧
      q.early = none ∧ waveClear (waitE g) 0 0 = true) ∧
    waveClear (sw stOut) 0 1 = false ∧ ({ value := true } : GuardRef).ops = [] ∧ ({ value := true } : GuardRef).cause = none ∧
    (∃ g t, (sg tiled).group? 0 = some g ∧ NMap.get? g.tiles 0 = some t) ∧
    (sw napping).wave? 0 = some (napping c0.w) ∧ (sw napping).cycle < 5 ∧ 5 ≤ ({ sw napping with cycle := 5 } : State).cycle ∧
    (∃ g, (sg fun g => { g with lowered := true, spinMany := true }).group? 0 = some g ∧ g.lowered = true ∧ g.spinMany = true ∧
      s0.cycle < g.loweredAt + 4096 ∧ g.loweredAt + 4096 ≤ ({ s0 with cycle := 4096 } : State).cycle) ∧
    wantsPage s1 0 0 0 = true ∧ (∃ x, (lookup s1 0 0 0 .read).2 = .ok x) ∧ s0.wave? 0 = some c0.w ∧ 0 < c0.w.allot ∧ 191 < c0.w.allot ∧
    ((sc fun k => { k with bankFill := 0x80 }).core 0).bankFill.getLsbD 7 = true :=
  ⟨fun b => by cases b <;> exact ⟨_, rfl, by decide⟩, fun _ => ⟨_, _, rfl, rfl, rfl, rfl⟩,
    fun _ => ⟨_, _, rfl, rfl, rfl, rfl, rfl, rfl⟩, by decide, rfl, rfl, ⟨_, _, rfl, rfl⟩, rfl, by decide, by decide, ⟨_, rfl, rfl, rfl, by decide⟩,
    by decide, ⟨_, rfl⟩, rfl, by decide⟩

/-- The wave belongs to ASID 1, or is in its handler; s1 holds the MODE 7, s2 the cap 3800, s3 64 and s5 0, which is no MODE. -/
def user : Wave → Wave := fun w => { w with asid := 1 }
def scalars : Wave → Wave := fun w =>
  { (((w.setS 1 (Scalar.of 7)).setS 2 (Scalar.of 3800)).setS 3 (Scalar.of 64)) with frame := { w.frame with inh := true } }

theorem test_met_SystemRegistersAreReadAndWritten : s0.ctx? = some c0 ∧ (sw scalars).ctx? = some (cw scalars) ∧
    (∃ e, ({ rqn := 1, replay := [(0, { kind := .rest, flt := false, op := acc .nop })] } : Frame).entry = some e) ∧
    (∃ n r, regOf n = some r ∧ SysReg.ofWave r = true) ∧
    c0.eff always ≠ 0 ∧ c0.eff ⟨0, false⟩ = 0 ∧ (user c0.w).asid ≠ 0 ∧ c0.w.asid = 0 ∧ regOf 0x3FF = none ∧
    regDenied (user c0.w) 0x100 false false = none ∧ (regDenied c0.w 0x21 false false).isSome = true ∧
    c0.w.noRoom (.srd always (.s 7) 0x21) = false ∧ (s0.group? c0.w.group).isSome = true ∧ regDenied c0.w 0x13 true false = none ∧
    regDenied c0.w 0x100 true false = some .astbase ∧ SysReg.ofWave .astbase = false ∧
    roOk (unitRead s0 0 0 .astbase) .astbase 5 = true ∧ (unitWrite s0 0 0 .astbase 5).2 = none ∧
    roOk (unitRead s0 0 0 .devid) .devid 0x400 = false ∧ (unitWrite s0 0 0 .pwrcap 1).2.isSome = true ∧
    regOf 0x21 = some .tpc ∧ regOf 0x34 = some .rqmask ∧ regDenied (cw scalars).w 0x35 true true = some (.rqa 0) ∧
    (cw scalars).w.frame.entry = none ∧
    badMode ((cw scalars).get (sw scalars) 0 (.s 5) true).val = true ∧ badMode ((cw scalars).get (sw scalars) 0 (.s 1) true).val = false ∧
    (cw scalars).w.frame.inh = true ∧ 64 ≤ ((cw scalars).get (sw scalars) 0 (.s 3) true).val.toNat ∧
    ((cw scalars).get (sw scalars) 0 (.s 5) true).val.toNat < 64 ∧ ((cw scalars).get (sw scalars) 0 (.s 2) true).val.toNat = 3800 ∧
    (0 : Word64).toNat ≤ s0.dev.evHead.toNat ∧ s0.dev.attRun = false ∧ s0.dev.amRun = false ∧
    (s0.line (lineNo s0.dev.rcLine.toNat)).counter = none ∧ countersAt s0 (homeSlice s0 (64 * lineNo s0.dev.rcLine.toNat)) < 4096 ∧
    s0.dev.svcBusy = false ∧ (s0.modDev fun d => { d with svcBusy := true }).dev.svcBusy = true ∧ (∀ t < 4, (s0.tower t).down.getLsbD 9 = false) ∧
    4 ≤ ((List.range 16).filter fun i => (0xF000 : Word64).getLsbD i).length ∧ dropRefused s0 0 = none ∧
    (dropRefused (s0.modDev fun d => { d with svcBusy := true }) 0).isSome = true ∧ towerEmpty s0 3 = true ∧ towerEmpty s0 0 = false ∧
    s0.dev.portRun = 0 ∧ ((List.range 12).any fun i => bitOf 4095 i && goneTower s0 (i / 3)) = false ∧
    queueTower s0 15 = some 3 :=
  ⟨rfl, rfl, ⟨_, rfl⟩, ⟨0x10, _, rfl, by decide⟩, by decide +kernel⟩

/-- A program of group 0 and wave 0 on core 0 of s2, at its first instruction. x1 is 2, x2 a virtual address, x3 one that no
8-byte item may have, x4 −2^63; d0 and d1 name one element of I8 each, d2 one of I64. -/
def td0 : TDesc :=
  { base := 0x8000000000000100, n0 := 1, n1 := 1, n2 := 1, n3 := 1, s0 := 0, s1 := 0, s2 := 0, s3 := 0, fmt := .i8, scl := 0
    rnd := .rne, sat := false }
def td1 : TDesc := { td0 with base := 0x8000000000000200 }
def p1 : SluiceProg := {
  cmd := { id := 7, wave := some 0, group := some 0, token := 5, args := [1, 2, 3, 4] }, loaded := true
  x := [(1, 2), (2, 0x8000000000000040), (3, 0x8000000000000044)], td := [(0, td0), (1, td1), (2, { td0 with fmt := .i64 })]
  words := [0x48000000, 0x44000000, 0x48000000] }
def sq (p : SluiceProg) : State := s2.modCore 0 fun k => { k with sluice := some p }

/-- The program at index 0 has ENDL at index 1; inside the loop 0 to 1 it is at the ENDL. -/
theorem test_met_SluiceArithmeticAndBranches : ((sq p1).core (sq p1).cur.1).sluice = some p1 ∧ p1.xAt 1 = 2 ∧ p1.xAt 0 = 0 ∧
    p1.xAt 1 ≠ p1.xAt 0 ∧ (p1.icnt : Int) < p1.spc + 3 ∧ (p1.spc : Int) + (-1) < 0 ∧ (2 : Int) = p1.spc + (BitVec.toInt 2#14) ∧ 2 ≤ p1.icnt := by
  decide

theorem test_met_SluiceLoopsLoadsAndDescriptors : (∀ p, ((sq p).core (sq p).cur.1).sluice = some p) ∧
    (1 ≤ p1.icnt ∧ p1.instr? 1 = some .sEndl ∧ p1.instr? 2 ≠ some .sEndl) ∧ (∀ l ls, p1.loops = l :: ls → 1 ≤ l.stop) ∧ p1.xAt 5 = 0 ∧
    p1.xAt 1 ≠ 0 ∧ p1.loops.length < 4 ∧ 4 ≤ (List.replicate 4 ({ start := 0, stop := 1, count := 2 } : SLoop)).length ∧
    (let q : SluiceProg := { p1 with spc := 1, loops := [{ start := 0, stop := 1, count := 2 }] }
     (sq q).core (sq q).cur.1 = { (sq q).core 0 with sluice := some q } ∧ q.spc = 1) ∧
    (p1.xAt 3).toNat % 8 ≠ 0 ∧ (p1.xAt 2).toNat % 8 = 0 ∧ meetsDeco (sq p1) 0 7 [⟨p1.xAt 2, 8, false⟩] = false ∧
    (∃ bs, (sluiceRead (sq p1) 0 p1.cmd (p1.xAt 2) 8).2 = .ok bs) ∧ (∃ x, (sluiceRead (sq p1) 0 p1.cmd (p1.xAt 2 + 4096) 8).2 = .error x) ∧
    (∃ bs, (sluiceRead (sq p1) 0 p1.cmd (p1.xAt 2) 64).2 = .ok bs ∧ readDesc bs = none) ∧
    readDesc ([0, 1, 0, 0, 0, 0, 0, 0x80, 1, 0, 0, 0, 1, 0, 0, 0, 1, 0, 0, 0, 1, 0, 0, 0] ++ List.replicate 32 0 ++
      [2, 0, 1, 0, 0, 0, 0, 0]) = some { td0 with base := 0x8000000000000100, fmt := .i8 } ∧
    NMap.get? p1.td 7 = none ∧ NMap.get? p1.td 0 = some td0 ∧ td0.step 2 0 = some 2 ∧ (td0.addrBits : Int) + 2 < 2 ^ 48 ∧
    ({ td0 with fmt := .i4 } : TDesc).step 1 0 = none ∧ td0.step (-1024) 0 = some (-1024) ∧ (td0.addrBits : Int) + (-1024) < 0 ∧
    (sq p1).pendingDecos 0 p1.cmd.id = [] :=
  ⟨fun _ => rfl, by decide, (fun _ _ h => by cases h), by decide, by decide, by decide, by decide, ⟨rfl, rfl⟩, by decide, by decide, by decide,
    ⟨_, rfl⟩, ⟨_, rfl⟩, ⟨_, rfl, by decide⟩, by decide, rfl, rfl, by decide⟩

/-- A raw block of the one byte 'a', whose CRC-32C is 0xC1D04330, at 0; its output goes to d0. -/
def block0 : DecoBlock := { core := 0, cmd := 7, block := 0, td := td0, addr := 0x8000000000000000, spc := 0, locked := true }
def blockMem : Memory := Memory.writeNat (Memory.writeNat (Memory.writeNat (Memory.writeNat [] 0 8 0x0000000101024742) 8 4 1) 20 4 0xC1D04330) 32 1 0x61
def decoding : State := { (sq p1).modCluster 0 fun k => { k with decoNow := some block0 } with mem := blockMem }

theorem test_met_SluiceDataMovesAndBlocks :
    (∀ x : Xfer, ((sq { p1 with xfer := some x }).core 0).sluice = some { p1 with xfer := some x }) ∧ ((sq p1).core (sq p1).cur.1).sluice = some p1 ∧ NMap.get? p1.td 7 = none ∧
    NMap.get? p1.td 0 = some td0 ∧ NMap.get? p1.td 1 = some td1 ∧ td0.fmt = td1.fmt ∧ Fmt.isBlock td0.fmt = false ∧ td0.count = 1 ∧
    td0.count < (p1.xAt 1).toNat ∧ planesOf (sq p1) p1.cmd td0.fmt = some [(0, 0)] ∧ td0.fits (sq p1) p1.cmd 1 = true ∧
    td1.fits (sq p1) p1.cmd 1 = true ∧ ({ td0 with base := 0x8000FFFFFFFFFFFF, n1 := 2, s1 := 1 } : TDesc).fits (sq p1) p1.cmd 1 = false ∧
    planeTooNarrow td0.fmt [(0, 0)] = false ∧ planesOf (sq p1) p1.cmd .plane1 = none ∧
    meetsDeco (sq p1) 0 7 [td1.range 1 false, td0.range 1 true] = false ∧
    (takeLocksIn (sq p1) ([td1.range 1 false, td0.range 1 true].map fun r => r.lock (sq p1) 0 p1.cmd (.sluice 0 7))).isSome = true ∧
    (p1.xAt 2).toNat % 4 = 0 ∧ sluiceOk (sq p1) p1.cmd (p1.xAt 2) 4 = true ∧ badIndex td1.rows [0] = none ∧ (badIndex td1.rows [1]).isSome = true ∧
    Fmt.isPlane td1.fmt = false ∧ (td0.rmode p1.cmd).rnd ≠ 6 ∧ topkSource td1.fmt = true ∧
    ((p1.xAt 2).toNat % 32 = 0 ∧ (p1.xAt 3).toNat % 32 ≠ 0 ∧ (NMap.getD ((sq p1).cluster 0).decoQ 0 []).length < 4 ∧
      (takeLocksIn (sq p1) [(td0.range 1 true).lock (sq p1) 0 p1.cmd (.deco 0 7 0)]).isSome = true) ∧
    (let s := (sq p1).modCluster 0 fun k => { k with decoQ := [(0, [block0])] }
     (s.cluster 0).decoNow = none ∧ decoHeads (s.cluster 0) = [(0, block0)] ∧ (lockBlock s block0).isSome = true) ∧
    ((decoding.cluster 0).decoNow = some block0 ∧ (decoding.core block0.core).sluice = some p1 ∧
      (readBlock decoding p1.cmd block0).2 = .ok [0x61] ∧
      (writeBlock (readBlock decoding p1.cmd block0).1 p1.cmd block0 [0x61]).2 = none ∧
      (readBlock { decoding with mem := [] } p1.cmd block0).2 = .error 105 ∧ progHeld (freeBlock decoding 0 block0) p1 = false) :=
  ⟨fun _ => rfl, by decide +kernel⟩

/-- Barrier 3 of core 0 is group 0's; the program's command stands in the queue. -/
def started : State := sc fun k => { k with sluiceQ := [p1.cmd] }

theorem test_met_SluiceProgramsSynchroniseStartAndEnd :
    (let s : State := (sq p1).modCore 0 fun k => { k with bars := [(3, { target := 8, count := 7, gen := 5, owner := some 0 })] }
     (s.core s.cur.1).sluice = some p1 ∧ s.pendingDecos 0 p1.cmd.id = [] ∧ (s.bar 0 3).target ≠ 0 ∧ p1.cmd.group = some 0 ∧
       (s.bar 0 3).owner = some 0 ∧ 1 ≤ (p1.xAt 1).toNat ∧ (p1.xAt 1).toNat ≤ 65535 ∧ (s.bar 0 4).owner ≠ some 0) ∧
    (let q : SluiceProg := { p1 with wait := .barrier 3 5 }
     q.wait = .barrier 3 5 ∧ q.loaded = true ∧ q.stop = false ∧ progHeld (sq q) q = false ∧ q.resumed = false) ∧
    (p1.cmd.wave = some 0 ∧ p1.xAt 5 = 0 ∧ p1.signalled = false ∧ ∃ w, (sq p1).wave? 0 = some w ∧ w.alive = true) ∧
    (sq p1).tick.toNat < (p1.xAt 1).toNat ∧ (p1.xAt 5).toNat ≤ (sq p1).tick.toNat ∧
    ({ p1 with wait := .tick 2 } : SluiceProg).wait = .tick 2 ∧
    ((started.core 0).sluice = none ∧ (started.core 0).sluiceQ = [p1.cmd] ∧ p1.cmd.guard = none ∧ p1.cmd.tick = none ∧ p1.cmd.args.length = 4 ∧
      (∀ w, p1.cmd.wave = some w → waveClear started w p1.cmd.after = true) ∧ waveClear (sw stOut) 0 1 = false ∧
      (∀ g, (p1.cmd.gang started).bind started.gang? = some g → g.suspendReq = false) ∧
      ((p1.cmd.group.bind started.group?).bind fun g => g.savedProg) = none ∧
      let s := started.modGroup 0 fun g => { g with savedProg := some p1 }
      (((p1.cmd.group.bind s.group?).bind fun g => g.savedProg).filter fun p => p.cmd.id = p1.cmd.id) = some p1) ∧
    (let q : SluiceProg := { p1 with loaded := false, words := [] }
     ((sq q).core 0).sluice = some q ∧ progHeld (sq q) q = false ∧
       (∃ bs, (engineRead (sq q) 0 q.cmd.asid (q.cmd.image.toNat % 2 ^ 48) 4).2 = .ok bs) ∧
       ∃ e, (engineRead (sq q) 0 q.cmd.asid 8192 4).2 = .error e) ∧
    ({ p1 with stop := true } : SluiceProg).atBoundary = true ∧ ({ p1 with words := [0x80000000] } : SluiceProg).instr? 0 = none ∧
    (p1.instr? 0).isSome = true ∧ (∃ g, (sq p1).group? 0 = some g) :=
  ⟨by decide, by decide, ⟨rfl, rfl, rfl, _, rfl, by decide⟩, by decide, by decide, rfl,
    ⟨rfl, rfl, rfl, rfl, rfl, (fun _ h => by cases h; rfl), by decide, (fun _ h => by cases h; rfl), rfl, rfl⟩,
    ⟨rfl, by decide, ⟨_, rfl⟩, _, rfl⟩, by decide, by decide, by decide, _, rfl⟩

theorem test_met_ServiceEventsAct :
    ((s0.frozen = false ∧ s0.endWritten = false ∧ s0.pinLow = false ∧ s0.recovery = false ∧ s0.dev.attRun = false ∧ s0.dev.amRun = false) ∧
    ({ s0 with frozen := true, pinLow := true, endWritten := true, recovery := true } : State).frozen = true ∧
    (0 < 64 ∧ 64 % 64 + 64 ≤ 64 ∧ 127 % 64 + 1 ≤ 64) ∧ lineBad s0 64 = false ∧ lineBad s0 (2 ^ 43) = true ∧ (s0.line (lineNo 64)).writers = [] ∧
    reaches s0 64 = true ∧ reaches s0 (2 ^ 43) = false ∧ 64 % AtomWidth.b32.bytes = 0 ∧ 66 % AtomWidth.b32.bytes ≠ 0 ∧
    (s0.tower 3).wayReq.getLsbD 15 = true ∧ ((s0.modTower 3 fun t => { t with wayReq := 0x7FFF }).tower 3).wayReq.getLsbD 15 = false ∧
    (let k := (sc fun k => { k with bankReq := 0x80 }).core 0
     k.bankReq.getLsbD 7 = true ∧ k.bankGated.getLsbD 7 = false ∧ k.scratchBanks ≤ 7 ∧ k.scratchBanks ≤ 6 ∧ k.bankGated.getLsbD 6 = false) ∧
    portUp s0 11 = false ∧ portUp (cm {}) 0 = true ∧ NMap.getD s0.dev.ports 11 0 < 2#2 ∧ goneTower s0 3 = false ∧
    (let s := s0.modTower 3 fun t => { t with sweep := true, sweepPtr := (List.range 64).map fun i => (192 + i, if i = 63 then 2047 else 2048) }
     3 = 255 / 64 ∧ (s.tower 3).sweep = true ∧ NMap.getD (s.tower 3).sweepPtr 255 0 = 2047 ∧
       ∀ i, i < 63 → NMap.getD (s.tower 3).sweepPtr (64 * 3 + i) 0 = 2048) ∧
    (s0.tower 0).dieDrop = none ∧ ((s0.modTower 3 fun t => { t with dieDrop := some 9 }).tower 3).dieDrop = some 9 ∧
    (s0.groups.any fun g => (g.2.live && towerOf g.2.core = 3) && g.2.mq.any fun e => e.state = .running) = false ∧
    s0.dev.amBase.toNat = 0 ∧ tableOk [0x8000, 0x8001] = true ∧ tableOk [0x8000, 0x8000] = false) ∧
    ∀ st ∈ [NodeState.ready, .running], ∃ n, ({ s0 with nodes := [(5, { addr := 0, bytes := [], st := st })] } : State).node? 5 = some n ∧
      n.ended = false ∧ (n.st = .ready ∨ n.st = .running) ∧ recNat n.bytes 0 1 = 0 :=
  ⟨by decide +kernel,
    fun st h => ⟨_, rfl, rfl, by
      simp only [List.mem_cons, List.not_mem_nil, or_false] at h
      exact h, rfl⟩⟩

/-- Queue 0, whose descriptor is at 0x4000, has one entry at 0x5000 of this opcode, address and number; one 1 GiB page of ASID 0
reaches memory at 0. -/
def feMem (op a n : Nat) : Memory := [(0x0, 0x1001), (0x1000, 0x2001), (0x2000, 0x1D), (0x4000, 0x5000), (0x4008, 0x0100000000000010),
  (0x4018, 1), (0x5000, op), (0x5008, a), (0x5010, n)].foldl (fun m x => Memory.writeNat m x.1 8 x.2) []
def fe (op a n : Nat) : State := { s0 with mem := feMem op a n, dev := { s0.dev with hqBase := 0x4000 } }

/-- The opcode of the entry that tower 0's front end finds, and its queue. -/
def found (s : State) : Option (Nat × Nat) :=
  match (pollAll s (frontQueues s 0)).2 with
  | some (q, .entry _ bs) => some (q, recNat bs 0 1)
  | _ => none

/-- Records of a transform that fills a line at 0x10000, of a sluice node for core 0 and of a grid of one gang of one group of one
wave. -/
def fillRec : List Byte := [1] ++ List.replicate 7 0 ++ [1] ++ List.replicate 17 0 ++ [1] ++ List.replicate 5 0 ++ [64] ++ List.replicate 95 0
def sluiceRec : List Byte := [2] ++ List.replicate 127 0
def gridRec : List Byte := List.replicate 16 0 ++ [1, 0, 1, 0, 1, 0, 1, 1] ++ List.replicate 104 0
def gridNode : Node := { addr := 0, bytes := gridRec, kd := List.replicate 8 0 ++ [8] ++ List.replicate 23 0, st := .ready, prio := 1 }
def noded (nd : Node) : State := { fe 0 0 0 with nodes := [(5, nd)] }

/-- The wave stands elsewhere, and its core's slots are free; the pool of tower 0 holds 100 blocks. -/
def placed (f : Wave → Wave) : State :=
  ((s0.modCore 0 fun k => { k with slots := [] }).modTower 0 fun t => { t with ctxSize := 51200 }).modWave 0 fun w => f { w with issue := none }
def resident (f : Wave → Wave) : State :=
  { (s0.modTower 0 fun t => { t with ctxSize := 51200 }).modWave 0 fun w => f { w with issue := none } with nodes := [(5, gridNode)] }

/-- Every slot of cores 0 to 3 is taken, those of core 0 by wave 0, and wave 1, of higher priority, has been woken there. -/
def crowded : State :=
  let s := resident id
  { s with
    nodes := [(5, { gridNode with st := .done })]
    gangs := NMap.set s.gangs 7 { node := 5, gangid := 0, cluster := 0, groups := [1], placedAt := 0 }
    groups := NMap.set s.groups 1 { s0.group 0 with gang := 7 }
    waves := NMap.set s.waves 1 { c0.w with group := 1, place := .joining, woken := some 1, issue := none }
    cores := (List.range 4).map fun i => (i, { s.core i with slots := (List.range 64).map fun j => (j, if i = 0 then 0 else 99) }) }

theorem test_met_FrontEndsServeTheirQueues : (∀ k ∈ [0, 1, 3], frontOn (fe k 0 0) 0 = true ∧ found (fe k 0 0) = some (0, k)) ∧
    found (fe 2 0x6000 1) = some (0, 2) ∧
    (decrement (fe 2 0x6000 1) 0 0x6000 1).2 = none ∧ (decrement (fe 2 0x40000000 1) 0 0x40000000 1).2.isSome = true ∧
    (let s : State := { s0 with cycle := 4096 }
     frontOn s 0 = true ∧ (s.tower 0).feSince + 4096 ≤ s.cycle ∧ (pollAll s (frontQueues s 0)).2 = none ∧
       anyHeld s (frontQueues s 0) = false) ∧ frontOn (s0.modTower 0 fun t => { t with feIdle := true }) 0 = false := by
  decide +kernel

theorem test_met_SchedulerEventsAct :
    (let s : State := { s0 with nodes := [(5, { addr := 0, bytes := fillRec })] }.modCore 0 fun k => { k with
       launchQ := [{ wave := 0, asid := 0, node := 5, tick := none }] }
     (∃ e nd, (s.core 0).launchQ = [e] ∧ s.node? e.node = some nd ∧ e.guard = none ∧ e.tick = none ∧ nd.invalid = none) ∧
       (s.tower (towerOf 0)).noplace = false ∧ (s.tower (towerOf 0)).gone = false ∧ s.recovery = false) ∧
    (recordCommonOk fillRec = true ∧ transformOk fillRec = true ∧ recordCommonOk sluiceRec = true ∧ sluiceNodeOk sluiceRec = true ∧
      recordCommonOk ([3] ++ List.replicate 127 0) = false) ∧
    (gridNode.hasGang (noded gridNode) = true ∧ firstReady (noded gridNode) 5 gridNode = true ∧
      placementOk (noded gridNode) gridNode [(1, [0])] = true ∧ (readAllArgs gridNode [(1, [0])] 0 (noded gridNode)).2.toBool = true ∧
      (readAllArgs { gridNode with bytes := gridRec.set 0x2C 1 } [(1, [0])] 0 s0).2.toBool = false) ∧
    (let nd : Node := { addr := 0, bytes := fillRec, st := .ready }
     recNat nd.bytes 0 1 = 1 ∧ nd.due (noded nd) = true ∧ nd.lines < recNat nd.bytes 0x20 8 / 64 ∧
       (transformLine (noded nd) nd).2.toBool = true ∧ (transformLine s0 nd).2.toBool = false) ∧
    (let nd : Node := { addr := 0, bytes := sluiceRec, st := .ready }
     recNat nd.bytes 0 1 = 2 ∧ nd.due s0 = true ∧ recNat nd.bytes 0x30 2 = 0 ∧ goneTower s0 (towerOf 0) = false ∧
       (s0.core 0).sluiceQ.length < 8) ∧
    (let nd : Node := { addr := 0, bytes := fillRec, st := .completing }
     nodeOver (noded nd) 5 nd = true ∧ nodeWaves (noded nd) 5 = [] ∧ gangsOf (noded nd) 5 = [] ∧ nd.core = none ∧
       nodeOver s0 5 { nd with st := .running } = false) ∧
    (let s : State := crowded
     ∃ x, s.wave? 0 = some x ∧ x.place = .resident 0 0 ∧ isVictim s 0 = true ∧ poolFits s 0 (waveBlocks s 0) = true ∧ x.canStop = true ∧
       x.helpers = [] ∧ ∀ y ∈ s.waves, y.2.helperWave = false) ∧
    (let s := placed fun w => { w with place := .evicted 3 }
     ∃ x, s.wave? 0 = some x ∧ x.place = .evicted 3 ∧ gangStays s x = true ∧ outrankedAt s 0 (homeCore s x) (wavePrio s 0, 3) = false ∧
       slotFits s (homeCore s x) 0 x.allot = true ∧ x.rejoin = [] ∧
       damagedBlock s x.ctx none = none ∧ damagedBlock s [3] (some 3) = some 3) ∧
    (let s := resident id
     ∃ g, s.gang? (s.group 0).gang = some g ∧ g.live = true ∧ g.suspendReq = false ∧ g.suspended = none ∧
       poolFits s (g.cluster / 16) (gangBlocks s g) = true) ∧
    (let s := (placed fun w => { w with place := .suspended false }).modGang (s0.group 0).gang fun g => { g with suspended := some 2 }
     ∃ g, s.gang? (s.group 0).gang = some g ∧ g.suspended.isSome = true ∧ g.groups = [0] ∧ goneTower s (g.cluster / 16) = false ∧
       gangOutranked s (s.group 0).gang g = false ∧ resumeFits s 0 0 [0] = true ∧ clusterOf 0 = g.cluster ∧
       damagedBlock s (gangContext s g) none = none) ∧
    (let s := placed fun w => { w with place := .joining, joinZero := true, joinAddr := some (128, 128) }
     ∃ x, s.wave? 0 = some x ∧ (x.place = .joining && x.joinZero && x.woken.isNone && x.joinAddr.map Prod.fst = some 128) = true) ∧
    (let s := placed fun w => { w with place := .joining, joinZero := true, woken := some 1 }
     ∃ x, s.wave? 0 = some x ∧ x.place = .joining ∧ x.woken = some 1 ∧ gangStays s x = true ∧
       outrankedAt s 0 0 (wavePrio s 0, 1) = false ∧ slotFits s 0 0 x.allot = true ∧ homeCore s x = 0 ∧
       damagedBlock s x.ctx none = none) ∧
    let s := sw fun w => { w with evictReq := true, frame := { w.frame with mask := true } }
    ∃ x, s.wave? 0 = some x ∧ x.place = .resident 0 0 ∧ x.evictReq = true ∧ x.frame.mask = true ∧ x.frame.ovd = false ∧
      s.cycle < x.reqAt + 65536 ∧ x.reqAt + 65536 ≤ ({ s with cycle := 65536 } : State).cycle :=
  ⟨⟨⟨_, _, rfl, rfl, rfl, rfl, rfl⟩, rfl, rfl, rfl⟩, by decide +kernel,
    by decide +kernel, by decide +kernel,
    by decide +kernel, by decide +kernel,
    ⟨_, rfl, rfl, by decide +kernel⟩,
    ⟨_, rfl, rfl, by decide +kernel⟩,
    ⟨_, rfl, rfl, rfl, rfl, by decide +kernel⟩,
    ⟨_, rfl, rfl, rfl, by decide +kernel⟩,
    ⟨_, rfl, by decide +kernel⟩,
    ⟨_, rfl, rfl, rfl, by decide +kernel⟩,
    _, rfl, rfl, rfl, rfl, rfl, by decide +kernel⟩

/-- One well-formed instruction of each kind, at the greatest value of some fields. -/
theorem test_met_EncodingsRoundTrip : (Instr.imad ⟨always, .z32, .v 191, .s 31, .q 3, .zero⟩).wf = true ∧
    (encodeWave (.imad ⟨always, .z32, .v 191, .s 31, .q 3, .zero⟩)).isSome = true ∧ (Instr.sLi 15 0x3FFF).wf = true ∧
    (encodeSluice (.sLi 15 0x3FFF)).isSome = true ∧ Instr.deviceReset.wf = true ∧ isEvent .deviceReset = true ∧
    (decodeWave 0x3EE1000000000000).isSome = true ∧ (decodeSluice 0x48000000).isSome = true := by decide +kernel

/-- A clause of slot 0 that issued at cycle 1 still has an SLAUNCH to run. -/
def late : State := sw fun w => { w with issue := w.issue.map fun i => { i with
  since := 1, words := [{ word := 0x60E0C0C1C4F00000, hdr := 0, idx := 0 }] } }

theorem test_met_StepsRunTheDecodedInstruction : (∃ slot wid w i iw ctx, s0.agenda = [.issue 0 0] ∧ NMap.get? (s0.core 0).port 0 = some slot ∧
      NMap.get? (s0.core 0).slots slot = some wid ∧ s0.wave? wid = some w ∧ w.issue = some i ∧ i.mask ≠ 0 ∧ i.words[i.idx]? = some iw ∧
      ({ s0.modWave wid fun w => { w with issue := some i.enterRep } with cur := (0, slot), agenda := [] } : State).ctx? = some ctx ∧
      (∃ ins, decodeWave (i.enterRep.word iw) = some ins ∧ Instr.rejected ins ctx.w.allot = none ∧
        mustFollow s0 0 slot i.enterRep ins ctx.w.group = false)) ∧
    mustFollow late 0 1 ({ split := 0, hdr := 0, mask := allLanes, park := false, words := [], next := 0, since := 2 }) (.slaunch always 0 1 4 none) 0 = true ∧
    (Instr.rejected (.iadd ⟨always, .s32, .v 191, .v 1, .reg (.v 2)⟩) 184).isSome = true ∧ decodeWave 0x26E0000000000000 = none ∧
    (let s := sp p0
     (s.core 0).sluice = some p0 ∧ s.frozen = false ∧ p0.loaded = true ∧ p0.stop = false ∧ progHeld s p0 = false ∧ p0.resumed = false ∧
       p0.wait = .none ∧ p0.xfer = none ∧ p0.words[p0.spc]? = some 0x48000000 ∧ decodeSluice 0x48000000 = some .sHalt ∧
       decodeSluice 0x80000000 = none) ∧
    isEvent .freezeEnd = true ∧ Instr.actsFrozen .freezeEnd = true ∧ isEvent .deviceReset = true ∧ s0.frozen = false :=
  ⟨⟨_, _, _, _, _, _, rfl, rfl, rfl, rfl, rfl, by decide, rfl, rfl, .nop, by decide +kernel, by decide +kernel, by decide +kernel⟩, by decide +kernel, by decide +kernel, by decide +kernel,
    ⟨rfl, rfl, rfl, rfl, rfl, rfl, rfl, rfl, rfl, by decide +kernel⟩, by decide +kernel, by decide +kernel, by decide +kernel, rfl⟩

theorem test_met_StepsKeepMemoryCanonical : Memory.wf State.reset.mem = true ∧ Memory.wf code = true := by decide +kernel

end Sys2Proof.Tests
end

/-! ## Proofs: modular arithmetic, votes and predicate logic (R143, R144, R148, R153)

The four modular instructions are one arithmetic operation, `modAlu`, with four residue functions; MODRCP's is Euclid's
algorithm. A vote writes its predicate lane by lane, or a scalar once. -/

namespace Sys2Proof.Machine

/-! ### What well-formedness says of a destination and its sources (R68, R70) -/

theorem Instr.ownWf_of_wf {i : Instr} (h : i.wf = true) : i.ownWf = true := by
  simp only [Instr.wf, Bool.and_eq_true] at h
  exact h.2

theorem use_dst_vs {w64 : Bool} {d : Operand} (h : (use .d .dst w64 d).wf = true) : d.vs = true := by
  cases d <;> cases w64 <;> simp_all [use, OpUse.wf, UseKind.writes, Operand.vs]

/-- The destination of an instruction is a vector register or a scalar. -/
theorem Instr.wf_dst_vs {i : Instr} {w64 : Bool} {d : Operand} {us : List OpUse} (hu : i.uses = use .d .dst w64 d :: us)
    (h : i.wf = true) : d.vs = true := by
  simp only [Instr.wf, hu, List.all_cons, Bool.and_eq_true] at h
  obtain ⟨⟨⟨⟨-, hd, -⟩, -⟩, -⟩, -⟩ := h
  exact use_dst_vs hd

/-- A scalar destination takes no lane-dependent source, unless the instruction reduces. -/
theorem Instr.wf_uniform {i : Instr} {w64 : Bool} {d : Operand} {us : List OpUse} (hu : i.uses = use .d .dst w64 d :: us)
    (hr : i.reduces = false) (h : i.wf = true) (hd : d.isS = true) :
    ∀ u ∈ us, u.kind.reads = true → u.o.perLane = false := by
  intro u hmem hk
  have hS : (i.uses.any fun u => u.kind.writes && u.o.isS) = true := by
    cases w64 <;> simp [hu, use, UseKind.writes, hd]
  simp only [Instr.wf, Instr.unitOk, hr, hS, Bool.and_eq_true, Bool.not_true, Bool.false_or, Bool.not_eq_true'] at h
  obtain ⟨⟨-, hun⟩, -⟩ := h
  simpa [hk] using List.any_eq_false.1 hun u (by simp [hu, hmem])

theorem use_o (f : Field) (k : UseKind) (w64 : Bool) (o : Operand) : (use f k w64 o).o = o := by cases w64 <;> rfl

theorem use_kind (f : Field) (k : UseKind) (w64 : Bool) (o : Operand) : (use f k w64 o).kind = k := by cases w64 <;> rfl

/-- What an instruction on words with a register destination needs of its operands: 32-bit width, a register to write, and
no lane-dependent source where that is a scalar. -/
structure WordForm (d : Operand) (ty : IntTy) (srcs : List Src) : Prop where
  narrow : ty.w64 = false
  dst : d.vs = true
  uniform : d.isS = true → srcs.any Src.perLane = false

theorem IntTy.narrow_of_word {t : IntTy} (h : t.word = true) : t.w64 = false := by cases t <;> simp_all [IntTy.word, IntTy.w64]

theorem AluI3.wordForm {f : AluI3} {i : Instr} (hu : i.uses = f.uses) (hr : i.reduces = false) (ho : i.ownWf = f.ty.word)
    (h : i.wf = true) : WordForm f.d f.ty (AluI3.srcs f) where
  narrow := IntTy.narrow_of_word (ho ▸ Instr.ownWf_of_wf h)
  dst := Instr.wf_dst_vs hu h
  uniform hd := by
    have hun := Instr.wf_uniform hu hr h hd
    simpa [use_o, use_kind, UseKind.reads, AluI3.srcs, Src.perLane] using hun

theorem AluI.wordForm {f : AluI} {i : Instr} (hu : i.uses = f.uses) (hr : i.reduces = false)
    (ho : i.ownWf = (f.immOk && f.ty.word)) (h : i.wf = true) : WordForm f.d f.ty (AluI.srcs f) where
  narrow := IntTy.narrow_of_word ((Bool.and_eq_true_iff.1 (ho ▸ Instr.ownWf_of_wf h)).2)
  dst := Instr.wf_dst_vs hu h
  uniform hd := by
    have hun := Instr.wf_uniform hu hr h hd
    cases hb : f.b <;>
      simpa [hb, SrcB.use, SrcB.src, use_o, use_kind, UseKind.reads, AluI.srcs, Src.perLane] using hun

/-! ### Operands that an arithmetic instruction traps on (R143) -/

/-- The lanes of the pass whose operands are bad. -/
def AluOp.badMask (a : AluOp) (c : Ctx) (s : State) (p : Pop) : LaneMask :=
  maskOf fun l => (passLanes (c.eff a.g) a.scalar).contains l && a.bad (a.vals c s p l)

/-- A lane with a bad operand traps the instruction before anything is written. -/
theorem AluOp.run_bad (a : AluOp) {s : State} {c : Ctx} {p : Pop} (hc : s.ctx? = some c)
    (hp : popPlan c s a.srcs (passLanes (c.eff a.g) a.scalar) = .ok p)
    (hb : ∃ l ∈ passLanes (c.eff a.g) a.scalar, a.bad (a.vals c s p l) = true) :
    a.run s = .next (trapNow c s { cause := 66, lanes := if a.scalar then c.eff a.g else a.badMask c s p }) := by
  have hne : (passLanes (c.eff a.g) a.scalar).filter (fun l => a.bad (a.vals c s p l)) ≠ [] := by
    obtain ⟨l, hl, hbl⟩ := hb
    exact List.ne_nil_of_mem (List.mem_filter.2 ⟨hl, hbl⟩)
  have hmask : (maskOf fun l => ((passLanes (c.eff a.g) a.scalar).filter fun l => a.bad (a.vals c s p l)).contains l) =
      a.badMask c s p := by
    refine congrArg maskOf (funext fun l => ?_)
    rw [Bool.eq_iff_iff]
    simp
  unfold AluOp.run
  rw [withCtx_some hc]
  simp only [hp, if_pos hne, hmask]
  rfl

theorem badModulus_eq_not (m : Nat) : badModulus m = !(decide (2 ≤ m) && decide (m ≤ 2 ^ 31 - 1)) := by
  rw [Bool.eq_iff_iff]
  simp [badModulus]

theorem badModulus_eq_false (m : Nat) : badModulus m = false ↔ 2 ≤ m ∧ m ≤ 2 ^ 31 - 1 := by
  rw [badModulus_eq_not]
  simp

/-! ### A modular operation -/

/-- A modular instruction whose modulus is source k, and whose result in a lane is `r` of the first two sources, read by
TYPE, and of the modulus. -/
def modAlu (g : Guard) (d : Operand) (ty : IntTy) (srcs : List Src) (k : Nat) (r : Int → Int → Nat → Nat) : AluOp where
  g := g
  dst := intDest d ty
  srcs := srcs
  f := fun _ _ _ vs =>
    plain (BitVec.ofNat 64 (r (IntTy.elem ty 0 (bitsOf vs 0).toNat) (IntTy.elem ty 0 (bitsOf vs 1).toNat) (u32At vs k)))
  bad := fun vs => badModulus (u32At vs k)

theorem AluI3.modOp_eq_modAlu (f : AluI3) (g : Int → Int → Int) :
    AluI3.modOp f g = modAlu f.g f.d f.ty (AluI3.srcs f) 2 fun a b m => (g a b % (m : Int)).toNat := rfl

theorem execModrcp_eq_modAlu (f : AluI) (s : State) :
    execModrcp f s = (modAlu f.g f.d f.ty (AluI.srcs f) 1 fun a _ m => modInverse a m).run s := rfl

theorem AluOp.bitsOf_vals (a : AluOp) (c : Ctx) (s : State) (p : Pop) (l j : Nat) :
    (bitsOf (a.vals c s p l) j).toNat = (a.srcs.map fun x => (c.read s p.word l x).val.toNat).getD j 0 := by
  simp only [bitsOf, AluOp.vals, List.getD_eq_getElem?_getD, List.getElem?_map]
  cases a.srcs[j]? <;> rfl

/-- A modular operation traps on a bad modulus, and otherwise each lane holds its residue. -/
theorem modular_of_modAlu {i : Instr} {g : Guard} {d : Operand} {ty : IntTy} {srcs : List Src} {k : Nat}
    {r : Int → Int → Nat → Nat} {post : Int → Int → Nat → Nat → Prop}
    (hex : ∀ s, exec i s = (modAlu g d ty srcs k r).run s) (hwf : i.wf = true → WordForm d ty srcs)
    (hr : ∀ a b m, 2 ≤ m → m ≤ 2 ^ 31 - 1 → r a b m < m ∧ post a b m (r a b m)) :
    modular i g ty d srcs (fun xs => xs.getD k 0) post := by
  intro s c p hc hi hp xs m bad
  obtain ⟨hnarrow, hvs, huni⟩ := hwf hi
  have hsc : (modAlu g d ty srcs k r).scalar = d.isS := AluOp.scalar_eq _ rfl hvs huni
  have hm : ∀ l, u32At ((modAlu g d ty srcs k r).vals c s p l) k = m l := fun l => by
    rw [u32At, AluOp.bitsOf_vals]; rfl
  have hbad : ∀ l, (modAlu g d ty srcs k r).bad ((modAlu g d ty srcs k r).vals c s p l) = badModulus (m l) := fun l => by
    rw [← hm]; rfl
  refine ⟨fun hok => ?_, fun hfail => ?_⟩
  · obtain ⟨t, hrun, -, hheld⟩ := AluOp.completes (modAlu g d ty srcs k r) hc rfl hvs huni hp
      (fun l hl => by rw [hbad, badModulus_eq_false]; exact hok l hl) (fun _ _ => rfl) rfl
    refine ⟨t, by rw [hex, hrun], fun l hl => ?_⟩
    obtain ⟨hlo, hhi⟩ := hok l hl
    obtain ⟨hlt, hpost⟩ := hr (IntTy.elem ty 0 ((xs l).getD 0 0)) (IntTy.elem ty 0 ((xs l).getD 1 0)) (m l) hlo hhi
    have hval : ((modAlu g d ty srcs k r).f c s l ((modAlu g d ty srcs k r).vals c s p l)).1.val.toNat =
        r (IntTy.elem ty 0 ((xs l).getD 0 0)) (IntTy.elem ty 0 ((xs l).getD 1 0)) (m l) % 2 ^ 64 := by
      rw [← hm l]
      refine (BitVec.toNat_ofNat ..).trans ?_
      rw [AluOp.bitsOf_vals, AluOp.bitsOf_vals]
      rfl
    have h := hheld l hl
    rw [hnarrow] at h
    rw [h, stored_low d hvs, hval, Nat.mod_eq_of_lt (by omega), Nat.mod_eq_of_lt (by omega)]
    exact hpost
  · rw [hex, AluOp.run_bad _ hc (by rw [hsc]; exact hp)]
    · have hmask : (modAlu g d ty srcs k r).badMask c s p = bad := by
        refine congrArg maskOf (funext fun l => ?_)
        rw [hbad, badModulus_eq_not, hsc]
        rfl
      rw [hmask, hsc]
      rfl
    · obtain ⟨l, hl, hlm⟩ := hfail
      refine ⟨l, by rw [hsc]; exact hl, ?_⟩
      rw [hbad, ← Bool.not_eq_false, badModulus_eq_false]
      exact hlm

/-! ### Residues and inverses -/

/-- The least residue is below the modulus, and is the residue of the exact value. -/
theorem residue_toNat (x : Int) {m : Nat} (hm : 2 ≤ m) : (x % (m : Int)).toNat < m ∧ (((x % (m : Int)).toNat : Nat) : Int) = x % m := by
  have h0 : (0 : Int) ≤ x % m := Int.emod_nonneg _ (by omega)
  have h1 : x % (m : Int) < m := Int.emod_lt_of_pos _ (by omega)
  omega

/-- Euclid's algorithm ends with the greatest common divisor: the product of the two remainders halves in every step. -/
theorem euclid_fst : ∀ (n : Nat) (r0 r1 t0 t1 : Int), 0 < r0 → 0 ≤ r1 → r1 ≤ r0 → r0 * r1 < 2 ^ n →
    (euclid n r0 r1 t0 t1).1 = Int.gcd r0 r1 := by
  intro n
  induction n with
  | zero =>
    intro r0 r1 t0 t1 h0 h1 _ hlt
    obtain rfl : r1 = 0 := by nlinarith
    simp [euclid, abs_of_pos h0]
  | succ n ih =>
    intro r0 r1 t0 t1 h0 h1 hle hlt
    unfold euclid
    split
    · next h => simp [h, abs_of_pos h0]
    · next h =>
      have hpos : 0 < r1 := by omega
      have hrem : r0 % r1 < r1 := Int.emod_lt_of_pos _ hpos
      have hrem0 : 0 ≤ r0 % r1 := Int.emod_nonneg _ h
      have hquot : 1 ≤ r0 / r1 := (Int.le_ediv_iff_mul_le hpos).2 (by omega)
      have hdiv : r1 * (r0 / r1) + r0 % r1 = r0 := Int.mul_ediv_add_emod r0 r1
      have hhalf : 2 * (r0 % r1) ≤ r0 := by nlinarith
      rw [ih _ _ _ _ hpos hrem0 hrem.le (by rw [pow_succ] at hlt; nlinarith)]
      rw [Int.gcd_comm, Int.gcd_emod]

/-- The coefficients of Euclid's algorithm: each times a is its remainder, modulo m. -/
theorem euclid_coeff {a m : Int} : ∀ (n : Nat) (r0 r1 t0 t1 : Int), t0 * a ≡ r0 [ZMOD m] → t1 * a ≡ r1 [ZMOD m] →
    (euclid n r0 r1 t0 t1).2 * a ≡ (euclid n r0 r1 t0 t1).1 [ZMOD m] := by
  intro n
  induction n with
  | zero => intro r0 r1 t0 t1 h0 _; exact h0
  | succ n ih =>
    intro r0 r1 t0 t1 h0 h1
    unfold euclid
    split
    · exact h0
    · refine ih _ _ _ _ h1 ?_
      have h := h0.sub (h1.mul_left (r0 / r1))
      rw [Int.emod_def, mul_comm r1]
      convert h using 1
      ring

/-- The algorithm on a modulus below 2^31 and a residue: fuel 64 is enough. -/
theorem euclid_modulus (a : Int) {m : Nat} (hm : 2 ≤ m) (hm' : m ≤ 2 ^ 31 - 1) :
    (euclid 64 m (a % m) 0 1).1 = Int.gcd a m ∧
      (euclid 64 m (a % m) 0 1).2 * a ≡ (euclid 64 m (a % m) 0 1).1 [ZMOD m] := by
  have h0 : (0 : Int) ≤ a % m := Int.emod_nonneg _ (by omega)
  have h1 : a % (m : Int) < m := Int.emod_lt_of_pos _ (by omega)
  have hm'' : (m : Int) < 2 ^ 31 := by omega
  constructor
  · rw [euclid_fst _ _ _ _ _ (by omega) h0 h1.le (by nlinarith), Int.gcd_comm, Int.gcd_emod]
  · exact euclid_coeff _ _ _ _ _ (by simp [Int.ModEq]) (by simp [Int.ModEq])

/-- R144: the inverse where there is one, or else 0. -/
theorem modInverse_spec (a : Int) {m : Nat} (hm : 2 ≤ m) (hm' : m ≤ 2 ^ 31 - 1) :
    if Int.gcd a m = 1 then 1 ≤ modInverse a m ∧ modInverse a m < m ∧ (a * (modInverse a m : Int)) % m = 1
    else modInverse a m = 0 := by
  obtain ⟨hgcd, hcoeff⟩ := euclid_modulus a hm hm'
  unfold modInverse
  simp only [hgcd, Nat.cast_eq_one]
  split
  · next h =>
    obtain ⟨hlt, hres⟩ := residue_toNat (euclid 64 m (a % m) 0 1).2 hm
    have hone : (a * (((euclid 64 m (a % m) 0 1).2 % (m : Int)).toNat : Int)) % m = 1 := by
      rw [hres, Int.mul_emod, Int.emod_emod, ← Int.mul_emod, mul_comm, hcoeff.eq, hgcd, h]
      exact Int.emod_eq_of_lt (by omega) (by omega)
    refine ⟨?_, hlt, hone⟩
    rw [Nat.one_le_iff_ne_zero]
    intro hzero
    simp [hzero] at hone
  · rfl

theorem modInverse_lt (a : Int) {m : Nat} (hm : 2 ≤ m) (hm' : m ≤ 2 ^ 31 - 1) : modInverse a m < m := by
  have h := modInverse_spec a hm hm'
  split at h
  · exact h.2.1
  · omega

/-- MODMUL, MODADD and MODSUB: the least residue of an exact function of a and b. -/
theorem modular_of_residue {f : AluI3} {i : Instr} {g : Int → Int → Int} (hex : ∀ s, exec i s = (AluI3.modOp f g).run s)
    (hu : i.uses = f.uses) (hr : i.reduces = false) (ho : i.ownWf = f.ty.word) :
    modular i f.g f.ty f.d (AluI3.srcs f) (fun xs => xs.getD 2 0) (fun a b m r => (r : Int) = g a b % m) :=
  modular_of_modAlu (fun s => by rw [hex, AluI3.modOp_eq_modAlu]) (AluI3.wordForm hu hr ho) fun a b _ hm _ => residue_toNat (g a b) hm

/-- Settles O7: one modular operation with the residue of a product, a sum or a difference, or with Euclid's inverse. -/
theorem modularArithmeticWrites : Obligations.ModularArithmeticWrites :=
  ⟨fun _ => ⟨modular_of_residue (g := fun a b => a * b) (fun _ => rfl) rfl rfl rfl,
      modular_of_residue (g := fun a b => a + b) (fun _ => rfl) rfl rfl rfl,
      modular_of_residue (g := fun a b => a - b) (fun _ => rfl) rfl rfl rfl⟩,
    fun f => modular_of_modAlu (execModrcp_eq_modAlu f) (AluI.wordForm rfl rfl rfl)
      fun a _ _ hm hm' => ⟨modInverse_lt a hm hm', modInverse_spec a hm hm'⟩⟩

/-! ### Writing bits of a predicate -/

/-- Write one bit of a predicate in each of these lanes, one after another. -/
def Wave.setPEach (w : Wave) (p : Nat) (b : Nat → LaneMask) (ls : List Nat) : Wave :=
  ls.foldl (fun w l => w.setPBits p (laneBit l) (b l)) w

theorem Wave.setPBits_withPreds (w : Wave) (p : Nat) (m b : LaneMask) : w.setPBits p m b = w.withPreds (w.setPBits p m b).p := rfl

theorem Wave.setPEach_withPreds (p : Nat) (b : Nat → LaneMask) : ∀ (ls : List Nat) (w : Wave),
    w.setPEach p b ls = w.withPreds (w.setPEach p b ls).p := by
  intro ls
  induction ls with
  | nil => intro w; rfl
  | cons l ls ih => intro w; exact ih (w.setPBits p (laneBit l) (b l))

theorem Wave.pAt_setPEach_other {p q : Nat} (b : Nat → LaneMask) (h : q ≠ p) : ∀ (ls : List Nat) (w : Wave),
    (w.setPEach p b ls).pAt q = w.pAt q := by
  intro ls
  induction ls with
  | nil => intro w; rfl
  | cons l ls ih => intro w; exact (ih _).trans (Wave.pAt_setPBits_other _ _ _ h)

theorem Wave.pAt_setPBits_getLsbD (w : Wave) {p : Nat} (m b : LaneMask) (h : p ≠ 7) (j : Nat) :
    ((w.setPBits p m b).pAt p).getLsbD j = if m.getLsbD j then b.getLsbD j else (w.pAt p).getLsbD j := by
  rw [Wave.pAt_setPBits _ _ _ h, BitVec.getLsbD_or, BitVec.getLsbD_and, BitVec.getLsbD_and, BitVec.getLsbD_not]
  by_cases hj : j < 32
  · cases hm : m.getLsbD j <;> simp [hj]
  · simp [BitVec.getLsbD_of_ge _ _ (Nat.le_of_not_lt hj)]

theorem Wave.pAt_setPEach_getLsbD {p : Nat} (b : Nat → LaneMask) (h : p ≠ 7) {j : Nat} (hj : j < 32) :
    ∀ (ls : List Nat) (w : Wave),
      ((w.setPEach p b ls).pAt p).getLsbD j = if j ∈ ls then (b j).getLsbD j else (w.pAt p).getLsbD j := by
  intro ls
  induction ls with
  | nil => intro w; rfl
  | cons l ls ih =>
    intro w
    rw [show w.setPEach p b (l :: ls) = (w.setPBits p (laneBit l) (b l)).setPEach p b ls from rfl, ih,
      Wave.pAt_setPBits_getLsbD _ _ _ h, laneBit_getLsbD]
    by_cases hl : l = j
    · subst hl; simp [hj]
    · simp [hl, Ne.symm hl]

/-! ### The lanes a vote counts (R148) -/

theorem mask_and_eq_right (b e : LaneMask) : b &&& e = e ↔ ∀ j, e.getLsbD j = true → b.getLsbD j = true := by
  constructor
  · intro h j he
    rw [← h, BitVec.getLsbD_and, Bool.and_eq_true] at he
    exact he.1
  · intro h
    apply BitVec.eq_of_getLsbD_eq
    intro j _
    have := h j
    rw [BitVec.getLsbD_and]
    cases he : e.getLsbD j <;> simp_all

theorem mask_and_eq_zero (b e : LaneMask) : b &&& e = 0 ↔ ∀ j, e.getLsbD j = true → ¬b.getLsbD j = true := by
  constructor
  · intro h j he hb
    have : (b &&& e).getLsbD j = true := by rw [BitVec.getLsbD_and, hb, he]; rfl
    simp [h] at this
  · intro h
    apply BitVec.eq_of_getLsbD_eq
    intro j _
    have := h j
    rw [BitVec.getLsbD_and]
    cases he : e.getLsbD j <;> simp_all

theorem Ctx.voteBits_getLsbD (c : Ctx) (p : Fin 8) (neg : Bool) {j : Nat} (h : j < 32) :
    (c.voteBits p neg).getLsbD j = ((c.w.pAt p.val).getLsbD j != neg) := by
  cases neg <;> simp [Ctx.voteBits, h]

theorem Ctx.peers_getLsbD (c : Ctx) (eff : LaneMask) (l j : Nat) :
    (c.peers eff l).getLsbD j = true ↔ eff.getLsbD j = true ∧ c.sees l j = true := by
  rw [Ctx.peers, maskOf_getLsbD]
  have := @BitVec.lt_of_getLsbD 32 eff j
  simp only [Bool.and_eq_true, decide_eq_true_eq]
  tauto

/-- The source bit of a lane is 1. -/
def Ctx.votesOne (c : Ctx) (p : Fin 8) (neg : Bool) (j : Nat) : Prop := ((c.w.pAt p.val).getLsbD j != neg) = true

/-- In the lanes of a mask the bits of the vote are the source bits. -/
theorem Ctx.voteBits_iff (c : Ctx) (p : Fin 8) (neg : Bool) {e : LaneMask} {j : Nat} (h : e.getLsbD j = true) :
    (c.voteBits p neg).getLsbD j = true ↔ c.votesOne p neg j := by
  rw [c.voteBits_getLsbD p neg (BitVec.lt_of_getLsbD h)]
  rfl

theorem Ctx.ones_getLsbD (c : Ctx) (p : Fin 8) (neg : Bool) (e : LaneMask) (j : Nat) :
    (c.voteBits p neg &&& e).getLsbD j = true ↔ e.getLsbD j = true ∧ c.votesOne p neg j := by
  rw [BitVec.getLsbD_and, Bool.and_eq_true, and_comm]
  exact and_congr_right fun h => c.voteBits_iff p neg h

/-- Every lane of the mask has bit 1. -/
theorem Ctx.ones_eq_all (c : Ctx) (p : Fin 8) (neg : Bool) (e : LaneMask) :
    c.voteBits p neg &&& e = e ↔ ∀ j, e.getLsbD j = true → c.votesOne p neg j := by
  rw [mask_and_eq_right]
  exact forall_congr' fun j => forall_congr' fun h => c.voteBits_iff p neg h

/-- No lane of the mask has bit 1. -/
theorem Ctx.ones_eq_zero (c : Ctx) (p : Fin 8) (neg : Bool) (e : LaneMask) :
    c.voteBits p neg &&& e = 0 ↔ ∀ j, e.getLsbD j = true → ¬c.votesOne p neg j := by
  rw [mask_and_eq_zero]
  exact forall_congr' fun j => forall_congr' fun h => not_congr (c.voteBits_iff p neg h)

theorem bit_eq_zero (b : Bool) : bit b = 0 ↔ b = false := by cases b <;> simp [bit]

/-! ### What each form's result says (the table of R148) -/

theorem VoteForm.result_lt (form : VoteForm) (e ones : LaneMask) : VoteForm.result form e ones < 2 ^ 32 := by
  have hbit : ∀ b, bit b < 2 ^ 32 := by decide
  cases form with
  | some => exact hbit _
  | every => exact hbit _
  | agree => exact hbit _
  | gather => exact ones.isLt
  | count =>
    refine lt_of_le_of_lt (List.length_filter_le _ _) ?_
    simp
  | lead =>
    simp only [VoteForm.result]
    cases h : lanesOf ones with
    | nil => simp
    | cons a as =>
      have := lanesOf_lt ones a (by simp [h])
      simp only [List.headD_cons]
      omega

/-- The lowest lane of a mask, or 32 for none. -/
theorem lanesOf_headD (m : LaneMask) :
    ((lanesOf m).headD 32 = 32 ∧ ∀ j, ¬m.getLsbD j = true) ∨
      (m.getLsbD ((lanesOf m).headD 32) = true ∧ ∀ j, j < (lanesOf m).headD 32 → ¬m.getLsbD j = true) := by
  have hsorted : (lanesOf m).Pairwise (· < ·) := List.pairwise_lt_range.filter _
  have hmem := mem_lanesOf m
  cases h : lanesOf m with
  | nil => exact .inl ⟨rfl, fun j => by simp [← hmem, h]⟩
  | cons a as =>
    rw [h] at hsorted
    refine .inr ⟨by simp [← hmem, h], fun j hj => ?_⟩
    rw [← hmem, h, List.mem_cons]
    rintro (rfl | hin)
    · exact lt_irrefl _ hj
    · exact lt_asymm hj (List.rel_of_pairwise_cons hsorted hin)

/-- COUNT counts the lanes of Eff with bit 1. -/
theorem Ctx.lanesOf_ones (c : Ctx) (p : Fin 8) (neg : Bool) (e : LaneMask) :
    lanesOf (c.voteBits p neg &&& e) = (List.range 32).filter fun j => e.getLsbD j && ((c.w.pAt p.val).getLsbD j != neg) := by
  refine List.filter_congr fun j _ => ?_
  rw [Bool.eq_iff_iff, c.ones_getLsbD, Bool.and_eq_true]
  rfl

section
variable (c : Ctx) (p : Fin 8) (neg : Bool)

/-- What a predicate form says in lane l of the lanes of Eff that it sees. -/
def VoteForm.holdsIn (form : VoteForm) (eff : LaneMask) (l : Nat) : Prop :=
  match form with
  | .some => ∃ j, eff.getLsbD j = true ∧ c.sees l j = true ∧ c.votesOne p neg j
  | .every => ∀ j, eff.getLsbD j = true → c.sees l j = true → c.votesOne p neg j
  | .agree => (∀ j, eff.getLsbD j = true → c.sees l j = true → c.votesOne p neg j) ∨
      ∀ j, eff.getLsbD j = true → c.sees l j = true → ¬c.votesOne p neg j
  | .gather | .count | .lead => False

/-- What the value of a scalar form is. -/
def VoteForm.gives (form : VoteForm) (eff : LaneMask) (x : Nat) : Prop :=
  match form with
  | .gather => x < 2 ^ 32 ∧ ∀ j, j < 32 → (x.testBit j = true ↔ eff.getLsbD j = true ∧ c.votesOne p neg j)
  | .count => x = ((List.range 32).filter fun j => eff.getLsbD j && ((c.w.pAt p.val).getLsbD j != neg)).length
  | .lead => (x = 32 ∧ ∀ j, eff.getLsbD j = true → ¬c.votesOne p neg j) ∨
      (eff.getLsbD x = true ∧ c.votesOne p neg x ∧ ∀ j, j < x → eff.getLsbD j = true → ¬c.votesOne p neg j)
  | .some | .every | .agree => False

theorem VoteForm.result_holdsIn {form : VoteForm} (hform : VoteForm.toPred form = true) (eff : LaneMask) (l : Nat) :
    ¬VoteForm.result form (c.peers eff l) (c.voteBits p neg &&& c.peers eff l) = 0 ↔ VoteForm.holdsIn c p neg form eff l := by
  cases form with
  | some =>
    simp only [VoteForm.result, VoteForm.holdsIn, bit_eq_zero, decide_eq_false_iff_not, not_not, ne_eq, c.ones_eq_zero,
      c.peers_getLsbD]
    push Not
    simp only [and_assoc]
  | every =>
    simp only [VoteForm.result, VoteForm.holdsIn, bit_eq_zero, decide_eq_false_iff_not, not_not, c.ones_eq_all,
      c.peers_getLsbD, and_imp]
  | agree =>
    simp only [VoteForm.result, VoteForm.holdsIn, bit_eq_zero, Bool.not_eq_false, Bool.or_eq_true, decide_eq_true_eq,
      c.ones_eq_all, c.ones_eq_zero, c.peers_getLsbD, and_imp]
  | gather | count | lead => cases hform

theorem VoteForm.result_gives {form : VoteForm} (hform : VoteForm.toPred form = false) (eff : LaneMask) :
    VoteForm.gives c p neg form eff (VoteForm.result form eff (c.voteBits p neg &&& eff)) := by
  cases form with
  | gather => exact ⟨VoteForm.result_lt .gather _ _, fun j _ => c.ones_getLsbD p neg eff j⟩
  | count => exact congrArg List.length (c.lanesOf_ones p neg eff)
  | lead =>
    have h := lanesOf_headD (c.voteBits p neg &&& eff)
    simp only [c.ones_getLsbD, not_and] at h
    exact h.imp_right fun ⟨⟨he, ho⟩, hbelow⟩ => ⟨he, ho, hbelow⟩
  | some | every | agree => cases hform

end

/-! ### Votes into a predicate -/

/-- The bits a predicate form writes in lane l of Eff. -/
def Ctx.voteLane (c : Ctx) (form : VoteForm) (p : Fin 8) (neg : Bool) (eff : LaneMask) (l : Nat) : LaneMask :=
  if VoteForm.result form (c.peers eff l) (c.voteBits p neg &&& c.peers eff l) = 0 then 0 else allLanes

theorem allLanes_getLsbD {l : Nat} (h : l < 32) : allLanes.getLsbD l = true := by
  rw [allLanes, BitVec.getLsbD_allOnes, decide_eq_true h]

theorem Ctx.voteLane_getLsbD (c : Ctx) {form : VoteForm} (hform : VoteForm.toPred form = true) (p : Fin 8) (neg : Bool)
    (eff : LaneMask) {l : Nat} (hl : l < 32) :
    (c.voteLane form p neg eff l).getLsbD l = true ↔ VoteForm.holdsIn c p neg form eff l := by
  rw [← VoteForm.result_holdsIn c p neg hform, Ctx.voteLane]
  split
  · next h => simp [h]
  · next h => simp [h, allLanes_getLsbD hl]

/-- A predicate form writes its result in the lanes of Eff, each from the lanes it sees. -/
theorem vote_predicate {g : Guard} {form : VoteForm} {d : Operand} {pd p : Fin 8} {neg : Bool} {s : State} {c : Ctx}
    (hc : s.ctx? = some c) (hform : VoteForm.toPred form = true) (hpd : pd ≠ 7) :
    Yields (.vote g form d pd p neg) s fun t =>
      ∃ ps, turns s t c (c.w.withPreds ps).advance ∧
        (∀ q, q ≠ pd.val → (c.w.withPreds ps).pAt q = c.w.pAt q) ∧
        ∀ l, l < 32 → (((c.w.withPreds ps).pAt pd.val).getLsbD l = true ↔
          if (c.eff g).getLsbD l then VoteForm.holdsIn c p neg form (c.eff g) l else (c.w.pAt pd.val).getLsbD l = true) := by
  have hpd7 : pd.val ≠ 7 := fun h => hpd (Fin.ext h)
  have hrun : exec (.vote g form d pd p neg) s = .next ((s.modWave c.wid fun w =>
      w.setPEach pd.val (c.voteLane form p neg (c.eff g)) (lanesOf (c.eff g))).advance c.wid) := by
    change execVote g form d pd p neg s = _
    unfold execVote
    rw [withCtx_some hc]
    exact if_pos hform
  refine ⟨_, hrun, (c.w.setPEach pd.val (c.voteLane form p neg (c.eff g)) (lanesOf (c.eff g))).p, ?_⟩
  rw [← Wave.setPEach_withPreds]
  refine ⟨turns_then_advance hc _, fun q hq => Wave.pAt_setPEach_other _ hq _ _, fun l hl => ?_⟩
  rw [Wave.pAt_setPEach_getLsbD _ hpd7 hl]
  simp only [mem_lanesOf]
  split
  · exact c.voteLane_getLsbD hform p neg (c.eff g) hl
  · rfl

/-! ### Votes into a scalar -/

/-- The operation of a scalar form: one value into a scalar register, without sources. -/
def scalarWrite (g : Guard) (n : Fin 32) (x : Word64) : AluOp where
  g := g
  dst := .reg (.s n) false .zero
  srcs := []
  f := fun _ _ _ _ => plain x

/-- What the scalar register holds afterwards: the low half of the value, its upper half 0 (R126). -/
def zeroExtended (x : Word64) : Scalar :=
  ⟨BitVec.ofNat 64 (lo32 x).toNat, resCode (lo32 x), resCode (hi32 (BitVec.ofNat 64 (lo32 x).toNat)), false⟩

theorem zeroExtended_ofNat {n : Nat} (h : n < 2 ^ 32) : (zeroExtended (BitVec.ofNat 64 n)).val.toNat = n := by
  simp only [zeroExtended, lo32, BitVec.toNat_ofNat]
  omega

/-- With an empty Eff nothing is written; otherwise the register is, once. -/
theorem scalarWrite_result (g : Guard) (n : Fin 32) (x : Word64) (c : Ctx) (s : State) :
    (scalarWrite g n x).result c s {} =
      (s.modWave c.wid fun w => if c.eff g = 0 then w else w.setS n.val (zeroExtended x)).advance c.wid := by
  change ((scalarWrite g n x).commit c s {} ((scalarWrite g n x).outs c s {} (passLanes (c.eff g) true))).advance c.wid = _
  rw [passLanes, if_pos rfl]
  split
  · rfl
  · simp only [AluOp.commit, AluOp.outs, AluOp.countAll, AluOp.write, raiseFlags, scalarWrite, List.map_cons, List.map_nil,
      List.foldl_cons, List.foldl_nil, plain]
    rfl

theorem scalarWrite_run (g : Guard) (n : Fin 32) (x : Word64) {s : State} {c : Ctx} (hc : s.ctx? = some c) :
    ∃ t, (scalarWrite g n x).run s = .next t ∧
      turns s t c (if c.eff g = 0 then c.w else c.w.setS n.val (zeroExtended x)).advance := by
  refine ⟨_, AluOp.run_next _ hc rfl (fun _ _ => rfl) (AluOp.verifyTrap_plain _ c s rfl) (xenTrap_none c s _ ?_), ?_⟩
  · intro y hy
    obtain ⟨o, ho, rfl⟩ := List.mem_map.1 hy
    obtain ⟨l, -, rfl⟩ := List.mem_map.1 ho
    rfl
  · rw [scalarWrite_result]
    exact turns_then_advance hc _

/-- A scalar form writes its result over the lanes of Eff, if there is one, zero-extended. -/
theorem vote_scalar {g : Guard} {form : VoteForm} {d : Operand} {pd p : Fin 8} {neg : Bool} {s : State} {c : Ctx}
    (hc : s.ctx? = some c) (hform : VoteForm.toPred form = false) (hd : d.isS = true) :
    Yields (.vote g form d pd p neg) s fun t =>
      (c.eff g = 0 → turns s t c c.w.advance) ∧
      (c.eff g ≠ 0 → ∃ ss, turns s t c (c.w.withScalars ss).advance ∧
        VoteForm.gives c p neg form (c.eff g) (t.held c.wid d true 0).val.toNat ∧
        ∀ n, (∀ k, d = .s k → n ≠ k.val) → (c.w.withScalars ss).sAt n = c.w.sAt n) := by
  obtain ⟨n, rfl⟩ : ∃ n, d = .s n := by cases d <;> simp_all [Operand.isS]
  have hgives := VoteForm.result_gives c p neg hform (c.eff g)
  generalize hr : VoteForm.result form (c.eff g) (c.voteBits p neg &&& c.eff g) = r at hgives
  have hlt : r < 2 ^ 32 := hr ▸ VoteForm.result_lt _ _ _
  obtain ⟨t, hrun, hturn⟩ := scalarWrite_run g n (BitVec.ofNat 64 r) hc
  refine ⟨t, ?_, fun h => ?_, fun h => ?_⟩
  · change execVote g form (.s n) pd p neg s = _
    unfold execVote
    rw [withCtx_some hc]
    simp only [hform, Bool.false_eq_true, if_false, hr]
    exact hrun
  · rwa [if_pos h] at hturn
  · rw [if_neg h] at hturn
    refine ⟨(c.w.setS n.val (zeroExtended (BitVec.ofNat 64 r))).s, hturn, ?_, fun k hk => ?_⟩
    · have hheld : (t.held c.wid (.s n) true 0).val = (zeroExtended (BitVec.ofNat 64 r)).val := by
        simp [State.held, waveD_of hturn.both, Scalar.opVal]
      rw [hheld, zeroExtended_ofNat hlt]
      exact hgives
    · exact Wave.sAt_setS_other _ _ (hk n rfl)

/-! ### PLOP (R153) -/

/-- The operation on one lane's bits. -/
def PlopOp.bit (op : PlopOp) (a b : Bool) : Bool :=
  match op with
  | .and => a && b
  | .or => a || b
  | .xor => a != b
  | .andn => a && !b
  | .not => !a
  | .mov => a

theorem PlopOp.apply_getLsbD (op : PlopOp) (a b : LaneMask) {l : Nat} (h : l < 32) :
    (PlopOp.apply op a b).getLsbD l = PlopOp.bit op (a.getLsbD l) (b.getLsbD l) := by
  cases op <;> simp [PlopOp.apply, PlopOp.bit, h]

/-- PLOP writes its predicate in the lanes of Eff, and only there. -/
theorem plop_writes {g : Guard} {op : PlopOp} {pd pa pb : Fin 8} {s : State} {c : Ctx} (hc : s.ctx? = some c) (hpd : pd ≠ 7) :
    Yields (.plop g op pd pa pb) s fun t => ∃ ps, turns s t c (c.w.withPreds ps).advance ∧
      (∀ q, q ≠ pd.val → (c.w.withPreds ps).pAt q = c.w.pAt q) ∧
      ∀ l, l < 32 → ((c.w.withPreds ps).pAt pd.val).getLsbD l =
        if (c.eff g).getLsbD l then PlopOp.bit op ((c.w.pAt pa.val).getLsbD l) ((c.w.pAt pb.val).getLsbD l)
        else (c.w.pAt pd.val).getLsbD l := by
  refine ⟨_, withCtx_some hc _,
    (c.w.setPBits pd.val (c.eff g) (PlopOp.apply op (c.w.pAt pa.val) (c.w.pAt pb.val))).p, ?_⟩
  rw [← Wave.setPBits_withPreds]
  refine ⟨turns_then_advance hc _, fun q hq => Wave.pAt_setPBits_other _ _ _ hq, fun l hl => ?_⟩
  rw [Wave.pAt_setPBits_getLsbD _ _ _ fun h => hpd (Fin.ext h), PlopOp.apply_getLsbD op _ _ hl]

/-! ### Votes and predicate logic together -/

/-- Settles O13: a predicate form by what its result says of the lanes seen, a scalar form by its value, PLOP bit by bit. -/
theorem votesAndPredicateLogicWrite : Obligations.VotesAndPredicateLogicWrite := by
  constructor
  · intro g form d pd p neg s c hc hwf
    have hown := Instr.ownWf_of_wf hwf
    cases form with
    | some | every | agree =>
      simp only [Instr.ownWf, Bool.and_eq_true, decide_eq_true_eq] at hown
      exact vote_predicate hc rfl hown.2
    | gather | count | lead =>
      simp only [Instr.ownWf, Bool.and_eq_true] at hown
      exact vote_scalar hc rfl hown.1
  · intro g op pd pa pb s c hc hwf
    have hown := Instr.ownWf_of_wf hwf
    simp only [Instr.ownWf, Bool.and_eq_true, decide_eq_true_eq] at hown
    have h := plop_writes (g := g) (op := op) (pa := pa) (pb := pb) hc hown.1
    cases op <;> exact h

end Sys2Proof.Machine
